-- ==== Sys2Proof/Word.lean ====
section
/-! DEFINITION. The word types of the machine (R4, R108) and their plainest arithmetic: nothing here depends on the
state or on an instruction. -/

namespace Sys2Proof

/-- A 64-bit general register, special register or timeout. -/
abbrev Word := BitVec 64

/-- A byte of memory. -/
abbrev Byte := BitVec 8

/-- A virtual address (R12). -/
abbrev Addr := BitVec 48

/-- A vector register (R154). -/
abbrev VWord := BitVec 2048

/-- A 96-bit instruction word (R44). -/
abbrev IWord := BitVec 96

/-- All ones, the value of a predicate that holds in every lane (R109). -/
def ones64 : Word := BitVec.allOnes 64

/-- `sext(64, x)` of a 32-bit value (R6). -/
def sext32 (x : BitVec 32) : Word := x.signExtend 64

/-- `zext(64, x)` of a 32-bit value (R6). -/
def zext32 (x : BitVec 32) : Word := x.zeroExtend 64

/-- All ones when a condition holds, else zero (R121, R131). -/
def maskOf (c : Bool) : Word := if c then BitVec.allOnes 64 else 0#64

end Sys2Proof
end

