-- ==== Sys2Proof/Config.lean ====
section
/-! DEFINITION. The free values: what the manual leaves open. None has a body, so no proof can know one.
Each is applied to the counter State.free, which a step that reads one advances, or to operands. -/

namespace Sys2Proof.Config

/-- A duration or choice the manual does not fix (LPDDR-6, walk, chunk, peer, host and runtime times, start delay,
the granted clusters, the fetched value between flushes). -/
opaque freeNat : Nat → Nat

/-- A two-way choice the manual does not fix. -/
opaque freeBool : Nat → Bool

/-- A 64-bit value the manual does not fix (an unstated result, a value of a remote or cryptographic unit). -/
opaque freeWord : Nat → BitVec 64

/-- The value 0, +1 or −1 (as 0, 1, 2 modulo 3) that an integer whose low two bits are 0b10 converts to as TERN: R75 takes
the low bits and forbids that encoding. -/
opaque ternLow : Nat → Nat

/-- A SHA-256 measurement or digest (R362): index of the measurement, then the configuration it measures. -/
opaque measure : Nat → Nat → BitVec 256

/-- Whether the package is part of a larger load-store domain, whose runtime numbers the devices (R359). -/
opaque domain : Bool

/-- Whether accesses from a die reach a device only through the link of a peer port: a die, the port, the device (R359). -/
opaque onlyLink : Nat → Nat → Nat → Bool

end Sys2Proof.Config
end

