-- ==== Sys2Proof/Syntax.lean ====
section
/-! DEFINITION. The operand forms and the one inductive of instructions: a constructor for each row of
spec/opcode_table.json. The first 157 are Pyrdal instructions (R55), each with its guard (R26, R50) and the operands
its chapter gives it. The rest are the machine's own steps (messages, engines, the runtime, the host): they have no
encoding, and wait in the state's agenda. -/

namespace Sys2Proof

/-! ### Registers and operands (R47, R49, R50) -/

/-- A guard `(pN)` or `(!pN)` (R26). -/
structure Guard where
  neg : Bool
  p   : Fin 8
  deriving DecidableEq, Repr

abbrev GReg := Fin 32
abbrev VReg := Fin 16
abbrev PReg := Fin 8
abbrev DReg := Fin 8
abbrev ChReg := Fin 8

/-- Source B of a scalar instruction: a g register, or a 32-bit literal when L = 1 (R44, R49). -/
inductive OpB
  | g (r : GReg)
  | lit (v : BitVec 32)
  deriving DecidableEq, Repr

/-- Source B of a vector instruction: v register, broadcast g register, or literal (R156). -/
inductive OpV
  | v (r : VReg)
  | g (r : GReg)
  | lit (x : BitVec 32)
  deriving DecidableEq, Repr

/-- Destination of `MOV`: a g or a p register (R123). -/
inductive MovD
  | g (r : GReg)
  | p (r : PReg)
  deriving DecidableEq, Repr

/-- Source of `MOV`: a g or p register, or a literal (R123). -/
inductive MovB
  | g (r : GReg)
  | p (r : PReg)
  | lit (v : BitVec 32)
  deriving DecidableEq, Repr

/-- The special registers 0x40 to 0x5B (R112). -/
inductive SReg
  | tid | core | cx | cy | die | cluster | stage | lanes | mtile | cid | tags | tagerr | fmode | fflags | energy
  | cycles | forfeit | wlocc | instant | node | args | scb | light | wsize | asize | csize | monstat | graph
  deriving DecidableEq, Repr

/-- The special registers task code may write (R47, R124). -/
inductive WSReg
  | fmode | fflags
  deriving DecidableEq, Repr

/-- The type codes 0x00 to 0x16 (R61). -/
inductive ETy
  | fp32 | fl19 | fp16 | bf16 | f8e4 | f8e5 | f6e3 | f6e2 | f4e2 | int16 | int8 | uint8 | int4 | uint4 | tern | bin1
  | q16n | q16f | b8i | b4i | fp64 | int32 | int64
  deriving DecidableEq, Repr

/-- The RND field (R53): the five modes and dynamic rounding. -/
inductive Rnd
  | rne | rtz | rdn | rup | rna | dyn
  deriving DecidableEq, Repr

/-- X of the FP class (R53). -/
structure FpX where
  ty  : ETy
  rnd : Rnd
  sat : Bool
  deriving DecidableEq, Repr

/-- The SPACE field (R53). -/
inductive Space
  | glob | wbuf | abuf | cbuf | queue | zmap
  deriving DecidableEq, Repr

/-- The ORD field (R53). -/
inductive Ord4
  | plain | acq | rel | ar
  deriving DecidableEq, Repr

/-- X of the memory and atomic class, and RX (R52, R53). -/
structure MemX where
  rx    : Bool
  ety   : ETy
  space : Space
  ord   : Ord4
  obs   : BitVec 5
  deriving DecidableEq, Repr

/-- Variants of `MULH` (R117). -/
inductive MulhV
  | s | u | su
  deriving DecidableEq, Repr

/-- Conditions of `CMP` (R117). -/
inductive Cond
  | eq | ne | lt | ge | ltu | geu | le | gt
  deriving DecidableEq, Repr

/-- Operations of `PLOG` (R122). -/
inductive PlogOp
  | and | or | xor | andn | orn | nand | nor | xnor
  deriving DecidableEq, Repr

/-- Conditions of `FCMP` (R128) and, with 6 and 7 read by type, of `VCMP` (R162). -/
inductive FCond
  | eq | ne | lt | le | gt | ge | c6 | c7
  deriving DecidableEq, Repr

/-- Variants of `FSGN` (R128). -/
inductive SgnV
  | copy | neg | xor
  deriving DecidableEq, Repr

/-- Operations of `VRED` and `VSCANP` (R157). -/
inductive VRedOp
  | add | min | max | and | or | xor
  deriving DecidableEq, Repr

/-- Operations of `RED` (R278). -/
inductive RedOp
  | add | and | or | xor | swap | min | max | fadd | fmin | fmax
  deriving DecidableEq, Repr

/-- What `SSTAT` reads (R177). -/
inductive StatV
  | rem | pos | st
  deriving DecidableEq, Repr

/-- The clause operations 0 to 30 (R141). -/
inductive ClOp
  | pass | add | sub | mul | div | divu | rem | and | or | xor | shl | shr | sra | min | max | minu | maxu
  | fadds | fsubs | fmuls | fdivs | fmins | fmaxs | faddd | fsubd | fmuld | fdivd | cmplt | cmpltu | cmpeq | selnz
  deriving DecidableEq, Repr

/-- X of `BIND` (R140). -/
structure BindX where
  slot : Fin 8
  form : Fin 4
  op1  : ClOp
  op2  : ClOp
  deriving DecidableEq, Repr

/-! ### What the outside hands the machine -/

/-- A section of an application image (R352): the named kinds, or a section named by `.section`. -/
inductive SecKind
  | text | data | rodata | cards | graph | args | ctl | other (n : Nat)
  deriving DecidableEq, Repr

/-- A section as the linker placed it. -/
structure Section where
  kind  : SecKind
  va    : Nat
  bytes : List Byte
  deriving DecidableEq, Repr

/-- An application image: the ELF header fields the runtime checks, and its sections (R352). -/
structure Image where
  machine : Nat
  etype   : Nat
  secs    : List Section
  deriving DecidableEq, Repr

/-- One Pyrdal instruction or one machine step. -/
inductive Instr
  -- Issue slots, threads and launches (R100)
  | nop (gd : Guard)
  | br (gd : Guard) (off : BitVec 32)
  | brx (gd : Guard) (a : GReg)
  | call (gd : Guard) (off : BitVec 32)
  | callx (gd : Guard) (a : GReg)
  | tstart (gd : Guard) (d a : GReg) (b : OpB)
  | tstartLight (gd : Guard) (d a : GReg) (b : OpB)
  | treap (gd : Guard) (d : GReg) (b : OpB)
  | texit (gd : Guard) (b : OpB)
  | tstat (gd : Guard) (d : GReg) (b : OpB)
  | halt (gd : Guard) (d : GReg) (b : OpB)
  -- Work lists and the tile queue (R291, R294)
  | spawn (gd : Guard) (d : PReg) (a c : GReg)
  | take (gd : Guard) (d : PReg) (a : GReg)
  | fetchtile (gd : Guard) (d : PReg) (a : GReg)
  | tileq (gd : Guard) (a : GReg) (b : OpB)
  | go (gd : Guard) (a : GReg) (b : OpB)
  -- System (R336) and VCOPYB (R195)
  | hcall (gd : Guard) (b : OpB)
  | trap (gd : Guard) (b : OpB)
  | eret (gd : Guard)
  | sysr (gd : Guard) (d : GReg) (num : BitVec 32)
  | sysw (gd : Guard) (a : GReg) (num : BitVec 32)
  | bkpt (gd : Guard) (b : OpB)
  | iflush (gd : Guard)
  | vcopyb (gd : Guard) (dest frm : Fin 4) (d a c : GReg)
  -- Scalar integer (R117)
  | add (gd : Guard) (w32 sat : Bool) (d a : GReg) (b : OpB)
  | sub (gd : Guard) (w32 sat : Bool) (d a : GReg) (b : OpB)
  | mul (gd : Guard) (w32 : Bool) (d a : GReg) (b : OpB)
  | mulh (gd : Guard) (w32 : Bool) (v : MulhV) (d a : GReg) (b : OpB)
  | div (gd : Guard) (w32 u : Bool) (d a : GReg) (b : OpB)
  | rem (gd : Guard) (w32 u : Bool) (d a : GReg) (b : OpB)
  | and (gd : Guard) (w32 : Bool) (d a : GReg) (b : OpB)
  | or (gd : Guard) (w32 : Bool) (d a : GReg) (b : OpB)
  | xor (gd : Guard) (w32 : Bool) (d a : GReg) (b : OpB)
  | andn (gd : Guard) (w32 : Bool) (d a : GReg) (b : OpB)
  | shl (gd : Guard) (w32 : Bool) (d a : GReg) (b : OpB)
  | shr (gd : Guard) (w32 arith : Bool) (d a : GReg) (b : OpB)
  | rot (gd : Guard) (w32 right : Bool) (d a : GReg) (b : OpB)
  | min (gd : Guard) (w32 u : Bool) (d a : GReg) (b : OpB)
  | max (gd : Guard) (w32 u : Bool) (d a : GReg) (b : OpB)
  | clz (gd : Guard) (w32 trailing : Bool) (d a : GReg)
  | popc (gd : Guard) (w32 : Bool) (d a : GReg)
  | sel (gd : Guard) (w32 : Bool) (d a : GReg) (b : OpB) (c : PReg)
  | cmp (gd : Guard) (w32 : Bool) (cond : Cond) (d : PReg) (a : GReg) (b : OpB)
  | plog (gd : Guard) (op : PlogOp) (d a b : PReg)
  | mov (gd : Guard) (w32 : Bool) (d : MovD) (b : MovB)
  | movh (gd : Guard) (d : GReg) (b : OpB)
  | movs (gd : Guard) (d : GReg) (r : SReg)
  | wrs (gd : Guard) (r : WSReg) (b : OpB)
  | ext (gd : Guard) (sx : Bool) (d a : GReg) (b : OpB)
  | ins (gd : Guard) (d a : GReg) (b : OpB) (c : GReg)
  | lea (gd : Guard) (w32 : Bool) (k : Fin 5) (d a : GReg) (b : OpB)
  -- Scalar floating point (R128)
  | fadd (gd : Guard) (x : FpX) (d a : GReg) (b : OpB)
  | fsub (gd : Guard) (x : FpX) (d a : GReg) (b : OpB)
  | fmul (gd : Guard) (x : FpX) (d a : GReg) (b : OpB)
  | ffma (gd : Guard) (x : FpX) (d a : GReg) (b : OpB) (c : GReg)
  | fdiv (gd : Guard) (x : FpX) (d a : GReg) (b : OpB)
  | fsqrt (gd : Guard) (x : FpX) (d a : GReg)
  | fmin (gd : Guard) (x : FpX) (d a : GReg) (b : OpB)
  | fmax (gd : Guard) (x : FpX) (d a : GReg) (b : OpB)
  | fcmp (gd : Guard) (cond : FCond) (x : FpX) (d : PReg) (a : GReg) (b : OpB)
  | fcvt (gd : Guard) (src : ETy) (x : FpX) (d a : GReg)
  | frcp (gd : Guard) (x : FpX) (d a : GReg)
  | frsq (gd : Guard) (x : FpX) (d a : GReg)
  | frstep (gd : Guard) (rsq : Bool) (x : FpX) (d a : GReg) (b : OpB)
  | fclass (gd : Guard) (x : FpX) (d a : GReg)
  | fsgn (gd : Guard) (m : SgnV) (x : FpX) (d a : GReg) (b : OpB)
  -- Vector (R157)
  | vadd (gd : Guard) (x : FpX) (d a : VReg) (b : OpV)
  | vsub (gd : Guard) (x : FpX) (d a : VReg) (b : OpV)
  | vmul (gd : Guard) (x : FpX) (d a : VReg) (b : OpV)
  | vfma (gd : Guard) (x : FpX) (d a : VReg) (b : OpV) (c : VReg)
  | vmin (gd : Guard) (u : Bool) (x : FpX) (d a : VReg) (b : OpV)
  | vmax (gd : Guard) (u : Bool) (x : FpX) (d a : VReg) (b : OpV)
  | vabs (gd : Guard) (x : FpX) (d a : VReg)
  | vneg (gd : Guard) (x : FpX) (d a : VReg)
  | vcvt (gd : Guard) (src : ETy) (part : Fin 4) (x : FpX) (d a : VReg)
  | vcmp (gd : Guard) (cond : FCond) (x : FpX) (d : PReg) (a : VReg) (b : OpV)
  | vsel (gd : Guard) (x : FpX) (d a : VReg) (b : OpV) (c : PReg)
  | vand (gd : Guard) (x : FpX) (d a : VReg) (b : OpV)
  | vor (gd : Guard) (x : FpX) (d a : VReg) (b : OpV)
  | vxor (gd : Guard) (x : FpX) (d a : VReg) (b : OpV)
  | vshl (gd : Guard) (x : FpX) (d a : VReg) (b : OpV)
  | vshr (gd : Guard) (arith : Bool) (x : FpX) (d a : VReg) (b : OpV)
  | vred (gd : Guard) (op : VRedOp) (u : Bool) (x : FpX) (d : GReg) (a : VReg)
  | vbcast (gd : Guard) (elem : Option VReg) (x : FpX) (d : VReg) (b : OpB)
  | vperm (gd : Guard) (x : FpX) (d a b : VReg)
  | viota (gd : Guard) (x : FpX) (d : VReg) (b : OpB)
  | vrcp (gd : Guard) (x : FpX) (d a : VReg)
  | vrsq (gd : Guard) (x : FpX) (d a : VReg)
  | vrstep (gd : Guard) (rsq : Bool) (x : FpX) (d a : VReg) (b : OpV)
  | vexp2 (gd : Guard) (x : FpX) (d a : VReg)
  | vlog2 (gd : Guard) (x : FpX) (d a : VReg)
  | vszb (gd : Guard) (int : Bool) (x : FpX) (d a : VReg) (b : OpV)
  | vextr (gd : Guard) (x : FpX) (d : GReg) (a : VReg) (b : OpB)
  | vinsr (gd : Guard) (x : FpX) (d : VReg) (a : GReg) (b : OpB)
  | vscanp (gd : Guard) (op : VRedOp) (u ex : Bool) (x : FpX) (d a : VReg)
  | nzscan (gd : Guard) (d : VReg) (a : GReg) (b : OpB) (c : GReg)
  -- Streams (R169 to R177)
  | scfg (gd : Guard) (out : Bool) (ety : ETy) (space : Fin 4) (ndim : Fin 4) (d : VReg) (a : GReg) (b : OpB)
  | sstart (gd : Guard) (d : Fin 8)
  | sstop (gd : Guard) (d : Fin 8)
  | sstat (gd : Guard) (what : StatV) (d : GReg) (a : Fin 8)
  -- Memory (R210, R216, R224)
  | ld (gd : Guard) (sx : Bool) (x : MemX) (d a : GReg) (b : OpB)
  | st (gd : Guard) (x : MemX) (a : GReg) (b : OpB) (c : GReg)
  | ldp (gd : Guard) (sx : Bool) (x : MemX) (d a : GReg) (b : OpB)
  | stp (gd : Guard) (x : MemX) (a : GReg) (b : OpB) (c : GReg)
  | vld (gd : Guard) (x : MemX) (d : VReg) (a : GReg) (b : OpB)
  | vst (gd : Guard) (zb : Bool) (x : MemX) (a : GReg) (b : OpB) (c : VReg)
  | vldx (gd : Guard) (k : Fin 4) (x : MemX) (d : VReg) (a : GReg) (b : VReg)
  | vstx (gd : Guard) (zb : Bool) (k : Fin 4) (x : MemX) (a : GReg) (b c : VReg)
  | stq (gd : Guard) (a : GReg) (b : OpB) (c : VReg)
  | fence (gd : Guard) (obs : BitVec 5)
  -- Atomics (R278)
  | amoadd (gd : Guard) (x : MemX) (d a : GReg) (b : OpB) (c : GReg)
  | amoand (gd : Guard) (x : MemX) (d a : GReg) (b : OpB) (c : GReg)
  | amoor (gd : Guard) (x : MemX) (d a : GReg) (b : OpB) (c : GReg)
  | amoxor (gd : Guard) (x : MemX) (d a : GReg) (b : OpB) (c : GReg)
  | amoswap (gd : Guard) (x : MemX) (d a : GReg) (b : OpB) (c : GReg)
  | amomin (gd : Guard) (u : Bool) (x : MemX) (d a : GReg) (b : OpB) (c : GReg)
  | amomax (gd : Guard) (u : Bool) (x : MemX) (d a : GReg) (b : OpB) (c : GReg)
  | amofadd (gd : Guard) (x : MemX) (d a : GReg) (b : OpB) (c : GReg)
  | amofmin (gd : Guard) (x : MemX) (d a : GReg) (b : OpB) (c : GReg)
  | amofmax (gd : Guard) (x : MemX) (d a : GReg) (b : OpB) (c : GReg)
  | cas (gd : Guard) (x : MemX) (d a : GReg) (b : OpB) (c : GReg)
  | cas2 (gd : Guard) (x : MemX) (d a : GReg) (b : OpB) (c : GReg)
  | red (gd : Guard) (op : RedOp) (u : Bool) (ety : ETy) (a : GReg) (b : OpB) (c : GReg)
  -- Clauses (R140, R150 to R152)
  | bind (gd : Guard) (x : BindX) (d a : GReg) (b : OpB) (c : GReg)
  | unbind (gd : Guard) (slot : Fin 8)
  | unbindAll (gd : Guard)
  | clst (gd : Guard) (d : GReg) (b : OpB)
  | clhold (gd : Guard)
  | clrel (gd : Guard)
  -- Monitors and barriers (R283, R287)
  | marm (gd : Guard) (a : GReg) (b : OpB)
  | mdis (gd : Guard) (a : GReg) (b : OpB)
  | mdisAll (gd : Guard)
  | mwait (gd : Guard) (d : GReg) (b : OpB)
  | breg (gd : Guard) (n : Fin 8) (a : GReg)
  | bcfg (gd : Guard) (n : Fin 8) (a : GReg)
  | barr (gd : Guard) (n : Fin 8)
  | bwait (gd : Guard) (n : Fin 8) (d : GReg) (b : OpB)
  -- Tags and queues (R239)
  | twany (gd : Guard) (d a : GReg) (b : OpB)
  | twall (gd : Guard) (d a : GReg) (b : OpB)
  | tffr (gd : Guard) (d a : GReg)
  | tclr (gd : Guard) (d : GReg) (b : OpB)
  | tstatus (gd : Guard) (d : GReg) (b : OpB)
  | qstat (gd : Guard) (d : GReg) (b : OpB)
  -- Reactive regions (R299, R305)
  | ginvoke (gd : Guard) (d : PReg) (a : GReg) (b : OpB)
  | emit (gd : Guard) (a : GReg) (b : OpB)
  | sigt (gd : Guard) (d : PReg) (b : OpB)
  | sigq (gd : Guard) (d : GReg) (b : OpB)
  | sigv (gd : Guard) (d : GReg) (b : OpB)
  | retract (gd : Guard) (b : OpB)
  | retractAll (gd : Guard)
  | pause (gd : Guard)
  | dget (gd : Guard) (d : GReg) (a : DReg)
  | dset (gd : Guard) (d : DReg) (b : OpB)
  | chw (gd : Guard) (d : ChReg) (b : OpB)
  | chr (gd : Guard) (d : GReg) (a : ChReg)
  | sigpre (gd : Guard) (val : Bool) (d : GReg) (b : OpB)
  | gend (gd : Guard)
  -- Machine steps: memory and homes. A core is die × 256 + die index, a cluster die × 16 + physical cluster.
  | memoryReply (req : Nat)
  | homeAccess (core : Nat)
  | atomicRequest (req : Nat)
  | redAcknowledgement (req : Nat)
  | relaxedAccessPerformed (req : Nat)
  | postedStoreAccepted (req : Nat)
  | postedStoreAck (req : Nat)
  | translationWalk (die walk : Nat)
  -- Thread life
  | waitTimeout (core slot serial : Nat)
  | threadStartMessage (core cid : Nat)
  | migrationArrival (m : Nat)
  | migrationRetry (m : Nat)
  | landingSlotClaim (core : Nat)
  | guestExitMessage (core slot cid : Nat) (v : Word)
  | hcallReply (die cid call status : Nat) (r1 r2 : Word)
  -- Streams and engines
  | streamPrefetch (core slot : Nat) (reg : Fin 8)
  | streamElementWrite (core slot : Nat) (reg : Fin 8)
  | cardAdmission (cluster : Nat)
  | copyJobStart (core : Nat)
  | copyChunk (core : Nat)
  | copyJobComplete (core : Nat)
  | copySteal (core : Nat)
  | mmaFire (core : Nat)
  | mmaComplete (core : Nat)
  | ellipsisJobStart (cluster : Nat)
  | mergeJob (cluster : Nat)
  | unmergeJob (cluster : Nat)
  | routeJob (cluster : Nat)
  | mapfreeJob (cluster : Nat)
  | collectiveComplete (coll : Nat)
  -- Monitors, barriers, work lists, tiles
  | monitorArmRequest (core slot k : Nat)
  | monitorDisarmRequest (core slot k : Nat)
  | monitorAck (core slot serial : Nat)
  | fireNoticeArrival (core slot k arm : Nat)
  | monitorLostNotice (core slot k arm : Nat)
  | barrierArrival (core id : Nat)
  | barrierPhaseComplete (core id : Nat)
  | skipperTick (core : Nat)
  | skipperOccupancy (frm dest n : Nat)
  | skipperOffer (frm dest k : Nat)
  | skipperGrant (frm dest g : Nat)
  | skipperTransfer (frm dest g : Nat) (entries : List (Word × Word))
  | tileRequest (core slot serial : Nat)
  | tileReply (core slot serial : Nat) (tile : Option Word)
  -- Instants
  | invocationMessage (m : Nat)
  | invocationReply (m : Nat)
  | instantBegin (cluster graph : Nat)
  | nodeStart (cluster graph node : Nat)
  | emitMessage (cluster graph node sig : Nat) (v : Word)
  | signalQuery (cluster graph node : Nat)
  | channelRequest (cluster graph node : Nat)
  | instantEnd (cluster graph : Nat)
  | causalityFreeze (cluster graph : Nat)
  | frozenInvocation (cluster graph : Nat)
  | regionForcedReadout (cluster : Nat)
  -- Energy, links
  | staticEnergyTick (core : Nat)
  | permitAudit (die : Nat)
  | linkRetrainEnd (die link : Nat)
  -- Launches and contexts
  | placement (die : Nat)
  | launchComplete (launch : Nat)
  | lazySave (core cid : Nat)
  | preemptComplete (die cid : Nat)
  | contextSave (core cid : Nat)
  | contextRestore (core cid : Nat)
  | killMessageArrival (core cid : Nat)
  | killWindowEnd (core cid : Nat)
  | killDone (die cid : Nat)
  | unhandledTrapKill (die cid reason : Nat)
  | eventAcceptance (die : Nat)
  -- Further steps: debug, boot, power (R358, R363, R364), rows at the table's end
  | debugStepEnd (core slot : Nat)
  | tdiError (part : Nat)
  | romVerify
  | fullEntry
  | powerStateEntry (unit index : Nat)
  | powerStateExit (unit index : Nat)
  | clockThrottle (watts : Nat)
  | nodeDoneMessage (cluster graph node : Nat) (sigs : Word) (kind : Nat)
  | wastedSlot (core slot : Nat)
  | collectivePhaseEnd (coll : Nat)
  | waitCallTimeout (app launch : Nat)
  -- From outside: context control (R357), system calls (R353), security (R361, R362), the host (R351, R364), link blocks
  | invalidate (die cid va count : Nat)
  | interrupt (die cid core thread : Nat) (word : BitVec 32)
  | saveResume (die cid core : Nat)
  | idleRead (die core : Nat)
  | debugHalt (die core : Nat)
  | debugGo (die core : Nat)
  | saveArea (die cid core base len : Nat)
  | groupSet (die group npart : Nat) (members : List (Nat × Nat))
  | debugRead (die cid core off len buf : Nat)
  | debugWrite (die cid core off : Nat) (bytes : List Byte)
  | debugStep (die cid core thread : Nat)
  | exit (app : Nat) (code : Word)
  | log (app addr len : Nat)
  | mapx (app : Nat) (words : List IWord) (tail : Nat)
  | translatorQuotaExhausted (app : Nat)
  | launch (app die : Nat) (desc : BitVec 1024)
  | wait (app launch timeout : Nat)
  | alloc (app bytes : Nat) (word0 : Word)
  | free (app va : Nat)
  | event (app buf cap : Nat)
  | partitionInfo (app buf : Nat)
  | lockInterface (part : Nat)
  | startInterface (part : Nat)
  | stopInterface (part : Nat)
  | getVersion
  | getCapabilities
  | negotiateAlgorithms
  | getDigests
  | getCertificate
  | challenge (nonce : BitVec 256)
  | getMeasurements (index : Nat)
  | keyExchange (port : Option Nat)
  | finish (port : Option Nat)
  | latencyToleranceWrite (ns : Nat)
  | powerCapWrite (watts : Nat)
  | hostRegisterWrite (off : Nat) (v : Word)
  | applicationImageLoad (app : Nat) (img : Image)
  | partitionConfiguration (part device : Nat) (dies : List Nat) (keys : List Nat)
  | linkBlockReceive (port : Nat) (tagOk : Bool)
  | preempt (die cid : Nat) (forced : Bool)
  | kill (die cid : Nat)
  deriving DecidableEq, Repr

end Sys2Proof
end

