-- ==== Sys2Proof/WellFormed.lean ====
section
/-! DEFINITION. Which instructions the encoding tables allow (R46, R52 to R54, R117, R128, R143, R157, R188, R210,
R278): what a constructor's operand types do not already say. Machine steps have no encoding and are not restricted. -/

namespace Sys2Proof

/-- Integer type codes an instruction can name (R61). -/
def ETy.isInt : ETy → Bool
  | .int8 | .int16 | .int32 | .int64 => true
  | _ => false

/-- The six vector types (R157). -/
def ETy.native : ETy → Bool
  | .fp32 | .fp16 | .bf16 | .int32 | .int16 | .int8 => true
  | _ => false

/-- Bits per element (R61); block formats count their codes. -/
def ETy.bits : ETy → Nat
  | .fp64 | .int64 => 64
  | .fp32 | .fl19 | .int32 => 32
  | .fp16 | .bf16 | .int16 => 16
  | .f8e4 | .f8e5 | .int8 | .uint8 | .b8i => 8
  | .f6e3 | .f6e2 => 6
  | .f4e2 | .int4 | .uint4 | .q16n | .q16f | .b4i => 4
  | .tern => 2
  | .bin1 => 1

/-- Types of the scalar arithmetic instructions (R128). -/
def ETy.isF3264 : ETy → Bool
  | .fp32 | .fp64 => true
  | _ => false

/-- Types of `FCLASS` and `FSGN` (R128). -/
def ETy.isF4 : ETy → Bool
  | .fp32 | .fp64 | .fp16 | .bf16 => true
  | _ => false

/-- Types of `FCVT`, source or target (R128). -/
def ETy.isCvt : ETy → Bool
  | .fp32 | .fp64 | .fp16 | .bf16 | .int32 | .int64 => true
  | _ => false

/-- Integer types of the vector logic instructions (R157). -/
def ETy.isVInt : ETy → Bool
  | .int32 | .int16 | .int8 => true
  | _ => false

/-- Types of scalar loads and stores (R210). -/
def ETy.isMem : ETy → Bool
  | .int8 | .int16 | .int32 | .int64 | .fp16 | .bf16 | .fp32 | .fp64 => true
  | _ => false

/-- Types of integer atomics (R278). -/
def ETy.isAI : ETy → Bool
  | .int32 | .int64 => true
  | _ => false

/-- Types of `VLDX` and `VSTX` (R210). -/
def ETy.is32 : ETy → Bool
  | .fp32 | .int32 => true
  | _ => false

/-- X of a scalar FP instruction: TYPE accepted, SAT only where marked (R127). -/
def FpX.okS (tyOk : ETy → Bool) (satOk : Bool) (x : FpX) : Bool :=
  tyOk x.ty && (!x.sat || satOk)

/-- X of a vector instruction: moreover RND is 0 for an integer TYPE (R156). -/
def FpX.okV (tyOk : ETy → Bool) (satOk : Bool) (x : FpX) : Bool :=
  tyOk x.ty && (!x.sat || satOk) && (!x.ty.isInt || x.rnd == .rne)

/-- ORD and OBS agree (R54), and RX only on a plain access (R52). -/
def MemX.okOrd (x : MemX) : Bool :=
  ((x.ord == .plain) == (x.obs == 0#5)) && (!x.rx || x.ord == .plain)

/-- Orders a load takes (R210). -/
def Ord4.isLoad : Ord4 → Bool
  | .plain | .acq => true
  | _ => false

/-- Orders a store takes (R210). -/
def Ord4.isStore : Ord4 → Bool
  | .plain | .rel => true
  | _ => false

/-- Spaces of the scalar loads and stores (R210); `zmap` takes integer types only (R211). -/
def MemX.okScalar (x : MemX) : Bool :=
  x.ety.isMem && x.space != .queue && (x.space != .zmap || x.ety.isInt) && x.okOrd

/-- Spaces of the vector loads and stores (R210). -/
def Space.isVec : Space → Bool
  | .glob | .wbuf | .abuf | .cbuf => true
  | _ => false

/-- `.s` only with INT8, INT16 and INT32 (R210). -/
def sxOk (sx : Bool) (t : ETy) : Bool := !sx || t.isVInt

/-- X of an atomic (R278). -/
def MemX.okAmo (tyOk : ETy → Bool) (x : MemX) : Bool :=
  tyOk x.ety && x.space == .glob && x.okOrd && !x.rx

/-- The part of `VCVT` lies below the width ratio (R161). -/
def vcvtOk (src ty : ETy) (part : Nat) : Bool :=
  src.native && part < (Nat.max src.bits ty.bits) / (Nat.min src.bits ty.bits)

/-- Operations and `.u` of `VRED` and `VSCANP` by type (R157). -/
def vredOk (op : VRedOp) (u : Bool) (ty : ETy) : Bool :=
  (ty.isInt || (!u && (op == .add || op == .min || op == .max)))

/-- Operations, `.u` and type of `RED` (R278). -/
def redOk (op : RedOp) (u : Bool) (ty : ETy) : Bool :=
  (!u || op == .min || op == .max) &&
  (match op with
   | .fadd | .fmin | .fmax => ty.isF3264
   | _ => ty.isAI)

/-- The word checks of `BIND` (R143, first row): ops against the form, and unread operands zero. Form 3 reads C, as R140, R142
and the encoding table say against the parenthesis of R143 (notes/assumptions/79, DEDUCED). -/
def bindWordOk (x : BindX) (b : OpB) (c : GReg) : Bool :=
  x.op2 != .selnz && (x.op1 != .selnz || x.form == 0) &&
  ((x.form != 0 && x.form != 3) || x.op2 == .pass) &&
  (x.form != 0 || x.op1 == .selnz || c == 0) &&
  ((x.form != 0 && x.form != 1) || x.op1 != .pass || b == .g 0)

/-- The operand checks of `BIND` (R143, second row). -/
def bindOpsOk (x : BindX) (d : GReg) (b : OpB) : Bool :=
  16 ≤ d.val && d.val ≤ 27 && (x.form != 3 || (match b with | .g r => r != 31 | .lit _ => false))

def evenG (r : GReg) : Bool := r.val % 2 == 0

/-- The instructions the encoding tables allow. -/
def Instr.wellFormed : Instr → Bool
  | .fadd _ x _ _ _ | .fsub _ x _ _ _ | .fmul _ x _ _ _ | .fdiv _ x _ _ _ => x.okS ETy.isF3264 true
  | .ffma _ x _ _ _ _ => x.okS ETy.isF3264 true
  | .fsqrt _ x _ _ => x.okS ETy.isF3264 false
  | .fmin _ x _ _ _ | .fmax _ x _ _ _ => x.okS ETy.isF3264 false
  | .fcmp _ _ x _ _ _ => x.okS ETy.isF3264 false
  | .fcvt _ src x _ _ => src.isCvt && x.okS ETy.isCvt true
  | .frcp _ x _ _ | .frsq _ x _ _ => x.okS (· == .fp32) false
  | .frstep _ _ x _ _ _ => x.okS (· == .fp32) false
  | .fclass _ x _ _ => x.okS ETy.isF4 false
  | .fsgn _ _ x _ _ _ => x.okS ETy.isF4 false
  | .vadd _ x _ _ _ | .vsub _ x _ _ _ | .vmul _ x _ _ _ => x.okV ETy.native true
  | .vfma _ x _ _ _ _ => x.okV ETy.native true
  | .vmin _ u x _ _ _ | .vmax _ u x _ _ _ => x.okV ETy.native false && (!u || x.ty.isInt)
  | .vabs _ x _ _ | .vneg _ x _ _ => x.okV ETy.native true && (!x.sat || x.ty.isInt)
  | .vcvt _ src part x _ _ => x.okV ETy.native true && vcvtOk src x.ty part.val
  | .vcmp _ _ x _ _ _ => x.okV ETy.native false
  | .vsel _ x _ _ _ _ => x.okV ETy.native false
  | .vand _ x _ _ _ | .vor _ x _ _ _ | .vxor _ x _ _ _ | .vshl _ x _ _ _ => x.okV ETy.isVInt false
  | .vshr _ _ x _ _ _ => x.okV ETy.isVInt false
  | .vred _ op u x _ _ => x.okV ETy.native false && vredOk op u x.ty
  | .vbcast _ _ x _ _ => x.okV ETy.native false
  | .vperm _ x _ _ _ => x.okV ETy.native false
  | .viota _ x _ _ => x.okV ETy.isVInt false
  | .vrcp _ x _ _ | .vrsq _ x _ _ | .vexp2 _ x _ _ | .vlog2 _ x _ _ => x.okV (· == .fp32) false
  | .vrstep _ _ x _ _ _ | .vszb _ _ x _ _ _ => x.okV (· == .fp32) false
  | .vextr _ x _ _ _ | .vinsr _ x _ _ _ => x.okV ETy.native false
  | .vscanp _ op u _ x _ _ => x.okV ETy.native false && vredOk op u x.ty
  | .scfg _ _ ety _ _ _ _ _ => ety.native
  | .take _ _ a => evenG a
  | .ld _ sx x _ _ _ => x.okScalar && x.ord.isLoad && sxOk sx x.ety
  | .ldp _ sx x d _ _ => x.okScalar && x.ord.isLoad && sxOk sx x.ety && evenG d
  | .st _ x _ _ _ => x.okScalar && x.ord.isStore
  | .stp _ x _ _ c => x.okScalar && x.ord.isStore && evenG c
  | .vld _ x _ _ _ => x.ety.native && x.space.isVec && x.ord.isLoad && x.okOrd
  | .vst _ zb x _ _ _ => x.ety.native && x.space.isVec && x.ord.isStore && x.okOrd && (!zb || x.space == .abuf)
  | .vldx _ _ x _ _ _ => x.ety.is32 && x.space.isVec && x.ord.isLoad && x.okOrd
  | .vstx _ zb _ x _ _ _ => x.ety.is32 && x.space.isVec && x.ord.isStore && x.okOrd && (!zb || x.space == .abuf)
  | .amoadd _ x _ _ _ _ | .amoand _ x _ _ _ _ | .amoor _ x _ _ _ _ | .amoxor _ x _ _ _ _ => x.okAmo ETy.isAI
  | .amoswap _ x _ _ _ _ | .cas _ x _ _ _ _ => x.okAmo ETy.isAI
  | .amomin _ _ x _ _ _ _ | .amomax _ _ x _ _ _ _ => x.okAmo ETy.isAI
  | .amofadd _ x _ _ _ _ | .amofmin _ x _ _ _ _ | .amofmax _ x _ _ _ _ => x.okAmo ETy.isF3264
  | .vcopyb _ dest _ _ _ _ => dest != 1
  | .cas2 _ x d _ _ c => x.okAmo (· == .int64) && evenG d && evenG c
  | .red _ op u ety _ _ _ => redOk op u ety
  | .bind _ x d _ b c => bindWordOk x b c && bindOpsOk x d b
  | _ => true

end Sys2Proof
end

