-- ==== Sys2Proof/Decode.lean ====
section
/-! DEFINITION. The instruction word (R44), the opcode map (R55), the fate of every word (R57), and the encoder. -/

namespace Sys2Proof

/-- The fields of the word (R44). -/
structure Fields where
  op : BitVec 8
  fn : BitVec 8
  g  : BitVec 4
  m  : BitVec 4
  d  : BitVec 8
  a  : BitVec 8
  c  : BitVec 8
  x  : BitVec 16
  b  : BitVec 32
  deriving DecidableEq, Repr

/-- The 96-bit word of the fields: B in [95:64] down to OP in [7:0] (R44). -/
def Fields.pack (f : Fields) : IWord :=
  f.b ++ (f.x ++ (f.c ++ (f.a ++ (f.d ++ (f.m ++ (f.g ++ (f.fn ++ f.op)))))))

/-- The fields of a word (R44). -/
def Fields.unpack (w : IWord) : Fields where
  op := w.extractLsb' 0 8
  fn := w.extractLsb' 8 8
  g  := w.extractLsb' 16 4
  m  := w.extractLsb' 20 4
  d  := w.extractLsb' 24 8
  a  := w.extractLsb' 32 8
  c  := w.extractLsb' 40 8
  x  := w.extractLsb' 48 16
  b  := w.extractLsb' 64 32

/-- Why a word is not an instruction: the two word causes of R57, steps 2 and 3. -/
inductive DecErr
  | illegalInstruction
  | illegalOperand (tval : Nat)
  deriving DecidableEq, Repr

/-! ### Codes of the enumerated fields -/

def ETy.code : ETy → Nat
  | .fp32 => 0 | .fl19 => 1 | .fp16 => 2 | .bf16 => 3 | .f8e4 => 4 | .f8e5 => 5 | .f6e3 => 6 | .f6e2 => 7
  | .f4e2 => 8 | .int16 => 9 | .int8 => 10 | .uint8 => 11 | .int4 => 12 | .uint4 => 13 | .tern => 14 | .bin1 => 15
  | .q16n => 16 | .q16f => 17 | .b8i => 18 | .b4i => 19 | .fp64 => 20 | .int32 => 21 | .int64 => 22

/-- The type of a code; none for the reserved codes 0x17 to 0x1F (R61). -/
def ETy.ofCode : Nat → Option ETy
  | 0 => some .fp32 | 1 => some .fl19 | 2 => some .fp16 | 3 => some .bf16 | 4 => some .f8e4 | 5 => some .f8e5
  | 6 => some .f6e3 | 7 => some .f6e2 | 8 => some .f4e2 | 9 => some .int16 | 10 => some .int8 | 11 => some .uint8
  | 12 => some .int4 | 13 => some .uint4 | 14 => some .tern | 15 => some .bin1 | 16 => some .q16n | 17 => some .q16f
  | 18 => some .b8i | 19 => some .b4i | 20 => some .fp64 | 21 => some .int32 | 22 => some .int64
  | _ => none

def Rnd.code : Rnd → Nat
  | .rne => 0 | .rtz => 1 | .rdn => 2 | .rup => 3 | .rna => 4 | .dyn => 7

def Rnd.ofCode : Nat → Option Rnd
  | 0 => some .rne | 1 => some .rtz | 2 => some .rdn | 3 => some .rup | 4 => some .rna | 7 => some .dyn
  | _ => none

def Space.code : Space → Nat
  | .glob => 0 | .wbuf => 1 | .abuf => 2 | .cbuf => 3 | .queue => 4 | .zmap => 5

def Space.ofCode : Nat → Option Space
  | 0 => some .glob | 1 => some .wbuf | 2 => some .abuf | 3 => some .cbuf | 4 => some .queue | 5 => some .zmap
  | _ => none

def Ord4.code : Ord4 → Nat
  | .plain => 0 | .acq => 1 | .rel => 2 | .ar => 3

def Ord4.ofCode : Nat → Ord4
  | 0 => .plain | 1 => .acq | 2 => .rel | _ => .ar

def MulhV.code : MulhV → Nat
  | .s => 0 | .u => 1 | .su => 2

def MulhV.ofCode : Nat → MulhV
  | 0 => .s | 1 => .u | _ => .su

def Cond.code : Cond → Nat
  | .eq => 0 | .ne => 1 | .lt => 2 | .ge => 3 | .ltu => 4 | .geu => 5 | .le => 6 | .gt => 7

def Cond.ofCode : Nat → Cond
  | 0 => .eq | 1 => .ne | 2 => .lt | 3 => .ge | 4 => .ltu | 5 => .geu | 6 => .le | _ => .gt

def PlogOp.code : PlogOp → Nat
  | .and => 0 | .or => 1 | .xor => 2 | .andn => 3 | .orn => 4 | .nand => 5 | .nor => 6 | .xnor => 7

def PlogOp.ofCode : Nat → PlogOp
  | 0 => .and | 1 => .or | 2 => .xor | 3 => .andn | 4 => .orn | 5 => .nand | 6 => .nor | _ => .xnor

def FCond.code : FCond → Nat
  | .eq => 0 | .ne => 1 | .lt => 2 | .le => 3 | .gt => 4 | .ge => 5 | .c6 => 6 | .c7 => 7

def FCond.ofCode : Nat → FCond
  | 0 => .eq | 1 => .ne | 2 => .lt | 3 => .le | 4 => .gt | 5 => .ge | 6 => .c6 | _ => .c7

def SgnV.code : SgnV → Nat
  | .copy => 0 | .neg => 1 | .xor => 2

def SgnV.ofCode : Nat → SgnV
  | 0 => .copy | 1 => .neg | _ => .xor

def VRedOp.code : VRedOp → Nat
  | .add => 0 | .min => 1 | .max => 2 | .and => 3 | .or => 4 | .xor => 5

def VRedOp.ofCode : Nat → VRedOp
  | 0 => .add | 1 => .min | 2 => .max | 3 => .and | 4 => .or | _ => .xor

def RedOp.code : RedOp → Nat
  | .add => 0 | .and => 1 | .or => 2 | .xor => 3 | .swap => 4 | .min => 5 | .max => 6 | .fadd => 7 | .fmin => 8
  | .fmax => 9

def RedOp.ofCode : Nat → RedOp
  | 0 => .add | 1 => .and | 2 => .or | 3 => .xor | 4 => .swap | 5 => .min | 6 => .max | 7 => .fadd | 8 => .fmin
  | _ => .fmax

def StatV.code : StatV → Nat
  | .rem => 0 | .pos => 1 | .st => 2

def StatV.ofCode : Nat → StatV
  | 0 => .rem | 1 => .pos | _ => .st

def ClOp.code : ClOp → Nat
  | .pass => 0 | .add => 1 | .sub => 2 | .mul => 3 | .div => 4 | .divu => 5 | .rem => 6 | .and => 7 | .or => 8
  | .xor => 9 | .shl => 10 | .shr => 11 | .sra => 12 | .min => 13 | .max => 14 | .minu => 15 | .maxu => 16
  | .fadds => 17 | .fsubs => 18 | .fmuls => 19 | .fdivs => 20 | .fmins => 21 | .fmaxs => 22 | .faddd => 23
  | .fsubd => 24 | .fmuld => 25 | .fdivd => 26 | .cmplt => 27 | .cmpltu => 28 | .cmpeq => 29 | .selnz => 30

def ClOp.ofCode : Nat → Option ClOp
  | 0 => some .pass | 1 => some .add | 2 => some .sub | 3 => some .mul | 4 => some .div | 5 => some .divu
  | 6 => some .rem | 7 => some .and | 8 => some .or | 9 => some .xor | 10 => some .shl | 11 => some .shr
  | 12 => some .sra | 13 => some .min | 14 => some .max | 15 => some .minu | 16 => some .maxu | 17 => some .fadds
  | 18 => some .fsubs | 19 => some .fmuls | 20 => some .fdivs | 21 => some .fmins | 22 => some .fmaxs
  | 23 => some .faddd | 24 => some .fsubd | 25 => some .fmuld | 26 => some .fdivd | 27 => some .cmplt
  | 28 => some .cmpltu | 29 => some .cmpeq | 30 => some .selnz
  | _ => none

/-- Special-register codes 0x40 to 0x5B (R112). -/
def SReg.code : SReg → Nat
  | .tid => 0x40 | .core => 0x41 | .cx => 0x42 | .cy => 0x43 | .die => 0x44 | .cluster => 0x45 | .stage => 0x46
  | .lanes => 0x47 | .mtile => 0x48 | .cid => 0x49 | .tags => 0x4A | .tagerr => 0x4B | .fmode => 0x4C
  | .fflags => 0x4D | .energy => 0x4E | .cycles => 0x4F | .forfeit => 0x50 | .wlocc => 0x51 | .instant => 0x52
  | .node => 0x53 | .args => 0x54 | .scb => 0x55 | .light => 0x56 | .wsize => 0x57 | .asize => 0x58 | .csize => 0x59
  | .monstat => 0x5A | .graph => 0x5B

def SReg.ofCode : Nat → SReg
  | 0x40 => .tid | 0x41 => .core | 0x42 => .cx | 0x43 => .cy | 0x44 => .die | 0x45 => .cluster | 0x46 => .stage
  | 0x47 => .lanes | 0x48 => .mtile | 0x49 => .cid | 0x4A => .tags | 0x4B => .tagerr | 0x4C => .fmode
  | 0x4D => .fflags | 0x4E => .energy | 0x4F => .cycles | 0x50 => .forfeit | 0x51 => .wlocc | 0x52 => .instant
  | 0x53 => .node | 0x54 => .args | 0x55 => .scb | 0x56 => .light | 0x57 => .wsize | 0x58 => .asize | 0x59 => .csize
  | 0x5A => .monstat | _ => .graph

/-! ### X layouts (R53) -/

def Rnd.bits (r : Rnd) : BitVec 3 := BitVec.ofNat 3 r.code
def ETy.bits5 (t : ETy) : BitVec 5 := BitVec.ofNat 5 t.code

/-- X of the FP class: SAT [8], TYPE [7:3], RND [2:0]. -/
def FpX.toX (x : FpX) : BitVec 16 :=
  0#7 ++ (BitVec.ofBool x.sat ++ (x.ty.bits5 ++ x.rnd.bits))

/-- The FP-class X of a word; none where R54 names an illegal code or a zero bit is set. -/
def FpX.ofX (x : BitVec 16) : Option FpX :=
  if x.extractLsb' 9 7 = 0#7 then
    match ETy.ofCode (x.extractLsb' 3 5).toNat, Rnd.ofCode (x.extractLsb' 0 3).toNat with
    | some t, some r => some ⟨t, r, x.extractLsb' 8 1 == 1#1⟩
    | _, _ => none
  else none

/-- X of the memory class: ETYPE [14:10], SPACE [9:7], ORD [6:5], OBS [4:0]. -/
def MemX.toX (x : MemX) : BitVec 16 :=
  0#1 ++ (x.ety.bits5 ++ (BitVec.ofNat 3 x.space.code ++ (BitVec.ofNat 2 x.ord.code ++ x.obs)))

def MemX.ofX (x : BitVec 16) (rx : Bool) : Option MemX :=
  if x.extractLsb' 15 1 = 0#1 then
    match ETy.ofCode (x.extractLsb' 10 5).toNat, Space.ofCode (x.extractLsb' 7 3).toNat with
    | some t, some sp => some ⟨rx, t, sp, Ord4.ofCode (x.extractLsb' 5 2).toNat, x.extractLsb' 0 5⟩
    | _, _ => none
  else none

/-- X of `BIND` (R140). -/
def BindX.toX (x : BindX) : BitVec 16 :=
  0#1 ++ (BitVec.ofNat 2 x.form.val ++ (BitVec.ofNat 3 x.slot.val ++
    (BitVec.ofNat 5 x.op2.code ++ BitVec.ofNat 5 x.op1.code)))

def BindX.ofX (x : BitVec 16) : Option BindX :=
  if x.extractLsb' 15 1 = 0#1 then
    match ClOp.ofCode (x.extractLsb' 0 5).toNat, ClOp.ofCode (x.extractLsb' 5 5).toNat with
    | some o1, some o2 => some ⟨(x.extractLsb' 10 3).toFin, (x.extractLsb' 13 2).toFin, o1, o2⟩
    | _, _ => none
  else none

/-! ### Positions (R47, R49) -/

/-- What an operand position takes. -/
inductive Pos
  | unused | g | geven | gclause | v | vhi | p | gp | d | ch | sread | swrite
  | gl | glnot31 | vgl | gpl | lit
  deriving DecidableEq, Repr

/-- Whether a position takes the register specifier s; d and ch only in a node (R47). -/
def Pos.takes (node : Bool) (k : Pos) (s : Nat) : Bool :=
  match k with
  | .unused | .lit => false
  | .g | .gl => s < 0x20
  | .geven => s < 0x20 && s % 2 == 0
  | .gclause => 0x10 ≤ s && s ≤ 0x1B
  | .glnot31 => s < 0x1F
  | .v => 0x20 ≤ s && s < 0x30
  | .vhi => 0x28 ≤ s && s < 0x30
  | .p => 0x30 ≤ s && s < 0x38
  | .gp | .gpl => s < 0x20 || (0x30 ≤ s && s < 0x38)
  | .vgl => s < 0x30
  | .d => node && 0x38 ≤ s && s < 0x40
  | .ch => node && 0x70 ≤ s && s < 0x78
  | .sread => 0x40 ≤ s && s < 0x5C
  | .swrite => s == 0x4C || s == 0x4D

/-- Whether a position takes a literal (R49). -/
def Pos.takesLit : Pos → Bool
  | .gl | .vgl | .gpl | .lit => true
  | _ => false

/-- The operand positions of one instruction, and whether it may set RX and M[22] (R52). -/
structure Shape where
  d : Pos := .unused
  a : Pos := .unused
  b : Pos := .unused
  c : Pos := .unused
  rx  : Bool := false
  aux : Bool := false
  deriving DecidableEq, Repr

def Fields.gd (f : Fields) : Guard := ⟨f.g.getLsbD 3, (f.g.extractLsb' 0 3).toFin⟩
def Fields.isLit (f : Fields) : Bool := f.m.getLsbD 0
def Fields.isRx (f : Fields) : Bool := f.m.getLsbD 1
def Fields.isAux (f : Fields) : Bool := f.m.getLsbD 2

/-- The register number in a specifier of class g, v, p, d or ch. -/
def specG (s : BitVec 8) : GReg := (s.extractLsb' 0 5).toFin
def specV (s : BitVec 8) : VReg := (s.extractLsb' 0 4).toFin
def spec3 (s : BitVec 8) : Fin 8 := (s.extractLsb' 0 3).toFin

def Fields.bSpec (f : Fields) : BitVec 8 := f.b.extractLsb' 0 8

def Fields.opB (f : Fields) : OpB := if f.isLit then .lit f.b else .g (specG f.bSpec)

def Fields.opV (f : Fields) : OpV :=
  if f.isLit then .lit f.b else if f.bSpec.toNat < 0x20 then .g (specG f.bSpec) else .v (specV f.bSpec)

def Fields.movD (f : Fields) : MovD := if f.d.toNat < 0x20 then .g (specG f.d) else .p (spec3 f.d)

def Fields.movB (f : Fields) : MovB :=
  if f.isLit then .lit f.b else if f.bSpec.toNat < 0x20 then .g (specG f.bSpec) else .p (spec3 f.bSpec)

/-! ### Rows of the opcode map -/

abbrev Row := Option (Shape × Instr)

/-- A row whose X and FN must be zero. -/
def own (f : Fields) (sh : Shape) (i : Instr) : Row :=
  if f.x = 0#16 ∧ f.fn = 0#8 then some (sh, i) else none

/-- A row whose X is zero and whose FN is 0 or 1. -/
def own2 (f : Fields) (sh0 : Shape) (i0 : Instr) (sh1 : Shape) (i1 : Instr) : Row :=
  if f.x = 0#16 then
    if f.fn = 0#8 then some (sh0, i0) else if f.fn = 1#8 then some (sh1, i1) else none
  else none

/-- A row of the integer ALU class (R53, R116): FN[7:4] zero, the variant below nvar, the 32-bit form where there is one. -/
def alu (f : Fields) (nvar : Nat) (has32 satOk : Bool) (sh : Shape) (i : Bool → Nat → Instr) : Row :=
  let v := (f.fn.extractLsb' 1 3).toNat
  let w32 := f.fn.getLsbD 0
  if (f.x = 0#16 ∨ (satOk ∧ f.x = 0x100#16)) ∧ f.fn.extractLsb' 4 4 = 0#4 ∧ v < nvar ∧ (w32 → has32) then
    some (sh, i w32 v)
  else none

/-- A row of the FP class whose FN is fixed by fnOk (R53, R127, R156). -/
def fp (f : Fields) (ok : FpX → Bool) (fnOk : Bool) (sh : Shape) (i : FpX → Instr) : Row :=
  match FpX.ofX f.x with
  | some x => if ok x ∧ fnOk then some (sh, i x) else none
  | none => none

/-- A row of the memory class (R53, R210, R278). -/
def mem (f : Fields) (ok : MemX → Bool) (fnOk : Bool) (sh : Shape) (i : MemX → Instr) : Row :=
  match MemX.ofX f.x f.isRx with
  | some x => if ok x ∧ fnOk then some (sh, i x) else none
  | none => none

/-- A row that selects a barrier id in X[2:0] (R287). -/
def barX (f : Fields) (sh : Shape) (i : Fin 8 → Instr) : Row :=
  if f.x.extractLsb' 3 13 = 0#13 ∧ f.fn = 0#8 then some (sh, i (f.x.extractLsb' 0 3).toFin) else none

def shGGB : Shape := { d := .g, a := .g, b := .gl }
def shVVB : Shape := { d := .v, a := .v, b := .vgl }
def shVV : Shape := { d := .v, a := .v }
def shGG : Shape := { d := .g, a := .g }
def shMem : Shape := { d := .g, a := .g, b := .gl, rx := true }
def shAmo : Shape := { d := .g, a := .g, b := .gl, c := .g }

/-- The positions of `BIND` (R140, R143): one its form does not read is unused, so that its whole field must be zero. Form 3
reads C (see `bindWordOk`). The second row of R143, D outside g16-g27 and L = 1 or B = g31 in form 3, is a matter of the word and is
checked with it, before the guard (notes/assumptions/101, DEDUCED). -/
def bindShape (x : BindX) : Shape where
  d := .gclause
  a := .g
  b := if x.form = 3 then .glnot31 else if (x.form = 0 ∨ x.form = 1) ∧ x.op1 = .pass then .unused else .gl
  c := if x.form = 0 ∧ x.op1 ≠ .selnz then .unused else .g

/-- The row of a word's OP and FN (R55, R56): its positions and the instruction its fields spell; none where R57 step 2
names the word illegal by OP, FN or X. -/
def row (f : Fields) : Row :=
  let gd := f.gd
  let dG := specG f.d
  let aG := specG f.a
  let cG := specG f.c
  let dV := specV f.d
  let aV := specV f.a
  let cV := specV f.c
  let dP := spec3 f.d
  let fn := f.fn.toNat
  match f.op.toNat with
  | 0x01 => own f {} (.nop gd)
  | 0x02 => own f { b := .lit } (.br gd f.b)
  | 0x03 => own f { a := .g } (.brx gd aG)
  | 0x04 => own f { b := .lit } (.call gd f.b)
  | 0x05 => own f { a := .g } (.callx gd aG)
  | 0x06 => own2 f shGGB (.tstart gd dG aG f.opB) shGGB (.tstartLight gd dG aG f.opB)
  | 0x07 => own f { d := .g, b := .gl } (.treap gd dG f.opB)
  | 0x08 => own f { b := .gl } (.texit gd f.opB)
  | 0x09 => own f { d := .g, b := .gl } (.tstat gd dG f.opB)
  | 0x0A => own f { d := .p, a := .g, c := .g } (.spawn gd dP aG cG)
  | 0x0B => own f { d := .p, a := .geven } (.take gd dP aG)
  | 0x0C => own f { d := .p, a := .g } (.fetchtile gd dP aG)
  | 0x0D => own f { a := .g, b := .gl } (.tileq gd aG f.opB)
  | 0x0E => own f { a := .g, b := .gl } (.go gd aG f.opB)
  | 0x0F => own f { b := .gl } (.hcall gd f.opB)
  | 0x10 => own f { b := .gl } (.trap gd f.opB)
  | 0x11 => own f {} (.eret gd)
  | 0x12 => own f { d := .g, b := .lit } (.sysr gd dG f.b)
  | 0x13 => own f { a := .g, b := .lit } (.sysw gd aG f.b)
  | 0x14 => own f { b := .gl } (.bkpt gd f.opB)
  | 0x15 => own f { d := .g, b := .gl } (.halt gd dG f.opB)
  | 0x16 => own f {} (.iflush gd)
  | 0x17 =>
    if f.x = 0#16 ∧ f.fn.extractLsb' 6 2 = 0#2 ∧ f.fn.extractLsb' 5 1 = 0#1 ∧ f.fn.extractLsb' 2 1 = 0#1 ∧
        f.fn.extractLsb' 0 2 ≠ 1#2 then
      some ({ d := .g, a := .g, c := .g },
        .vcopyb gd (f.fn.extractLsb' 0 2).toFin (f.fn.extractLsb' 3 2).toFin dG aG cG)
    else none
  | 0x20 => alu f 1 true true shGGB (fun w _ => .add gd w (f.x == 0x100#16) dG aG f.opB)
  | 0x21 => alu f 1 true true shGGB (fun w _ => .sub gd w (f.x == 0x100#16) dG aG f.opB)
  | 0x22 => alu f 1 true false shGGB (fun w _ => .mul gd w dG aG f.opB)
  | 0x23 => alu f 3 true false shGGB (fun w v => .mulh gd w (MulhV.ofCode v) dG aG f.opB)
  | 0x24 => alu f 2 true false shGGB (fun w v => .div gd w (v == 1) dG aG f.opB)
  | 0x25 => alu f 2 true false shGGB (fun w v => .rem gd w (v == 1) dG aG f.opB)
  | 0x26 => alu f 1 true false shGGB (fun w _ => .and gd w dG aG f.opB)
  | 0x27 => alu f 1 true false shGGB (fun w _ => .or gd w dG aG f.opB)
  | 0x28 => alu f 1 true false shGGB (fun w _ => .xor gd w dG aG f.opB)
  | 0x29 => alu f 1 true false shGGB (fun w _ => .andn gd w dG aG f.opB)
  | 0x2A => alu f 1 true false shGGB (fun w _ => .shl gd w dG aG f.opB)
  | 0x2B => alu f 2 true false shGGB (fun w v => .shr gd w (v == 1) dG aG f.opB)
  | 0x2C => alu f 2 true false shGGB (fun w v => .rot gd w (v == 1) dG aG f.opB)
  | 0x2D => alu f 2 true false shGGB (fun w v => .min gd w (v == 1) dG aG f.opB)
  | 0x2E => alu f 2 true false shGGB (fun w v => .max gd w (v == 1) dG aG f.opB)
  | 0x2F => alu f 2 true false shGG (fun w v => .clz gd w (v == 1) dG aG)
  | 0x30 => alu f 1 true false shGG (fun w _ => .popc gd w dG aG)
  | 0x31 => alu f 1 true false { shGGB with c := .p } (fun w _ => .sel gd w dG aG f.opB (spec3 f.c))
  | 0x32 => alu f 8 true false { shGGB with d := .p } (fun w v => .cmp gd w (Cond.ofCode v) dP aG f.opB)
  | 0x33 => alu f 8 false false { d := .p, a := .p, b := .p }
      (fun _ v => .plog gd (PlogOp.ofCode v) dP (spec3 f.a) (spec3 f.bSpec))
  | 0x34 => alu f 1 true false { d := .gp, b := .gpl } (fun w _ => .mov gd w f.movD f.movB)
  | 0x35 => alu f 1 false false { d := .g, b := .gl } (fun _ _ => .movh gd dG f.opB)
  | 0x36 => alu f 1 false false { d := .g, a := .sread } (fun _ _ => .movs gd dG (SReg.ofCode f.a.toNat))
  | 0x37 => alu f 1 false false { d := .swrite, b := .gl }
      (fun _ _ => .wrs gd (if f.d = 0x4C#8 then .fmode else .fflags) f.opB)
  | 0x38 => alu f 2 false false shGGB (fun _ v => .ext gd (v == 1) dG aG f.opB)
  | 0x39 => alu f 1 false false { shGGB with c := .g } (fun _ _ => .ins gd dG aG f.opB cG)
  | 0x3A => alu f 5 true false shGGB (fun w v => .lea gd w (Fin.ofNat 5 v) dG aG f.opB)
  | 0x40 => fp f (·.okS ETy.isF3264 true) (fn == 0) shGGB (fun x => .fadd gd x dG aG f.opB)
  | 0x41 => fp f (·.okS ETy.isF3264 true) (fn == 0) shGGB (fun x => .fsub gd x dG aG f.opB)
  | 0x42 => fp f (·.okS ETy.isF3264 true) (fn == 0) shGGB (fun x => .fmul gd x dG aG f.opB)
  | 0x43 => fp f (·.okS ETy.isF3264 true) (fn == 0) { shGGB with c := .g } (fun x => .ffma gd x dG aG f.opB cG)
  | 0x44 => fp f (·.okS ETy.isF3264 true) (fn == 0) shGGB (fun x => .fdiv gd x dG aG f.opB)
  | 0x45 => fp f (·.okS ETy.isF3264 false) (fn == 0) shGG (fun x => .fsqrt gd x dG aG)
  | 0x46 => fp f (·.okS ETy.isF3264 false) (fn == 0) shGGB (fun x => .fmin gd x dG aG f.opB)
  | 0x47 => fp f (·.okS ETy.isF3264 false) (fn == 0) shGGB (fun x => .fmax gd x dG aG f.opB)
  | 0x48 => fp f (·.okS ETy.isF3264 false) (f.fn.extractLsb' 4 4 == 0#4 && !f.fn.getLsbD 0) { shGGB with d := .p }
      (fun x => .fcmp gd (FCond.ofCode (f.fn.extractLsb' 1 3).toNat) x dP aG f.opB)
  | 0x49 =>
    match ETy.ofCode (f.fn.extractLsb' 0 5).toNat with
    | some src => fp f (·.okS ETy.isCvt true) (f.fn.extractLsb' 5 3 == 0#3 && src.isCvt) shGG
        (fun x => .fcvt gd src x dG aG)
    | none => none
  | 0x4A => fp f (·.okS (· == .fp32) false) (fn == 0) shGG (fun x => .frcp gd x dG aG)
  | 0x4B => fp f (·.okS (· == .fp32) false) (fn == 0) shGG (fun x => .frsq gd x dG aG)
  | 0x4C => fp f (·.okS (· == .fp32) false) (fn < 2) shGGB (fun x => .frstep gd (fn == 1) x dG aG f.opB)
  | 0x4D => fp f (·.okS ETy.isF4 false) (fn == 0) shGG (fun x => .fclass gd x dG aG)
  | 0x4E => fp f (·.okS ETy.isF4 false) (fn < 3) shGGB (fun x => .fsgn gd (SgnV.ofCode fn) x dG aG f.opB)
  | 0x50 => fp f (·.okV ETy.native true) (fn == 0) shVVB (fun x => .vadd gd x dV aV f.opV)
  | 0x51 => fp f (·.okV ETy.native true) (fn == 0) shVVB (fun x => .vsub gd x dV aV f.opV)
  | 0x52 => fp f (·.okV ETy.native true) (fn == 0) shVVB (fun x => .vmul gd x dV aV f.opV)
  | 0x53 => fp f (·.okV ETy.native true) (fn == 0) { shVVB with c := .v } (fun x => .vfma gd x dV aV f.opV cV)
  | 0x54 => fp f (fun x => x.okV ETy.native false && (fn == 0 || x.ty.isInt)) (fn == 0 || fn == 2) shVVB
      (fun x => .vmin gd (fn == 2) x dV aV f.opV)
  | 0x55 => fp f (fun x => x.okV ETy.native false && (fn == 0 || x.ty.isInt)) (fn == 0 || fn == 2) shVVB
      (fun x => .vmax gd (fn == 2) x dV aV f.opV)
  | 0x56 => fp f (fun x => x.okV ETy.native true && (!x.sat || x.ty.isInt)) (fn == 0) shVV (fun x => .vabs gd x dV aV)
  | 0x57 => fp f (fun x => x.okV ETy.native true && (!x.sat || x.ty.isInt)) (fn == 0) shVV (fun x => .vneg gd x dV aV)
  | 0x58 =>
    match ETy.ofCode (f.fn.extractLsb' 0 5).toNat with
    | some src => fp f (fun x => x.okV ETy.native true && vcvtOk src x.ty (f.fn.extractLsb' 5 2).toNat)
        (!f.fn.getLsbD 7) shVV (fun x => .vcvt gd src (f.fn.extractLsb' 5 2).toFin x dV aV)
    | none => none
  | 0x59 => fp f (·.okV ETy.native false) (f.fn.extractLsb' 4 4 == 0#4 && !f.fn.getLsbD 0) { shVVB with d := .p }
      (fun x => .vcmp gd (FCond.ofCode (f.fn.extractLsb' 1 3).toNat) x dP aV f.opV)
  | 0x5A => fp f (·.okV ETy.native false) (fn == 0) { shVVB with c := .p } (fun x => .vsel gd x dV aV f.opV (spec3 f.c))
  | 0x5B => fp f (·.okV ETy.isVInt false) (fn == 0) shVVB (fun x => .vand gd x dV aV f.opV)
  | 0x5C => fp f (·.okV ETy.isVInt false) (fn == 0) shVVB (fun x => .vor gd x dV aV f.opV)
  | 0x5D => fp f (·.okV ETy.isVInt false) (fn == 0) shVVB (fun x => .vxor gd x dV aV f.opV)
  | 0x5E => fp f (·.okV ETy.isVInt false) (fn == 0) shVVB (fun x => .vshl gd x dV aV f.opV)
  | 0x5F => fp f (·.okV ETy.isVInt false) (fn == 0 || fn == 2) shVVB (fun x => .vshr gd (fn == 2) x dV aV f.opV)
  | 0x60 => fp f (fun x => x.okV ETy.native false && vredOk (VRedOp.ofCode (fn % 8)) (f.fn.getLsbD 3) x.ty)
      (fn < 16 && fn % 8 < 6) { d := .g, a := .v }
      (fun x => .vred gd (VRedOp.ofCode (fn % 8)) (f.fn.getLsbD 3) x dG aV)
  | 0x61 =>
    if fn = 1 then fp f (·.okV ETy.native false) true { d := .v, a := .v, b := .gl }
      (fun x => .vbcast gd (some aV) x dV f.opB)
    else fp f (·.okV ETy.native false) (fn == 0) { d := .v, b := .gl } (fun x => .vbcast gd none x dV f.opB)
  | 0x62 => fp f (·.okV ETy.native false) (fn == 0) { d := .v, a := .v, b := .v }
      (fun x => .vperm gd x dV aV (specV f.bSpec))
  | 0x63 => fp f (·.okV ETy.isVInt false) (fn == 0) { d := .v, b := .gl } (fun x => .viota gd x dV f.opB)
  | 0x64 => fp f (·.okV (· == .fp32) false) (fn == 0) shVV (fun x => .vrcp gd x dV aV)
  | 0x65 => fp f (·.okV (· == .fp32) false) (fn == 0) shVV (fun x => .vrsq gd x dV aV)
  | 0x66 => fp f (·.okV (· == .fp32) false) (fn < 2) shVVB (fun x => .vrstep gd (fn == 1) x dV aV f.opV)
  | 0x67 => fp f (·.okV (· == .fp32) false) (fn == 0) shVV (fun x => .vexp2 gd x dV aV)
  | 0x68 => fp f (·.okV (· == .fp32) false) (fn == 0) shVV (fun x => .vlog2 gd x dV aV)
  | 0x69 => fp f (·.okV (· == .fp32) false) (fn < 2) shVVB (fun x => .vszb gd (fn == 1) x dV aV f.opV)
  | 0x6A => fp f (·.okV ETy.native false) (fn == 0) { d := .g, a := .v, b := .gl } (fun x => .vextr gd x dG aV f.opB)
  | 0x6B => fp f (·.okV ETy.native false) (fn == 0) { d := .v, a := .g, b := .gl } (fun x => .vinsr gd x dV aG f.opB)
  | 0x6C => fp f (fun x => x.okV ETy.native false && vredOk (VRedOp.ofCode (fn % 8)) (f.fn.getLsbD 3) x.ty)
      (fn < 32 && fn % 8 < 6) shVV
      (fun x => .vscanp gd (VRedOp.ofCode (fn % 8)) (f.fn.getLsbD 3) (f.fn.getLsbD 4) x dV aV)
  | 0x6D => if f.x = 0x0280#16 ∧ fn = 0 then
      some ({ d := .v, a := .g, b := .gl, c := .g }, .nzscan gd dV aG f.opB cG) else none
  | 0x70 =>
    match ETy.ofCode (f.x.extractLsb' 10 5).toNat with
    | some t =>
      if t.native ∧ f.x.extractLsb' 9 1 = 0#1 ∧ f.x.extractLsb' 0 5 = 0#5 ∧ fn = 0 then
        some ({ d := .v, a := .g, b := .gl }, .scfg gd (f.x.getLsbD 15) t (f.x.extractLsb' 7 2).toFin
          (f.x.extractLsb' 5 2).toFin dV aG f.opB)
      else none
    | none => none
  | 0x71 => own f { d := .vhi } (.sstart gd dP)
  | 0x72 => own f { d := .vhi } (.sstop gd dP)
  | 0x73 => if f.x = 0#16 ∧ fn < 3 then
      some ({ d := .g, a := .vhi }, .sstat gd (StatV.ofCode fn) dG (spec3 f.a)) else none
  | 0x80 => mem f (fun x => x.okScalar && x.ord.isLoad && sxOk (fn == 1) x.ety) (fn < 2) shMem
      (fun x => .ld gd (fn == 1) x dG aG f.opB)
  | 0x81 => mem f (fun x => x.okScalar && x.ord.isStore) (fn == 0) { a := .g, b := .gl, c := .g, rx := true }
      (fun x => .st gd x aG f.opB cG)
  | 0x82 => mem f (fun x => x.okScalar && x.ord.isLoad && sxOk (fn == 1) x.ety) (fn < 2) { shMem with d := .geven }
      (fun x => .ldp gd (fn == 1) x dG aG f.opB)
  | 0x83 => mem f (fun x => x.okScalar && x.ord.isStore) (fn == 0) { a := .g, b := .gl, c := .geven, rx := true }
      (fun x => .stp gd x aG f.opB cG)
  | 0x84 => mem f (fun x => x.ety.native && x.space.isVec && x.ord.isLoad && x.okOrd) (fn == 0) { shMem with d := .v }
      (fun x => .vld gd x dV aG f.opB)
  | 0x85 => mem f (fun x => x.ety.native && x.space.isVec && x.ord.isStore && x.okOrd && (!f.isAux || x.space == .abuf))
      (fn == 0) { a := .g, b := .gl, c := .v, rx := true, aux := true } (fun x => .vst gd f.isAux x aG f.opB cV)
  | 0x86 => mem f (fun x => x.ety.is32 && x.space.isVec && x.ord.isLoad && x.okOrd) (fn < 4)
      { d := .v, a := .g, b := .v, rx := true } (fun x => .vldx gd (f.fn.extractLsb' 0 2).toFin x dV aG (specV f.bSpec))
  | 0x87 => mem f (fun x => x.ety.is32 && x.space.isVec && x.ord.isStore && x.okOrd && (!f.isAux || x.space == .abuf))
      (fn < 4) { a := .g, b := .v, c := .v, rx := true, aux := true }
      (fun x => .vstx gd f.isAux (f.fn.extractLsb' 0 2).toFin x aG (specV f.bSpec) cV)
  | 0x88 => if f.x = 0x5600#16 ∧ fn = 0 then some ({ a := .g, b := .gl, c := .v }, .stq gd aG f.opB cV) else none
  | 0x89 => if f.x.extractLsb' 5 11 = 0#11 ∧ fn = 0 then some ({}, .fence gd (f.x.extractLsb' 0 5)) else none
  | 0xA0 => mem f (·.okAmo ETy.isAI) (fn == 0) shAmo (fun x => .amoadd gd x dG aG f.opB cG)
  | 0xA1 => mem f (·.okAmo ETy.isAI) (fn == 0) shAmo (fun x => .amoand gd x dG aG f.opB cG)
  | 0xA2 => mem f (·.okAmo ETy.isAI) (fn == 0) shAmo (fun x => .amoor gd x dG aG f.opB cG)
  | 0xA3 => mem f (·.okAmo ETy.isAI) (fn == 0) shAmo (fun x => .amoxor gd x dG aG f.opB cG)
  | 0xA4 => mem f (·.okAmo ETy.isAI) (fn == 0) shAmo (fun x => .amoswap gd x dG aG f.opB cG)
  | 0xA5 => mem f (·.okAmo ETy.isAI) (fn < 2) shAmo (fun x => .amomin gd (fn == 1) x dG aG f.opB cG)
  | 0xA6 => mem f (·.okAmo ETy.isAI) (fn < 2) shAmo (fun x => .amomax gd (fn == 1) x dG aG f.opB cG)
  | 0xA7 => mem f (·.okAmo ETy.isF3264) (fn == 0) shAmo (fun x => .amofadd gd x dG aG f.opB cG)
  | 0xA8 => mem f (·.okAmo ETy.isF3264) (fn == 0) shAmo (fun x => .amofmin gd x dG aG f.opB cG)
  | 0xA9 => mem f (·.okAmo ETy.isF3264) (fn == 0) shAmo (fun x => .amofmax gd x dG aG f.opB cG)
  | 0xAA => mem f (·.okAmo ETy.isAI) (fn == 0) shAmo (fun x => .cas gd x dG aG f.opB cG)
  | 0xAB => mem f (·.okAmo (· == .int64)) (fn == 0) { d := .geven, a := .g, b := .gl, c := .geven }
      (fun x => .cas2 gd x dG aG f.opB cG)
  | 0xAC => mem f (fun x => redOk (RedOp.ofCode (fn % 16)) (f.fn.getLsbD 4) x.ety && x.space == .glob &&
        x.ord == .plain && x.obs == 0#5) (fn < 32 && fn % 16 < 10) { a := .g, b := .gl, c := .g }
      (fun x => .red gd (RedOp.ofCode (fn % 16)) (f.fn.getLsbD 4) x.ety aG f.opB cG)
  | 0xB0 =>
    match BindX.ofX f.x with
    | some x =>
      if fn = 0 ∧ bindWordOk x f.opB cG then
        some (bindShape x, .bind gd x dG aG f.opB cG)
      else none
    | none => none
  | 0xB1 => if fn = 0 ∧ f.x.extractLsb' 13 3 = 0#3 ∧ f.x.extractLsb' 0 10 = 0#10 then
      some ({}, .unbind gd (f.x.extractLsb' 10 3).toFin) else if fn = 1 ∧ f.x = 0#16 then some ({}, .unbindAll gd) else none
  | 0xB2 => own f { d := .g, b := .gl } (.clst gd dG f.opB)
  | 0xB3 => own f {} (.clhold gd)
  | 0xB4 => own f {} (.clrel gd)
  | 0xC0 => own f { a := .g, b := .gl } (.marm gd aG f.opB)
  | 0xC1 => own2 f { a := .g, b := .gl } (.mdis gd aG f.opB) {} (.mdisAll gd)
  | 0xC2 => own f { d := .g, b := .gl } (.mwait gd dG f.opB)
  | 0xC3 => barX f { a := .g } (fun n => .breg gd n aG)
  | 0xC4 => barX f { a := .g } (fun n => .bcfg gd n aG)
  | 0xC5 => barX f {} (fun n => .barr gd n)
  | 0xC6 => barX f { d := .g, b := .gl } (fun n => .bwait gd n dG f.opB)
  | 0xD0 => own f shGGB (.twany gd dG aG f.opB)
  | 0xD1 => own f shGGB (.twall gd dG aG f.opB)
  | 0xD2 => own f shGG (.tffr gd dG aG)
  | 0xD3 => own f { d := .g, b := .gl } (.tclr gd dG f.opB)
  | 0xD4 => own f { d := .g, b := .gl } (.tstatus gd dG f.opB)
  | 0xD5 => own f { d := .g, b := .gl } (.qstat gd dG f.opB)
  | 0xE0 => own f { d := .p, a := .g, b := .gl } (.ginvoke gd dP aG f.opB)
  | 0xE1 => own f { a := .g, b := .gl } (.emit gd aG f.opB)
  | 0xE2 => own f { d := .p, b := .gl } (.sigt gd dP f.opB)
  | 0xE3 => own f { d := .g, b := .gl } (.sigq gd dG f.opB)
  | 0xE4 => own f { d := .g, b := .gl } (.sigv gd dG f.opB)
  | 0xE5 => own2 f { b := .gl } (.retract gd f.opB) {} (.retractAll gd)
  | 0xE6 => own f {} (.pause gd)
  | 0xE7 => own f { d := .g, a := .d } (.dget gd dG (spec3 f.a))
  | 0xE8 => own f { d := .d, b := .gl } (.dset gd dP f.opB)
  | 0xE9 => own f { d := .ch, b := .gl } (.chw gd dP f.opB)
  | 0xEA => own f { d := .g, a := .ch } (.chr gd dG (spec3 f.a))
  | 0xEB => own2 f { d := .g, b := .gl } (.sigpre gd false dG f.opB) { d := .g, b := .gl } (.sigpre gd true dG f.opB)
  | 0xEC => own f {} (.gend gd)
  | _ => none

/-- An unused position holds zero (R46); for B this covers L and all of B. -/
def Shape.zeros (sh : Shape) (f : Fields) : Bool :=
  (sh.d != .unused || f.d == 0#8) && (sh.a != .unused || f.a == 0#8) && (sh.c != .unused || f.c == 0#8) &&
  (sh.b != .unused || (!f.isLit && f.b == 0#32))

/-- The field rules of R57 step 2 that the row leaves: unused fields, B[95:72] with L = 0, and the M bits (R52). -/
def Shape.fieldsOk (sh : Shape) (f : Fields) : Bool :=
  sh.zeros f && (f.isLit || f.b.extractLsb' 8 24 == 0#24) && !f.m.getLsbD 3 && (!f.isRx || sh.rx) && (!f.isAux || sh.aux)

/-- R57 step 3 for one register position: none when it is taken, else the reported value. -/
def posErr (node : Bool) (n : Nat) (k : Pos) (s : BitVec 8) : Option Nat :=
  if k = .unused ∨ k.takes node s.toNat then none else some (n * 256 + s.toNat)

/-- R57 step 3 for position B: an L that the position does not take reports specifier 0. -/
def posErrB (node : Bool) (k : Pos) (f : Fields) : Option Nat :=
  if k = .unused then none
  else if f.isLit then (if k.takesLit then none else some 0x200)
  else if k = .lit then some 0x200
  else posErr node 2 k f.bSpec

/-- The lowest failing position (R57). -/
def Shape.operandErr (sh : Shape) (node : Bool) (f : Fields) : Option Nat :=
  ((posErr node 0 sh.d f.d).orElse fun _ => posErr node 1 sh.a f.a).orElse fun _ =>
    (posErrB node sh.b f).orElse fun _ => posErr node 3 sh.c f.c

/-- The instruction of the fields, or the trap of R57 steps 2 and 3; `node` says whether d and ch specifiers are
taken (R47). -/
def decodeFields (node : Bool) (f : Fields) : Except DecErr Instr :=
  match row f with
  | none => .error .illegalInstruction
  | some (sh, i) =>
    if sh.fieldsOk f then
      match sh.operandErr node f with
      | some t => .error (.illegalOperand t)
      | none => .ok i
    else .error .illegalInstruction

/-- Decoding a word. -/
def decodeWord (node : Bool) (w : IWord) : Except DecErr Instr := decodeFields node (Fields.unpack w)

/-- The value of bytes in little-endian order, the first byte least significant (R4). -/
def leNat : List Byte → Nat
  | [] => 0
  | b :: bs => b.toNat + 256 * leNat bs

/-- The n low bytes of a value in little-endian order (R4). -/
def leBytes : Nat → Nat → List Byte
  | 0, _ => []
  | n + 1, v => BitVec.ofNat 8 v :: leBytes n (v / 256)

/-- Decoding from memory: 12 bytes, and the rest of the list. -/
def decode (node : Bool) (bs : List Byte) : Except DecErr (Instr × List Byte) :=
  if bs.length < 12 then .error .illegalInstruction
  else (decodeWord node (BitVec.ofNat 96 (leNat (bs.take 12)))).map (·, bs.drop 12)

/-- The host's question: the instruction of a word of nbits bits, the bits above zero, d and ch taken as in a node. -/
def decodeTableWord (nbits w : Nat) : Option Instr :=
  (decode true (leBytes 12 (w % 2 ^ Nat.min nbits 96))).toOption.map (·.1)

/-! ### The encoder -/

def Guard.bits (gd : Guard) : BitVec 4 := BitVec.ofBool gd.neg ++ BitVec.ofNat 3 gd.p.val

def gSpec (r : GReg) : BitVec 8 := BitVec.ofNat 8 r.val
def vSpec (r : VReg) : BitVec 8 := BitVec.ofNat 8 (0x20 + r.val)
def vhiSpec (r : Fin 8) : BitVec 8 := BitVec.ofNat 8 (0x28 + r.val)
def pSpec (r : PReg) : BitVec 8 := BitVec.ofNat 8 (0x30 + r.val)
def dSpec (r : DReg) : BitVec 8 := BitVec.ofNat 8 (0x38 + r.val)
def chSpec (r : ChReg) : BitVec 8 := BitVec.ofNat 8 (0x70 + r.val)

def OpB.bits : OpB → BitVec 32
  | .g r => BitVec.ofNat 32 r.val
  | .lit v => v

def OpB.m : OpB → BitVec 4
  | .g _ => 0#4
  | .lit _ => 1#4

def OpV.bits : OpV → BitVec 32
  | .g r => BitVec.ofNat 32 r.val
  | .v r => BitVec.ofNat 32 (0x20 + r.val)
  | .lit x => x

def OpV.m : OpV → BitVec 4
  | .lit _ => 1#4
  | _ => 0#4

def MovB.bits : MovB → BitVec 32
  | .g r => BitVec.ofNat 32 r.val
  | .p r => BitVec.ofNat 32 (0x30 + r.val)
  | .lit v => v

def MovB.m : MovB → BitVec 4
  | .lit _ => 1#4
  | _ => 0#4

def MovD.spec : MovD → BitVec 8
  | .g r => gSpec r
  | .p r => pSpec r

def rxM (rx : Bool) : BitVec 4 := if rx then 2#4 else 0#4
def zbM (zb : Bool) : BitVec 4 := if zb then 4#4 else 0#4

/-- FN of the integer ALU: variant in [3:1], 32-bit form in [0] (R53). -/
def aluFn (w32 : Bool) (v : Nat) : BitVec 8 := BitVec.ofNat 8 (2 * v + w32.toNat)

/-- Fields with a guard and an opcode, the rest zero. -/
def base (gd : Guard) (op : Nat) : Fields :=
  { op := BitVec.ofNat 8 op, fn := 0, g := gd.bits, m := 0, d := 0, a := 0, c := 0, x := 0, b := 0 }

def Fields.withB (f : Fields) (b : OpB) : Fields := { f with b := b.bits, m := b.m }
def Fields.withV (f : Fields) (b : OpV) : Fields := { f with b := b.bits, m := b.m }
def Fields.withLit (f : Fields) (v : BitVec 32) : Fields := { f with b := v, m := 1#4 }

def encGGB (gd : Guard) (op fn : Nat) (d a : GReg) (b : OpB) : Fields :=
  { (base gd op).withB b with fn := BitVec.ofNat 8 fn, d := gSpec d, a := gSpec a }

def encAlu (gd : Guard) (op : Nat) (w32 : Bool) (v : Nat) (d a : GReg) (b : OpB) : Fields :=
  { (base gd op).withB b with fn := aluFn w32 v, d := gSpec d, a := gSpec a }

def encFp (gd : Guard) (op fn : Nat) (x : FpX) (d a : GReg) (b : OpB) : Fields :=
  { encGGB gd op fn d a b with x := x.toX }

def encFp2 (gd : Guard) (op fn : Nat) (x : FpX) (d a : GReg) : Fields :=
  { base gd op with fn := BitVec.ofNat 8 fn, x := x.toX, d := gSpec d, a := gSpec a }

def encV (gd : Guard) (op fn : Nat) (x : FpX) (d a : VReg) (b : OpV) : Fields :=
  { (base gd op).withV b with fn := BitVec.ofNat 8 fn, x := x.toX, d := vSpec d, a := vSpec a }

def encV2 (gd : Guard) (op fn : Nat) (x : FpX) (d a : VReg) : Fields :=
  { base gd op with fn := BitVec.ofNat 8 fn, x := x.toX, d := vSpec d, a := vSpec a }

def encMem (gd : Guard) (op fn : Nat) (x : MemX) (a : GReg) (b : OpB) : Fields :=
  { base gd op with fn := BitVec.ofNat 8 fn, x := x.toX, a := gSpec a, b := b.bits, m := b.m ||| rxM x.rx }

def encAmo (gd : Guard) (op fn : Nat) (x : MemX) (d a : GReg) (b : OpB) (c : GReg) : Fields :=
  { encMem gd op fn x a b with d := gSpec d, c := gSpec c }

/-- The fields of an instruction by the encoding tables of its chapter; none for a machine step. -/
def Instr.toFields : Instr → Option Fields
  | .nop gd => some (base gd 0x01)
  | .br gd off => some ((base gd 0x02).withLit off)
  | .brx gd a => some { base gd 0x03 with a := gSpec a }
  | .call gd off => some ((base gd 0x04).withLit off)
  | .callx gd a => some { base gd 0x05 with a := gSpec a }
  | .tstart gd d a b => some (encGGB gd 0x06 0 d a b)
  | .tstartLight gd d a b => some (encGGB gd 0x06 1 d a b)
  | .treap gd d b => some { (base gd 0x07).withB b with d := gSpec d }
  | .texit gd b => some ((base gd 0x08).withB b)
  | .tstat gd d b => some { (base gd 0x09).withB b with d := gSpec d }
  | .halt gd d b => some { (base gd 0x15).withB b with d := gSpec d }
  | .spawn gd d a c => some { base gd 0x0A with d := pSpec d, a := gSpec a, c := gSpec c }
  | .take gd d a => some { base gd 0x0B with d := pSpec d, a := gSpec a }
  | .fetchtile gd d a => some { base gd 0x0C with d := pSpec d, a := gSpec a }
  | .tileq gd a b => some { (base gd 0x0D).withB b with a := gSpec a }
  | .go gd a b => some { (base gd 0x0E).withB b with a := gSpec a }
  | .hcall gd b => some ((base gd 0x0F).withB b)
  | .trap gd b => some ((base gd 0x10).withB b)
  | .eret gd => some (base gd 0x11)
  | .sysr gd d n => some { (base gd 0x12).withLit n with d := gSpec d }
  | .sysw gd a n => some { (base gd 0x13).withLit n with a := gSpec a }
  | .bkpt gd b => some ((base gd 0x14).withB b)
  | .iflush gd => some (base gd 0x16)
  | .vcopyb gd dest frm d a c => some { base gd 0x17 with
      fn := BitVec.ofNat 8 (dest.val + 8 * frm.val), d := gSpec d, a := gSpec a, c := gSpec c }
  | .add gd w s d a b => some { encAlu gd 0x20 w 0 d a b with x := if s then 0x100#16 else 0#16 }
  | .sub gd w s d a b => some { encAlu gd 0x21 w 0 d a b with x := if s then 0x100#16 else 0#16 }
  | .mul gd w d a b => some (encAlu gd 0x22 w 0 d a b)
  | .mulh gd w v d a b => some (encAlu gd 0x23 w v.code d a b)
  | .div gd w u d a b => some (encAlu gd 0x24 w u.toNat d a b)
  | .rem gd w u d a b => some (encAlu gd 0x25 w u.toNat d a b)
  | .and gd w d a b => some (encAlu gd 0x26 w 0 d a b)
  | .or gd w d a b => some (encAlu gd 0x27 w 0 d a b)
  | .xor gd w d a b => some (encAlu gd 0x28 w 0 d a b)
  | .andn gd w d a b => some (encAlu gd 0x29 w 0 d a b)
  | .shl gd w d a b => some (encAlu gd 0x2A w 0 d a b)
  | .shr gd w u d a b => some (encAlu gd 0x2B w u.toNat d a b)
  | .rot gd w u d a b => some (encAlu gd 0x2C w u.toNat d a b)
  | .min gd w u d a b => some (encAlu gd 0x2D w u.toNat d a b)
  | .max gd w u d a b => some (encAlu gd 0x2E w u.toNat d a b)
  | .clz gd w t d a => some { base gd 0x2F with fn := aluFn w t.toNat, d := gSpec d, a := gSpec a }
  | .popc gd w d a => some { base gd 0x30 with fn := aluFn w 0, d := gSpec d, a := gSpec a }
  | .sel gd w d a b c => some { encAlu gd 0x31 w 0 d a b with c := pSpec c }
  | .cmp gd w cond d a b => some { (base gd 0x32).withB b with fn := aluFn w cond.code, d := pSpec d, a := gSpec a }
  | .plog gd op d a b => some { base gd 0x33 with
      fn := aluFn false op.code, d := pSpec d, a := pSpec a, b := BitVec.ofNat 32 (0x30 + b.val) }
  | .mov gd w d b => some { base gd 0x34 with fn := aluFn w 0, d := d.spec, b := b.bits, m := b.m }
  | .movh gd d b => some { (base gd 0x35).withB b with d := gSpec d }
  | .movs gd d r => some { base gd 0x36 with d := gSpec d, a := BitVec.ofNat 8 r.code }
  | .wrs gd r b => some { (base gd 0x37).withB b with d := match r with | .fmode => 0x4C#8 | .fflags => 0x4D#8 }
  | .ext gd sx d a b => some (encAlu gd 0x38 false sx.toNat d a b)
  | .ins gd d a b c => some { encAlu gd 0x39 false 0 d a b with c := gSpec c }
  | .lea gd w k d a b => some (encAlu gd 0x3A w k.val d a b)
  | .fadd gd x d a b => some (encFp gd 0x40 0 x d a b)
  | .fsub gd x d a b => some (encFp gd 0x41 0 x d a b)
  | .fmul gd x d a b => some (encFp gd 0x42 0 x d a b)
  | .ffma gd x d a b c => some { encFp gd 0x43 0 x d a b with c := gSpec c }
  | .fdiv gd x d a b => some (encFp gd 0x44 0 x d a b)
  | .fsqrt gd x d a => some (encFp2 gd 0x45 0 x d a)
  | .fmin gd x d a b => some (encFp gd 0x46 0 x d a b)
  | .fmax gd x d a b => some (encFp gd 0x47 0 x d a b)
  | .fcmp gd cond x d a b => some { (base gd 0x48).withB b with
      fn := aluFn false cond.code, x := x.toX, d := pSpec d, a := gSpec a }
  | .fcvt gd src x d a => some (encFp2 gd 0x49 src.code x d a)
  | .frcp gd x d a => some (encFp2 gd 0x4A 0 x d a)
  | .frsq gd x d a => some (encFp2 gd 0x4B 0 x d a)
  | .frstep gd r x d a b => some (encFp gd 0x4C r.toNat x d a b)
  | .fclass gd x d a => some (encFp2 gd 0x4D 0 x d a)
  | .fsgn gd m x d a b => some (encFp gd 0x4E m.code x d a b)
  | .vadd gd x d a b => some (encV gd 0x50 0 x d a b)
  | .vsub gd x d a b => some (encV gd 0x51 0 x d a b)
  | .vmul gd x d a b => some (encV gd 0x52 0 x d a b)
  | .vfma gd x d a b c => some { encV gd 0x53 0 x d a b with c := vSpec c }
  | .vmin gd u x d a b => some (encV gd 0x54 (2 * u.toNat) x d a b)
  | .vmax gd u x d a b => some (encV gd 0x55 (2 * u.toNat) x d a b)
  | .vabs gd x d a => some (encV2 gd 0x56 0 x d a)
  | .vneg gd x d a => some (encV2 gd 0x57 0 x d a)
  | .vcvt gd src part x d a => some (encV2 gd 0x58 (src.code + 32 * part.val) x d a)
  | .vcmp gd cond x d a b => some { (base gd 0x59).withV b with
      fn := aluFn false cond.code, x := x.toX, d := pSpec d, a := vSpec a }
  | .vsel gd x d a b c => some { encV gd 0x5A 0 x d a b with c := pSpec c }
  | .vand gd x d a b => some (encV gd 0x5B 0 x d a b)
  | .vor gd x d a b => some (encV gd 0x5C 0 x d a b)
  | .vxor gd x d a b => some (encV gd 0x5D 0 x d a b)
  | .vshl gd x d a b => some (encV gd 0x5E 0 x d a b)
  | .vshr gd r x d a b => some (encV gd 0x5F (2 * r.toNat) x d a b)
  | .vred gd op u x d a => some { base gd 0x60 with
      fn := BitVec.ofNat 8 (op.code + 8 * u.toNat), x := x.toX, d := gSpec d, a := vSpec a }
  | .vbcast gd none x d b => some { (base gd 0x61).withB b with x := x.toX, d := vSpec d }
  | .vbcast gd (some a) x d b => some { (base gd 0x61).withB b with fn := 1, x := x.toX, d := vSpec d, a := vSpec a }
  | .vperm gd x d a b => some { encV2 gd 0x62 0 x d a with b := BitVec.ofNat 32 (0x20 + b.val) }
  | .viota gd x d b => some { (base gd 0x63).withB b with x := x.toX, d := vSpec d }
  | .vrcp gd x d a => some (encV2 gd 0x64 0 x d a)
  | .vrsq gd x d a => some (encV2 gd 0x65 0 x d a)
  | .vrstep gd r x d a b => some (encV gd 0x66 r.toNat x d a b)
  | .vexp2 gd x d a => some (encV2 gd 0x67 0 x d a)
  | .vlog2 gd x d a => some (encV2 gd 0x68 0 x d a)
  | .vszb gd i x d a b => some (encV gd 0x69 i.toNat x d a b)
  | .vextr gd x d a b => some { (base gd 0x6A).withB b with x := x.toX, d := gSpec d, a := vSpec a }
  | .vinsr gd x d a b => some { (base gd 0x6B).withB b with x := x.toX, d := vSpec d, a := gSpec a }
  | .vscanp gd op u ex x d a => some (encV2 gd 0x6C (op.code + 8 * u.toNat + 16 * ex.toNat) x d a)
  | .nzscan gd d a b c => some { (base gd 0x6D).withB b with x := 0x0280, d := vSpec d, a := gSpec a, c := gSpec c }
  | .scfg gd out ety sp nd d a b => some { (base gd 0x70).withB b with
      x := BitVec.ofBool out ++ (ety.bits5 ++ (BitVec.ofNat 3 sp.val ++ (BitVec.ofNat 2 nd.val ++ 0#5))),
      d := vSpec d, a := gSpec a }
  | .sstart gd d => some { base gd 0x71 with d := vhiSpec d }
  | .sstop gd d => some { base gd 0x72 with d := vhiSpec d }
  | .sstat gd what d a => some { base gd 0x73 with fn := BitVec.ofNat 8 what.code, d := gSpec d, a := vhiSpec a }
  | .ld gd sx x d a b => some { encMem gd 0x80 sx.toNat x a b with d := gSpec d }
  | .st gd x a b c => some { encMem gd 0x81 0 x a b with c := gSpec c }
  | .ldp gd sx x d a b => some { encMem gd 0x82 sx.toNat x a b with d := gSpec d }
  | .stp gd x a b c => some { encMem gd 0x83 0 x a b with c := gSpec c }
  | .vld gd x d a b => some { encMem gd 0x84 0 x a b with d := vSpec d }
  | .vst gd zb x a b c => some { encMem gd 0x85 0 x a b with c := vSpec c, m := b.m ||| rxM x.rx ||| zbM zb }
  | .vldx gd k x d a b => some { base gd 0x86 with
      fn := BitVec.ofNat 8 k.val, x := x.toX, d := vSpec d, a := gSpec a, b := BitVec.ofNat 32 (0x20 + b.val), m := rxM x.rx }
  | .vstx gd zb k x a b c => some { base gd 0x87 with
      fn := BitVec.ofNat 8 k.val, x := x.toX, a := gSpec a, b := BitVec.ofNat 32 (0x20 + b.val), c := vSpec c,
      m := rxM x.rx ||| zbM zb }
  | .stq gd a b c => some { (base gd 0x88).withB b with x := 0x5600, a := gSpec a, c := vSpec c }
  | .fence gd obs => some { base gd 0x89 with x := 0#11 ++ obs }
  | .amoadd gd x d a b c => some (encAmo gd 0xA0 0 x d a b c)
  | .amoand gd x d a b c => some (encAmo gd 0xA1 0 x d a b c)
  | .amoor gd x d a b c => some (encAmo gd 0xA2 0 x d a b c)
  | .amoxor gd x d a b c => some (encAmo gd 0xA3 0 x d a b c)
  | .amoswap gd x d a b c => some (encAmo gd 0xA4 0 x d a b c)
  | .amomin gd u x d a b c => some (encAmo gd 0xA5 u.toNat x d a b c)
  | .amomax gd u x d a b c => some (encAmo gd 0xA6 u.toNat x d a b c)
  | .amofadd gd x d a b c => some (encAmo gd 0xA7 0 x d a b c)
  | .amofmin gd x d a b c => some (encAmo gd 0xA8 0 x d a b c)
  | .amofmax gd x d a b c => some (encAmo gd 0xA9 0 x d a b c)
  | .cas gd x d a b c => some (encAmo gd 0xAA 0 x d a b c)
  | .cas2 gd x d a b c => some (encAmo gd 0xAB 0 x d a b c)
  | .red gd op u ety a b c => some { encMem gd 0xAC (op.code + 16 * u.toNat) ⟨false, ety, .glob, .plain, 0⟩ a b with
      c := gSpec c }
  | .bind gd x d a b c => some { (base gd 0xB0).withB b with x := x.toX, d := gSpec d, a := gSpec a, c := gSpec c }
  | .unbind gd n => some { base gd 0xB1 with x := 0#3 ++ (BitVec.ofNat 3 n.val ++ 0#10) }
  | .unbindAll gd => some { base gd 0xB1 with fn := 1 }
  | .clst gd d b => some { (base gd 0xB2).withB b with d := gSpec d }
  | .clhold gd => some (base gd 0xB3)
  | .clrel gd => some (base gd 0xB4)
  | .marm gd a b => some { (base gd 0xC0).withB b with a := gSpec a }
  | .mdis gd a b => some { (base gd 0xC1).withB b with a := gSpec a }
  | .mdisAll gd => some { base gd 0xC1 with fn := 1 }
  | .mwait gd d b => some { (base gd 0xC2).withB b with d := gSpec d }
  | .breg gd n a => some { base gd 0xC3 with x := BitVec.ofNat 16 n.val, a := gSpec a }
  | .bcfg gd n a => some { base gd 0xC4 with x := BitVec.ofNat 16 n.val, a := gSpec a }
  | .barr gd n => some { base gd 0xC5 with x := BitVec.ofNat 16 n.val }
  | .bwait gd n d b => some { (base gd 0xC6).withB b with x := BitVec.ofNat 16 n.val, d := gSpec d }
  | .twany gd d a b => some (encGGB gd 0xD0 0 d a b)
  | .twall gd d a b => some (encGGB gd 0xD1 0 d a b)
  | .tffr gd d a => some { base gd 0xD2 with d := gSpec d, a := gSpec a }
  | .tclr gd d b => some { (base gd 0xD3).withB b with d := gSpec d }
  | .tstatus gd d b => some { (base gd 0xD4).withB b with d := gSpec d }
  | .qstat gd d b => some { (base gd 0xD5).withB b with d := gSpec d }
  | .ginvoke gd d a b => some { (base gd 0xE0).withB b with d := pSpec d, a := gSpec a }
  | .emit gd a b => some { (base gd 0xE1).withB b with a := gSpec a }
  | .sigt gd d b => some { (base gd 0xE2).withB b with d := pSpec d }
  | .sigq gd d b => some { (base gd 0xE3).withB b with d := gSpec d }
  | .sigv gd d b => some { (base gd 0xE4).withB b with d := gSpec d }
  | .retract gd b => some ((base gd 0xE5).withB b)
  | .retractAll gd => some { base gd 0xE5 with fn := 1 }
  | .pause gd => some (base gd 0xE6)
  | .dget gd d a => some { base gd 0xE7 with d := gSpec d, a := dSpec a }
  | .dset gd d b => some { (base gd 0xE8).withB b with d := dSpec d }
  | .chw gd d b => some { (base gd 0xE9).withB b with d := chSpec d }
  | .chr gd d a => some { base gd 0xEA with d := gSpec d, a := chSpec a }
  | .sigpre gd v d b => some { (base gd 0xEB).withB b with fn := BitVec.ofNat 8 v.toNat, d := gSpec d }
  | .gend gd => some (base gd 0xEC)
  | _ => none

/-- The 96-bit word of an instruction; none for a machine step. -/
def encode (i : Instr) : Option IWord := i.toFields.map Fields.pack

/-- The 12 bytes of an instruction in memory (R44). -/
def encodeBytes (i : Instr) : Option (List Byte) := (encode i).map fun w => leBytes 12 w.toNat

end Sys2Proof
end

