-- ==== Sys2Proof/Machine/Num.lean ====
section
/-! DEFINITION. Number formats and arithmetic (R61 to R83): values read exactly, one rounding function, conversions,
and the operations every unit shares. Bits are natural numbers here; flags are NV, DZ, OF, UF, NX at bits 0 to 4 (R79). -/

namespace Sys2Proof.Machine.Num

/-- An exact value read from a format: a NaN (signalling or not), an infinity, or (−1)^neg × m × 2^e. -/
inductive Val
  | nan (sig : Bool)
  | inf (neg : Bool)
  | num (neg : Bool) (m : Nat) (e : Int)
  deriving DecidableEq, Repr

/-- The layout of an FP format (R62 to R64): exponent and fraction widths, bias, IEEE specials, ignored low bits. -/
structure Fmt where
  eb   : Nat
  fb   : Nat
  bias : Nat
  ieee : Bool
  low  : Nat
  deriving DecidableEq, Repr

/-- The FP formats (R62 to R64). -/
def fmt : ETy → Option Fmt
  | .fp64 => some ⟨11, 52, 1023, true, 0⟩
  | .fp32 => some ⟨8, 23, 127, true, 0⟩
  | .fl19 => some ⟨8, 10, 127, true, 13⟩
  | .fp16 => some ⟨5, 10, 15, true, 0⟩
  | .bf16 => some ⟨8, 7, 127, true, 0⟩
  | .f8e4 => some ⟨4, 3, 7, true, 0⟩
  | .f8e5 => some ⟨5, 2, 15, true, 0⟩
  | .f6e3 => some ⟨3, 2, 3, false, 0⟩
  | .f6e2 => some ⟨2, 3, 1, false, 0⟩
  | .f4e2 => some ⟨2, 1, 1, false, 0⟩
  | _ => none

/-- Formats to which DAZ and FTZ apply (R80). -/
def flushes : ETy → Bool
  | .fp64 | .fp32 | .fl19 | .fp16 | .bf16 => true
  | _ => false

/-- Exponent field, fraction and sign of an encoding. -/
def Fmt.expo (f : Fmt) (b : Nat) : Nat := (b >>> (f.low + f.fb)) % 2 ^ f.eb
def Fmt.frac (f : Fmt) (b : Nat) : Nat := (b >>> f.low) % 2 ^ f.fb
def Fmt.sign (f : Fmt) (b : Nat) : Bool := b.testBit (f.low + f.fb + f.eb)
def Fmt.width (f : Fmt) : Nat := f.low + f.fb + f.eb + 1

/-- The value of an encoding (R62 to R64). -/
def Fmt.val (f : Fmt) (b : Nat) : Val :=
  let x := f.expo b
  let fr := f.frac b
  let s := f.sign b
  if f.ieee ∧ x = 2 ^ f.eb - 1 then
    if fr = 0 then .inf s else .nan (!(fr.testBit (f.fb - 1)))
  else if x = 0 then .num s fr (1 - (f.bias : Int) - f.fb)
  else .num s (2 ^ f.fb + fr) ((x : Int) - f.bias - f.fb)

/-- Whether an encoding is subnormal. -/
def Fmt.isSub (f : Fmt) (b : Nat) : Bool := f.expo b == 0 && f.frac b != 0

/-- The canonical quiet NaN (R62, R76). -/
def Fmt.qnan (f : Fmt) : Nat := ((2 ^ f.eb - 1) * 2 ^ f.fb + 2 ^ (f.fb - 1)) <<< f.low

def Fmt.infB (f : Fmt) (neg : Bool) : Nat :=
  (((if neg then 2 ^ f.eb else 0) + (2 ^ f.eb - 1)) * 2 ^ f.fb) <<< f.low

/-- The largest finite value, with a sign. -/
def Fmt.maxB (f : Fmt) (neg : Bool) : Nat :=
  ((if neg then 2 ^ (f.eb + f.fb) else 0) +
    (if f.ieee then (2 ^ f.eb - 1) * 2 ^ f.fb - 1 else 2 ^ (f.eb + f.fb) - 1)) <<< f.low

def Fmt.zeroB (f : Fmt) (neg : Bool) : Nat := if neg then 2 ^ (f.low + f.fb + f.eb) else 0

/-- The signed integer in the low w bits. -/
def sgn (w : Nat) (b : Nat) : Int :=
  let x := b % 2 ^ w
  if x < 2 ^ (w - 1) then (x : Int) else (x : Int) - 2 ^ w

/-- The low w bits of an integer. -/
def wrap (w : Nat) (x : Int) : Nat := (x % (2 ^ w : Int)).toNat

/-- The range of an integer format (R65); none for an FP or block format. -/
def intRange : ETy → Option (Int × Int)
  | .int64 => some (-(2 ^ 63), 2 ^ 63 - 1)
  | .int32 => some (-(2 ^ 31), 2 ^ 31 - 1)
  | .int16 => some (-(2 ^ 15), 2 ^ 15 - 1)
  | .int8 => some (-128, 127)
  | .uint8 => some (0, 255)
  | .int4 => some (-8, 7)
  | .uint4 => some (0, 15)
  | .tern => some (-1, 1)
  | _ => none

def ofInt (i : Int) : Val := .num (decide (i < 0)) i.natAbs 0

/-- The value of an encoding of any format but a block format, and whether TERN 0b10 raised invalid (R62 to R65). -/
def valOf (t : ETy) (b : Nat) : Val × Bool :=
  match fmt t with
  | some f => (f.val b, false)
  | none =>
    match t with
    | .int64 => (ofInt (sgn 64 b), false)
    | .int32 => (ofInt (sgn 32 b), false)
    | .int16 => (ofInt (sgn 16 b), false)
    | .int8 => (ofInt (sgn 8 b), false)
    | .int4 => (ofInt (sgn 4 b), false)
    | .uint8 => (ofInt (b % 256), false)
    | .uint4 => (ofInt (b % 16), false)
    | .tern => match b % 4 with
      | 1 => (ofInt 1, false)
      | 3 => (ofInt (-1), false)
      | 2 => (ofInt 0, true)
      | _ => (ofInt 0, false)
    | .bin1 => (if b % 2 = 1 then ofInt 1 else ofInt (-1), false)
    | _ => (ofInt 0, false)

/-- Flag bits (R79). -/
def NV : BitVec 5 := 1
def DZ : BitVec 5 := 2
def OF : BitVec 5 := 4
def UF : BitVec 5 := 8
def NX : BitVec 5 := 16

def flagIf (c : Bool) (f : BitVec 5) : BitVec 5 := if c then f else 0

/-- The modes an operation runs under: rounding (R73), DAZ, FTZ (R80), SAT. -/
structure Env where
  rm  : Nat
  daz : Bool
  ftz : Bool
  sat : Bool
  deriving DecidableEq, Repr

/-- RNE, no flush, no saturation: atomic unit, Ellipsis engine, decodes (R81). -/
def Env.plain : Env := ⟨0, false, false, false⟩

/-- A result: its bits, its flags, and whether a subnormal was met that DAZ or FTZ did not remove (R81). -/
structure Res where
  r   : Nat
  f   : BitVec 5
  sub : Bool
  deriving DecidableEq, Repr

/-- Whether the magnitude q + rem/2^sh rounds up by mode rm (R73). -/
def roundUp (rm : Nat) (neg : Bool) (q rem sh : Nat) : Bool :=
  if rem = 0 then false
  else match rm with
    | 0 => decide (2 * rem > 2 ^ sh) || (2 * rem == 2 ^ sh && q % 2 == 1)
    | 1 => false
    | 2 => neg
    | 3 => !neg
    | _ => decide (2 * rem ≥ 2 ^ sh)

/-- m × 2^e rounded to a multiple of 2^q: the multiple, and whether it is inexact. -/
def quant (rm : Nat) (neg : Bool) (m : Nat) (e q : Int) : Nat × Bool :=
  if q ≤ e then (m * 2 ^ (e - q).toNat, false)
  else
    let sh := (q - e).toNat
    let k := m >>> sh
    let rem := m % 2 ^ sh
    (if roundUp rm neg k rem sh then k + 1 else k, rem != 0)

/-- `round_to` for an FP format (R74) of the exact nonzero value (−1)^neg × m × 2^e. -/
def Fmt.round (f : Fmt) (t : ETy) (env : Env) (neg : Bool) (m : Nat) (e : Int) : Res :=
  let top := e + (m.log2 : Int)
  let emin := 1 - (f.bias : Int)
  let q := (if top < emin then emin else top) - f.fb
  let (k, inexact) := quant env.rm neg m e q
  let mag := ((q - (emin - f.fb)).toNat) * 2 ^ f.fb + k
  let sgnB := if neg then 2 ^ (f.eb + f.fb) else 0
  let tiny := decide (top < emin) &&
    (let (u, _) := quant env.rm neg m e (top - f.fb)
     !(decide (top + 1 ≥ emin) && u == 2 ^ (f.fb + 1)))
  let limit := if f.ieee then (2 ^ f.eb - 1) * 2 ^ f.fb else 2 ^ (f.eb + f.fb)
  if mag ≥ limit then
    let toMax := !f.ieee || env.sat || env.rm == 1 || (env.rm == 2 && !neg) || (env.rm == 3 && neg)
    ⟨if toMax then f.maxB neg else f.infB neg, OF ||| NX, false⟩
  else if tiny && env.ftz && flushes t then ⟨f.zeroB neg, UF ||| NX, false⟩
  else ⟨(sgnB + mag) <<< f.low, flagIf inexact NX ||| flagIf (tiny && inexact) UF,
    decide (0 < mag) && decide (mag < 2 ^ f.fb) && flushes t⟩

/-- `round_to` for an integer format after R75: nearest integer by the mode, clamped with invalid. -/
def roundInt (lo hi : Int) (w : Nat) (rm : Nat) (neg : Bool) (m : Nat) (e : Int) : Res :=
  let (k, inexact) := quant rm neg m e 0
  let i : Int := if neg then -(k : Int) else k
  if i < lo then ⟨wrap w lo, NV, false⟩
  else if hi < i then ⟨wrap w hi, NV, false⟩
  else ⟨wrap w i, flagIf inexact NX, false⟩

/-- `round_to(t, m, x)` for any format but a block format (R74, R75), of an exact number. -/
def roundTo (t : ETy) (env : Env) (neg : Bool) (m : Nat) (e : Int) : Res :=
  match fmt t with
  | some f => if m = 0 then ⟨f.zeroB neg, 0, false⟩ else f.round t env neg m e
  | none =>
    match intRange t with
    | some (lo, hi) => roundInt lo hi t.bits env.rm neg m e
    | none => ⟨0, 0, false⟩

/-- The canonical NaN of a type (R60). -/
def canonNan (t : ETy) : Nat := match fmt t with
  | some f => f.qnan
  | none => 0

def infOf (t : ETy) (neg : Bool) : Nat := match fmt t with
  | some f => f.infB neg
  | none => 0

def zeroOf (t : ETy) (neg : Bool) : Nat := match fmt t with
  | some f => f.zeroB neg
  | none => 0

def isSub (t : ETy) (b : Nat) : Bool := match fmt t with
  | some f => flushes t && f.isSub b
  | none => false

/-- A source read under DAZ (R80): its bits, a subnormal of a flushed format as zero of its sign. -/
def rdBits (t : ETy) (daz : Bool) (b : Nat) : Nat := match fmt t with
  | some f => if daz && flushes t && f.isSub b then f.zeroB (f.sign b) else b % 2 ^ f.width
  | none => b

def rd (t : ETy) (env : Env) (b : Nat) : Val := (valOf t (rdBits t env.daz b)).1

/-- Whether a source is a subnormal that DAZ leaves. -/
def srcSub (t : ETy) (env : Env) (b : Nat) : Bool := isSub t b && !env.daz

def Val.isSnan : Val → Bool
  | .nan s => s
  | _ => false

def Val.isNan : Val → Bool
  | .nan _ => true
  | _ => false

def Val.neg : Val → Bool
  | .nan _ => false
  | .inf n => n
  | .num n _ _ => n

/-- A NaN result with invalid when asked (R76). -/
def nanRes (t : ETy) (inv : Bool) : Res := ⟨canonNan t, flagIf inv NV, false⟩

/-- The exact sum of two numbers as sign, magnitude and exponent; an exact zero takes its sign by R74 step 5. -/
def sumEx (rm : Nat) (n1 : Bool) (m1 : Nat) (e1 : Int) (n2 : Bool) (m2 : Nat) (e2 : Int) : Bool × Nat × Int :=
  let e := if e1 ≤ e2 then e1 else e2
  let a : Int := (m1 * 2 ^ (e1 - e).toNat : Nat)
  let b : Int := (m2 * 2 ^ (e2 - e).toNat : Nat)
  let s := (if n1 then -a else a) + (if n2 then -b else b)
  if s = 0 then (if n1 = n2 then n1 else rm == 2, 0, e)
  else (decide (s < 0), s.natAbs, e)

/-- Addition of two read values (R74, R76). -/
def addV (t : ETy) (env : Env) (a b : Val) : Res :=
  match a, b with
  | .nan s, y => nanRes t (s || y.isSnan)
  | _, .nan s => nanRes t s
  | .inf n, .inf n' => if n = n' then ⟨infOf t n, 0, false⟩ else nanRes t true
  | .inf n, _ => ⟨infOf t n, 0, false⟩
  | _, .inf n => ⟨infOf t n, 0, false⟩
  | .num n1 m1 e1, .num n2 m2 e2 =>
    let (n, m, e) := sumEx env.rm n1 m1 e1 n2 m2 e2
    roundTo t env n m e

def Val.negate : Val → Val
  | .nan s => .nan s
  | .inf n => .inf (!n)
  | .num n m e => .num (!n) m e

/-- Multiplication of two read values. -/
def mulV (t : ETy) (env : Env) (a b : Val) : Res :=
  match a, b with
  | .nan s, y => nanRes t (s || y.isSnan)
  | _, .nan s => nanRes t s
  | .inf n, .inf n' => ⟨infOf t (n != n'), 0, false⟩
  | .inf n, .num n' m _ => if m = 0 then nanRes t true else ⟨infOf t (n != n'), 0, false⟩
  | .num n m _, .inf n' => if m = 0 then nanRes t true else ⟨infOf t (n != n'), 0, false⟩
  | .num n m e, .num n' m' e' => roundTo t env (n != n') (m * m') (e + e')

/-- Fused multiply-add of read values: exact, one rounding (R83). -/
def fmaV (t : ETy) (env : Env) (a b c : Val) : Res :=
  let snan := a.isSnan || b.isSnan || c.isSnan
  let pinv : Bool := match a, b with
    | .inf _, .num _ m _ => m == 0
    | .num _ m _, .inf _ => m == 0
    | _, _ => false
  if pinv then nanRes t true
  else match a, b, c with
    | .nan _, _, _ => nanRes t snan
    | _, .nan _, _ => nanRes t snan
    | _, _, .nan _ => nanRes t snan
    | .num n m e, .num n' m' e', .num nc mc ec =>
      let (s, k, x) := sumEx env.rm (n != n') (m * m') (e + e') nc mc ec
      roundTo t env s k x
    | .num _ _ _, .num _ _ _, .inf n => ⟨infOf t n, 0, false⟩
    | x, y, .num _ _ _ => ⟨infOf t (x.neg != y.neg), 0, false⟩
    | x, y, .inf n => if (x.neg != y.neg) = n then ⟨infOf t n, 0, false⟩ else nanRes t true

/-- A quotient with enough bits for one rounding: m1/m2 as magnitude, exponent, with the remainder as a low bit. -/
def divEx (m1 m2 : Nat) (e : Int) : Nat × Int :=
  let k := 130 + m2.log2
  let q := (m1 <<< k) / m2
  (2 * q + (if (m1 <<< k) % m2 = 0 then 0 else 1), e - k - 1)

/-- Division of two read values. -/
def divV (t : ETy) (env : Env) (a b : Val) : Res :=
  match a, b with
  | .nan s, y => nanRes t (s || y.isSnan)
  | _, .nan s => nanRes t s
  | .inf _, .inf _ => nanRes t true
  | .inf n, .num n' _ _ => ⟨infOf t (n != n'), 0, false⟩
  | .num n _ _, .inf n' => ⟨zeroOf t (n != n'), 0, false⟩
  | .num n m e, .num n' m' e' =>
    if m' = 0 then (if m = 0 then nanRes t true else ⟨infOf t (n != n'), DZ, false⟩)
    else if m = 0 then ⟨zeroOf t (n != n'), 0, false⟩
    else let (q, x) := divEx m m' (e - e'); roundTo t env (n != n') q x

/-- floor(sqrt n), bit by bit from bit k down. -/
def isqrtGo (n : Nat) : Nat → Nat → Nat
  | 0, r => r
  | k + 1, r =>
    let c := r + 2 ^ k
    isqrtGo n k (if c * c ≤ n then c else r)

def isqrt (n : Nat) : Nat := isqrtGo n (n.log2 / 2 + 1) 0

/-- sqrt(m × 2^e) with the remainder as a low bit. -/
def sqrtEx (m : Nat) (e : Int) : Nat × Int :=
  let m' := if e % 2 = 0 then m else 2 * m
  let e' := if e % 2 = 0 then e else e - 1
  let n := m' <<< 140
  let s := isqrt n
  (2 * s + (if s * s = n then 0 else 1), e' / 2 - 71)

/-- Square root of a read value (R129). -/
def sqrtV (t : ETy) (env : Env) (a : Val) : Res :=
  match a with
  | .nan s => nanRes t s
  | .inf n => if n then nanRes t true else ⟨infOf t false, 0, false⟩
  | .num n m e =>
    if m = 0 then ⟨zeroOf t n, 0, false⟩
    else if n then nanRes t true
    else let (q, x) := sqrtEx m e; roundTo t env false q x

/-- The order of two numbers: −1, 0 or 1, with −0 = +0. -/
def cmpV (a b : Val) : Int :=
  match a, b with
  | .inf n, .inf n' => if n = n' then 0 else if n then -1 else 1
  | .inf n, _ => if n then -1 else 1
  | _, .inf n => if n then 1 else -1
  | .num n1 m1 e1, .num n2 m2 e2 =>
    let e := if e1 ≤ e2 then e1 else e2
    let a : Int := (m1 * 2 ^ (e1 - e).toNat : Nat)
    let b : Int := (m2 * 2 ^ (e2 - e).toNat : Nat)
    let x := if n1 then -a else a
    let y := if n2 then -b else b
    if x < y then -1 else if x = y then 0 else 1
  | _, _ => 0

def addSub (r : Res) (c : Bool) : Res := { r with sub := r.sub || c }

/-! ### Operations on encodings -/

def fadd (t : ETy) (env : Env) (a b : Nat) : Res :=
  addSub (addV t env (rd t env a) (rd t env b)) (srcSub t env a || srcSub t env b)

def fsub (t : ETy) (env : Env) (a b : Nat) : Res :=
  addSub (addV t env (rd t env a) (rd t env b).negate) (srcSub t env a || srcSub t env b)

def fmul (t : ETy) (env : Env) (a b : Nat) : Res :=
  addSub (mulV t env (rd t env a) (rd t env b)) (srcSub t env a || srcSub t env b)

def fdiv (t : ETy) (env : Env) (a b : Nat) : Res :=
  addSub (divV t env (rd t env a) (rd t env b)) (srcSub t env a || srcSub t env b)

def ffma (t : ETy) (env : Env) (a b c : Nat) : Res :=
  addSub (fmaV t env (rd t env a) (rd t env b) (rd t env c)) (srcSub t env a || srcSub t env b || srcSub t env c)

def fsqrt (t : ETy) (env : Env) (a : Nat) : Res :=
  addSub (sqrtV t env (rd t env a)) (srcSub t env a)

/-- Whether minimumNumber takes a over b: by value, −0 below +0 (R78). -/
def lessV (a b : Val) : Bool :=
  match cmpV a b with
  | 0 => (match a, b with
    | .num n m _, .num n' m' _ => m == 0 && m' == 0 && n && !n'
    | _, _ => false)
  | c => decide (c < 0)

/-- minimumNumber or maximumNumber, the chosen operand as read (R78, R130). -/
def fminmax (t : ETy) (env : Env) (mx : Bool) (a b : Nat) : Res :=
  let x := rd t env a
  let y := rd t env b
  let s := srcSub t env a || srcSub t env b
  let f := flagIf (x.isSnan || y.isSnan) NV
  let ra := rdBits t env.daz a
  let rb := rdBits t env.daz b
  if x.isNan && y.isNan then ⟨canonNan t, f, s⟩
  else if x.isNan then ⟨rb, f, s⟩
  else if y.isNan then ⟨ra, f, s⟩
  else if mx then ⟨if lessV x y then rb else ra, f, s⟩
  else ⟨if lessV y x then rb else ra, f, s⟩

/-- The relations of R131 by code: 0 eq, 1 ne, 2 lt, 3 le, 4 gt, 5 ge, 6 un, 7 or; and the flags. -/
def fcmp (t : ETy) (env : Env) (cond : FCond) (a b : Nat) : Bool × BitVec 5 × Bool :=
  let x := rd t env a
  let y := rd t env b
  let un := x.isNan || y.isNan
  let c := cmpV x y
  let sn := flagIf (x.isSnan || y.isSnan) NV
  let qn := flagIf un NV
  let s := srcSub t env a || srcSub t env b
  match cond with
  | .eq => (!un && c == 0, sn, s)
  | .ne => (un || c != 0, sn, s)
  | .lt => (!un && decide (c < 0), qn, s)
  | .le => (!un && decide (c ≤ 0), qn, s)
  | .gt => (!un && decide (c > 0), qn, s)
  | .ge => (!un && decide (c ≥ 0), qn, s)
  | .c6 => (un, sn, s)
  | .c7 => (!un, sn, s)

/-- Conversion of a read value to a format (R75). -/
def cvtV (dst : ETy) (env : Env) (x : Val) : Res :=
  if dst = .bin1 then
    match x with
    | .nan _ => ⟨1, NV, false⟩
    | .inf n => ⟨if n then 0 else 1, NV, false⟩
    | .num n m e =>
      let c := cmpV (.num false m e) (.num false 1 0)
      ⟨if n then 0 else 1, if c > 0 then NV else if c = 0 then 0 else NX, false⟩
  else
    match fmt dst with
    | some f =>
      (match x with
       | .nan s => if f.ieee then ⟨f.qnan, flagIf s NV, false⟩ else ⟨0, NV, false⟩
       | .inf n => if f.ieee then ⟨if env.sat then f.maxB n else f.infB n, 0, false⟩ else ⟨f.maxB n, NV, false⟩
       | .num n m e => roundTo dst env n m e)
    | none =>
      (match intRange dst, x with
       | some _, .nan _ => ⟨0, NV, false⟩
       | some (lo, hi), .inf n => ⟨wrap dst.bits (if n then lo else hi), NV, false⟩
       | some (lo, hi), .num n m e => roundInt lo hi dst.bits env.rm n m e
       | none, _ => ⟨0, 0, false⟩)

/-- Integer source to an integer target (R75): a narrower target without SAT takes the low bits; else a value outside the target
gives its minimum or maximum with invalid. -/
def cvtInt (src dst : ETy) (env : Env) (b : Nat) : Res :=
  match (valOf src b).1, intRange dst with
  | .num n m e, some (lo, hi) =>
    let i : Int := if n then -(m : Int) else m
    if env.sat || decide (src.bits ≤ dst.bits) then roundInt lo hi dst.bits env.rm n m e
    else if dst = .tern ∧ wrap 2 i = 2 then ⟨[0, 1, 3].getD (Config.ternLow b % 3) 0, 0, false⟩
    else ⟨wrap dst.bits i, 0, false⟩
  | _, _ => ⟨0, 0, false⟩

/-- A conversion between any two formats but block formats (R75). Conversions of copy engines pass an Env without
flushing. -/
def cvt (src dst : ETy) (env : Env) (b : Nat) : Res :=
  if ((intRange src).isSome || src == .bin1) && (intRange dst).isSome then cvtInt src dst env b
  else addSub (cvtV dst env (rd src env b)) (srcSub src env b)

/-- `FCVT` between equal FP types keeps the value; an infinity stays (R132). -/
def cvtSame (t : ETy) (env : Env) (b : Nat) : Res :=
  match rd t env b with
  | .nan s => nanRes t s
  | .inf n => ⟨infOf t n, 0, false⟩
  | .num n m e => addSub (roundTo t env n m e) (srcSub t env b)

/-- The scalar conversion (R132): equal FP types keep the value. -/
def convert (src dst : ETy) (env : Env) (b : Nat) : Res :=
  if src = dst && (fmt src).isSome then cvtSame src env b else cvt src dst env b

/-- RNE of n/d to an integer. -/
def divRne (n d : Nat) : Nat :=
  let q := n / d
  let r := n % d
  if 2 * r > d ∨ (2 * r = d ∧ q % 2 = 1) then q + 1 else q

/-- `FRCP` (R133). -/
def frcp (env : Env) (b : Nat) : Res :=
  let s := srcSub .fp32 env b
  match rd .fp32 env b with
  | .nan sg => nanRes .fp32 sg
  | .inf n => ⟨zeroOf .fp32 n, 0, s⟩
  | .num n m e =>
    if m = 0 then ⟨infOf .fp32 n, DZ, s⟩
    else
      let top := m.log2
      let i := ((m - 2 ^ top) * 4096) / 2 ^ top
      let q := divRne (8192 * 16384) (8193 + 2 * i)
      let ex : Int := -(e + top) - 14
      let y := roundTo .fp32 { env with rm := 0, sat := false } n q ex
      if cmpV (.num false q ex) (.num false 1 128) ≥ 0 then ⟨infOf .fp32 n, OF ||| NX, s⟩
      else addSub y s

/-- `FRSQ` (R134). -/
def frsq (env : Env) (b : Nat) : Res :=
  let s := srcSub .fp32 env b
  match rd .fp32 env b with
  | .nan sg => nanRes .fp32 sg
  | .inf n => if n then nanRes .fp32 true else ⟨0, 0, s⟩
  | .num n m e =>
    if m = 0 then ⟨infOf .fp32 n, DZ, s⟩
    else if n then addSub (nanRes .fp32 true) s
    else
      let top := m.log2
      let ex : Int := e + top
      let odd := ex % 2 != 0
      let i := (m * (if odd then 4096 else 2048)) / 2 ^ top
      let k : Int := if odd then (ex - 1) / 2 else ex / 2
      let q := (isqrt (2 ^ 56 / (2 * i + 1)) + 128) / 256
      addSub (roundTo .fp32 { env with rm := 0, sat := false } false q (-k - 14)) s

/-- `FRSTEP` (R135): one Newton step, exact, one rounding; specials pass y through. -/
def frstep (rsq : Bool) (env : Env) (xb yb : Nat) : Res :=
  let x := rd .fp32 env xb
  let y := rd .fp32 env yb
  let s := srcSub .fp32 env xb || srcSub .fp32 env yb
  let pass : Res := ⟨rdBits .fp32 env.daz yb, flagIf (x.isSnan || y.isSnan) NV, s⟩
  match x, y with
  | .num nx mx ex, .num ny my ey =>
    if mx = 0 ∨ my = 0 then pass
    else
      -- y + y·(1 − x·y) = y·(2 − x·y); y + y·(1 − x·y·y)/2 = y·(3 − x·y·y)/2
      let (pn, pm, pe) : Bool × Nat × Int := if rsq then (nx, mx * my * my, ex + 2 * ey) else (nx != ny, mx * my, ex + ey)
      let (dn, dm, de) := sumEx env.rm false (if rsq then 3 else 2) 0 (!pn) pm pe
      if dm = 0 then
        -- the sum y + (−y) is an exact zero
        addSub (roundTo .fp32 env (env.rm == 2) 0 0) s
      else addSub (roundTo .fp32 env (ny != dn) (my * dm) (ey + de - (if rsq then 1 else 0))) s
  | _, _ => pass

/-- `FCLASS` (R136). -/
def fclass (t : ETy) (b : Nat) : Nat :=
  match fmt t with
  | none => 0
  | some f =>
    match f.val b with
    | .nan sg => if sg then 2 ^ 8 else 2 ^ 9
    | .inf n => if n then 1 else 2 ^ 7
    | .num n m _ =>
      if m = 0 then (if n then 2 ^ 3 else 2 ^ 4)
      else if f.isSub b then (if n then 2 ^ 2 else 2 ^ 5)
      else if n then 2 else 2 ^ 6

/-- `FSGN` (R137). -/
def fsgn (t : ETy) (v : SgnV) (a b : Nat) : Nat :=
  match fmt t with
  | none => a
  | some f =>
    let sb := f.sign b
    let s := match v with
      | .copy => sb
      | .neg => !sb
      | .xor => f.sign a != sb
    (a % 2 ^ (f.width - 1)) + (if s then 2 ^ (f.width - 1) else 0)

/-! ### Exponential and logarithms (R159, R160), in fixed point with FX fraction bits -/

def FX : Nat := 192

/-- 2·atanh(z) for z in fixed point, by its series. -/
def atanhGo (z2 : Nat) : Nat → Nat → Nat → Nat → Nat
  | 0, _, _, acc => acc
  | n + 1, p, k, acc => atanhGo z2 n ((p * z2) >>> FX) (k + 2) (acc + p / k)

/-- ln(num/den) for 1 ≤ num/den ≤ 2, in fixed point. -/
def lnFx (num den : Nat) : Nat :=
  let z := ((num - den) <<< FX) / (num + den)
  2 * atanhGo ((z * z) >>> FX) 64 z 1 0

def ln2Fx : Nat := lnFx 2 1

/-- log2 of m × 2^e (m > 0), in fixed point, signed. -/
def log2Fx (m : Nat) (e : Int) : Int :=
  let top := m.log2
  (e + top) * 2 ^ FX + (((lnFx m (2 ^ top)) <<< FX) / ln2Fx : Nat)

/-- ln of m × 2^e in fixed point, signed. -/
def logeFx (m : Nat) (e : Int) : Int :=
  let top := m.log2
  (e + top) * (ln2Fx : Int) + (lnFx m (2 ^ top) : Nat)

/-- exp(x) for 0 ≤ x < 1 in fixed point, by its series. -/
def expGo (x : Nat) : Nat → Nat → Nat → Nat → Nat
  | 0, _, _, acc => acc
  | n + 1, term, k, acc =>
    let t := ((term * x) >>> FX) / k
    expGo x n t (k + 1) (acc + t)

def expFx (x : Nat) : Nat := expGo x 60 (2 ^ FX) 1 (2 ^ FX)

/-- A value known to lie strictly above mag × 2^−FX, below the next: rounded with a sticky bit. -/
def roundFx (t : ETy) (env : Env) (neg : Bool) (mag : Nat) (e : Int) : Res :=
  roundTo t env neg (2 * mag + 1) (e - FX - 1)

/-- `VEXP2` of an FP32 (R159), correctly rounded. -/
def vexp2 (env : Env) (b : Nat) : Res :=
  let s := srcSub .fp32 env b
  match rd .fp32 env b with
  | .nan sg => nanRes .fp32 sg
  | .inf n => ⟨if n then 0 else infOf .fp32 false, 0, s⟩
  | .num n m e =>
    if m = 0 then ⟨0x3F800000, 0, s⟩
    else
      let big := cmpV (.num false m e) (.num false 256 0) ≥ 0
      if big then
        -- far above 2^128 or far below 2^−149
        addSub (roundTo .fp32 env false 3 (if n then -300 else 300)) s
      else
        let fx : Int := if e + (FX : Int) ≥ 0 then (m * 2 ^ (e + FX).toNat : Nat) else 0
        let x : Int := if n then -fx else fx
        let i := x / 2 ^ FX
        let f := (x % 2 ^ FX).toNat
        if f = 0 then addSub (roundTo .fp32 env false 1 i) s
        else addSub (roundFx .fp32 env false (expFx ((f * ln2Fx) >>> FX)) i) s

/-- `VLOG2` of an FP32 (R159), correctly rounded. -/
def vlog2 (env : Env) (b : Nat) : Res :=
  let s := srcSub .fp32 env b
  match rd .fp32 env b with
  | .nan sg => nanRes .fp32 sg
  | .inf n => if n then nanRes .fp32 true else ⟨infOf .fp32 false, 0, s⟩
  | .num n m e =>
    if m = 0 then ⟨infOf .fp32 true, DZ, s⟩
    else if n then addSub (nanRes .fp32 true) s
    else if m = 2 ^ m.log2 then
      let i : Int := e + m.log2
      addSub (roundTo .fp32 env (decide (i < 0)) i.natAbs 0) s
    else
      let x := log2Fx m e
      addSub (roundFx .fp32 env (decide (x < 0)) x.natAbs 0) s

/-- ln(s) of an integer size 2 to 65,535, correctly rounded by RNE (R160). -/
def lnSize (n : Nat) : Res := roundFx .fp32 Env.plain false (logeFx n 0).toNat 0

/-- `VSZB` on one element (R160): a + ln(s), s given as FP32 bits or as an INT32. FTZ and DAZ by env. A size of 1 leaves a as it
is, −0 among it; every other positive number raises inexact. -/
def vszb (int : Bool) (env : Env) (ab sb : Nat) : Res :=
  let rne := { env with rm := 0, sat := false }
  let conv : Res := if int then roundTo .fp32 rne (decide (sgn 32 sb < 0)) (sgn 32 sb).natAbs 0 else ⟨sb, 0, false⟩
  let sv : Val := if int then ofInt (sgn 32 sb) else rd .fp32 env sb
  let ssub := !int && srcSub .fp32 env sb
  let l : Res := match sv with
    | .nan sg => ⟨canonNan .fp32, flagIf true NV ||| flagIf sg NV, false⟩
    | .inf n => if n then ⟨canonNan .fp32, NV, false⟩ else ⟨infOf .fp32 false, 0, false⟩
    | .num n m e =>
      if m = 0 then ⟨infOf .fp32 true, DZ, false⟩
      else if n then ⟨canonNan .fp32, NV, false⟩
      else
        let isInt := decide (e ≥ 0) || m % 2 ^ (-e).toNat == 0
        let iv := if e ≥ 0 then m * 2 ^ e.toNat else m / 2 ^ (-e).toNat
        if isInt && decide (iv ≤ 65535) then
          (if iv = 1 then ⟨0, 0, false⟩ else lnSize iv)
        else
          let lg := vlog2 { rne with daz := false, ftz := false } conv.r
          let pr := fmul .fp32 { rne with daz := false } lg.r 0x3F317218
          ⟨pr.r, conv.f ||| lg.f ||| pr.f ||| NX, pr.sub⟩
  let one := cmpV sv (ofInt 1) == 0 && !sv.isNan
  let r := if one then cvtSame .fp32 env ab else addV .fp32 env (rd .fp32 env ab) (valOf .fp32 l.r).1
  ⟨r.r, r.f ||| l.f, r.sub || l.sub || ssub || srcSub .fp32 env ab⟩

/-! ### Block formats (R67 to R69) -/

/-- The codebook of Q16N and Q16F as FP16 (R67). -/
def codebook (c : Nat) : Nat :=
  match c % 16 with
  | 0 => 0xBC00 | 1 => 0xB9A9 | 2 => 0xB856 | 3 => 0xB6AB | 4 => 0xB4F9 | 5 => 0xB2E9 | 6 => 0xB013 | 7 => 0xA964
  | 8 => 0x2964 | 9 => 0x3013 | 10 => 0x32E9 | 11 => 0x34F9 | 12 => 0x36AB | 13 => 0x3856 | 14 => 0x39A9
  | _ => 0x3C00

/-- One product of a block decode (R68, R69). -/
def decMul (a b : Val) : Nat := (mulV .fp32 Env.plain a b).r

/-- `decode_q16n(c, q, S)` (R68). -/
def decodeQ16n (c q s : Nat) : Nat :=
  let s1 := decMul (ofInt (q % 256)) (valOf .fp32 s).1
  let s2 := decMul (valOf .fp32 s1).1 (valOf .fp32 0x3B808081).1
  decMul (valOf .fp16 (codebook c)).1 (valOf .fp32 s2).1

/-- The FP32 of a block element from its code and FP16 scale (R69); Q16N takes its scale byte and super-scale (R68). -/
def decodeBlock (t : ETy) (c scale super : Nat) : Nat :=
  match t with
  | .q16n => decodeQ16n c scale super
  | .q16f => decMul (valOf .fp16 (codebook c)).1 (valOf .fp16 (scale % 65536)).1
  | .b8i => decMul (ofInt (sgn 8 c)) (valOf .fp16 (scale % 65536)).1
  | _ => decMul (ofInt (sgn 4 c)) (valOf .fp16 (scale % 65536)).1

/-- A decoded element of a page format as type t (R206): exact, a NaN canonical with no flag, TERN 0b10 invalid. -/
def decodeEl (f t : ETy) (b scale super : Nat) : Res :=
  match f with
  | .q16n | .q16f | .b8i | .b4i =>
    let x := decodeBlock f b scale super
    (match (valOf .fp32 x).1 with
     | .nan _ => ⟨canonNan t, 0, false⟩
     | v => ⟨(cvtV t Env.plain v).r, 0, false⟩)
  | _ =>
    let (v, inv) := valOf f b
    (match v with
     | .nan _ => ⟨canonNan t, 0, false⟩
     | v => ⟨(cvtV t Env.plain v).r, flagIf inv NV, false⟩)

/-! ### Integers of the vector unit and the reductions -/

/-- An integer element operation's exact result, wrapped or clamped (R156, R158). -/
def finInt (w : Nat) (sat : Bool) (x : Int) : Nat :=
  let hi : Int := 2 ^ (w - 1) - 1
  let lo : Int := -(2 ^ (w - 1))
  wrap w (if sat then (if x < lo then lo else if hi < x then hi else x) else x)

/-- A comparison for similarity and routing order: −0 equals +0, a NaN below every number, NaNs equal (R263). -/
def rankLess (a b : Val) : Bool :=
  match a.isNan, b.isNan with
  | true, true => false
  | true, false => true
  | false, true => false
  | false, false => decide (cmpV a b < 0)

end Sys2Proof.Machine.Num
end

