-- ==== Sys2Proof/Machine/State.lean ====
section
/-! DEFINITION. The state of the whole package as plain data (R7, R12, R20): threads, cores, clusters, dies and the
application-core die; the reasons a step can stop; the state after reset. Tables are lists of (key, value) pairs; a core
has key die × 256 + die index, a cluster die × 16 + physical cluster (R9). -/

namespace Sys2Proof.Machine

/-- A sparse table, keys rising. -/
abbrev Tab (α : Type) := List (Nat × α)

/-- Bytes by address: addresses strictly rising, no entry equal to what an unlisted address reads as. -/
abbrev Mem := List Host.Cell

/-- What a byte that nothing has written reads as: zero (notes/assumptions/3; typed buffers by R187). DESIGN CHOICE for
global memory. -/
def Mem.unlisted : Byte := 0#8

/-- The canonical form of a memory. -/
def Mem.wf : Mem → Bool
  | [] => true
  | [c] => c.2 != Mem.unlisted
  | c :: d :: m => c.2 != Mem.unlisted && decide (c.1 < d.1) && Mem.wf (d :: m)

/-! ### Threads -/

/-- The states of a thread slot (R94). -/
inductive TSt
  | free | ready | waiting | exited | away | guest | node
  deriving DecidableEq, Repr

/-- A clause in its slot (R138). -/
structure Clause where
  dst   : GReg
  a     : GReg
  b     : OpB
  c     : GReg
  form  : Fin 4
  op1   : ClOp
  op2   : ClOp
  stale : Bool
  dirty : Bool
  deriving DecidableEq, Repr

/-- The states of a stream register other than UNBOUND (R167). -/
inductive SSt
  | configured | armed | faulted
  deriving DecidableEq, Repr

/-- An element the stream unit holds: its index, its bits, whether it is to be written (output), and the fault found on
it: cause and address (R174, R178). -/
structure SEl where
  q     : Nat
  val   : BitVec 32
  act   : Bool
  fault : Option (Nat × Nat)
  deriving DecidableEq, Repr

/-- Bytes that a home has read for an engine in one access (R18): their location, number and value, and the bad line among them with
its code (R208 step 7). -/
structure Got where
  loc : Nat
  n   : Nat
  val : Nat
  bad : Option (Nat × Nat)
  deriving DecidableEq, Repr

/-- A bound stream (R167, R168): `busy` while a prefetch or a write of the unit is under way; `told` once a FAULTED stream, or the
fault that an input stream holds, has trapped (R178); `turns`: the accesses of the beat or element under way that homes have
still to serve, and `got` what they have read (R18); `pick`: the element whose write they are. -/
structure Stream where
  st    : SSt
  out   : Bool
  ety   : ETy
  space : Fin 4
  ndim  : Nat
  desc  : BitVec 256
  pos   : Nat
  held  : List SEl
  busy  : Bool
  told  : Bool
  turns : List Nat
  got   : List Got
  pick  : Option Nat
  deriving DecidableEq, Repr

/-- A monitor entry that a thread holds (R282): the number of its arming, the line's virtual address, its location, and its
home. -/
structure Mon where
  arm   : Nat
  line  : Nat
  loc   : Nat
  home  : Nat
  armed : Bool
  fired : Bool
  lost  : Bool
  deriving DecidableEq, Repr

/-- The operations of an atomic unit (R278). -/
inductive AmoOp
  | add | and | or | xor | swap | min | minu | max | maxu | fadd | fmin | fmax | cas
  deriving DecidableEq, Repr

/-- One element of an access: its number, virtual address, location, bytes and data. -/
structure Elem where
  idx  : Nat
  va   : Nat
  loc  : Nat
  n    : Nat
  data : Nat
  deriving DecidableEq, Repr

/-- An element found good by the checks of R208, with its home and tier. -/
structure Hit where
  home : Nat
  tier : Nat
  el   : Elem
  deriving DecidableEq, Repr

/-- How one result element comes from the elements read (R206 to R208): source element, bit offset, format, and the
elements that hold its block scale and super-scale. -/
structure DecE where
  out   : Nat
  src   : Nat
  shift : Nat
  fmt   : ETy
  scale : Option Nat
  super : Option Nat
  deriving DecidableEq, Repr

/-- What a request does at its home: an access, an atomic, or the arming or disarming of monitor entry k (R283). `merge`: an
engine's store of elements narrower than a byte, the data of an element being the bits and, above its n bytes, the mask of those
written (R66). `bufLoad` and `bufStore`: a relaxed access of a typed buffer, which has no home (R316). -/
inductive MemOp
  | load
  | store
  | merge
  | bufLoad (sp : Nat)
  | bufStore (sp : Nat) (zb : Bool)
  | amo (op : AmoOp) (ety : ETy) (c e : Nat) (en : BitVec 5)
  | red (op : AmoOp) (ety : ETy) (c : Nat)
  | arm (k : Nat)
  | disarm (k : Nat)
  deriving DecidableEq, Repr

/-- What a thread does with the answer of its access. -/
inductive MemK
  | store
  | ld (sx : Bool) (ety : ETy) (ds : List GReg) (dec : List DecE)
  | vld (d : VReg) (ety : ETy) (dec : List DecE)
  | amo (ety : ETy) (d : GReg)
  | cas2 (d : GReg)
  | scfg (d : Fin 8) (out : Bool) (ety : ETy) (space ndim : Fin 4) (a : GReg)
  | ginvoke (d : PReg) (a : GReg)
  | vcopyLoad (dest : Fin 4) (d a c : GReg) (n : Nat)
  | vcopyStore (d a c : GReg) (n : Nat)
  | red
  deriving DecidableEq, Repr

/-- A memory access under way: replies still out, values received by element number, the first fault of step 7, flags. -/
structure MemW where
  left  : Nat
  vals  : Tab Nat
  fault : Option (Nat × Nat)
  flags : BitVec 5
  deriving DecidableEq, Repr

/-- What an instruction that has not completed waits for (R90). -/
inductive PendK
  | mem (k : MemK) (w : MemW)
  | retry (code : Nat)
  | beats (l : List (Fin 8 × Bool × Nat))
  | walk
  | twany (d : GReg) (m : Word)
  | twall (d : GReg) (m : Word)
  | mwait (d : GReg)
  | bwait (n : Fin 8) (d : GReg)
  | barr (n : Fin 8)
  | halt (d : GReg)
  | treap (d : GReg) (n : Nat)
  | iflush
  | hcall
  | stq (q : Nat) (card : BitVec 512)
  | tile (d : PReg) (a : GReg)
  | arm (k : Nat)
  | disarm (left : Nat)
  | ginvoke (d : PReg) (a : GReg)
  | sig (kind s : Nat) (dp : PReg) (dg : GReg)
  | chw (c : Fin 8) (v : Word)
  | chr (c : Fin 8) (d : GReg)
  | landing (m : Nat)
  | stopped
  deriving DecidableEq, Repr

/-- An instruction in its wait: issue cycle, charge, serial number, the cycle its timeout runs out. -/
structure Pend where
  kind   : PendK
  t0     : Nat
  eu     : Nat
  serial : Nat
  due    : Option Nat
  deriving DecidableEq, Repr

/-- An outstanding relaxed access or `RED` (R214, R281). -/
structure Rlx where
  serial : Nat
  kind   : MemK
  w      : MemW
  deriving DecidableEq, Repr

/-- The answer of a page walk: a well-formed leaf, or an absent page (R203). -/
inductive WalkRes
  | leaf (e : BitVec 128)
  | absent
  deriving DecidableEq, Repr

/-- A hardware thread slot with all its registers (R94, R108, R332, R341). `seen`: what an instruction that waits for a relaxed load
has read in its issue cycle (R60, R113). -/
structure Thread where
  st     : TSt
  light  : Bool
  pc     : Addr
  g      : Vector Word 32
  p      : Vector Word 8
  v      : Vector VWord 16
  d      : Vector Word 8
  dnext  : Vector Word 8
  dpend  : BitVec 8
  fmode  : BitVec 10
  fflags : BitVec 5
  forfeit : Word
  cl     : Vector (Option Clause) 8
  hold   : Bool
  str    : Vector (Option Stream) 8
  tcause : BitVec 8
  tval   : Word
  tepc   : Addr
  tstat  : BitVec 4
  tint   : Word
  mon    : Vector (Option Mon) 4
  arrived : BitVec 8
  bdone  : BitVec 8
  rlx    : List Rlx
  dfault : List (Nat × Nat × List Nat)
  postD  : List Nat
  postH  : List Nat
  exitV  : Word
  origin : Nat × Nat
  place  : Nat
  node   : Option (Nat × Nat × Nat)
  next   : Nat
  pend   : Option Pend
  walked : Tab WalkRes
  seen   : Option (List Word)
  hreply : Option (Nat × Word × Word)
  waitWas : Nat
  deriving DecidableEq, Repr

/-- A FREE slot, and the zero registers a thread starts with (R87, R103): `%tstat` starts with IE = 1 (R332). -/
def Thread.empty : Thread where
  st := .free
  light := false
  pc := 0
  g := Vector.replicate 32 0
  p := Vector.replicate 8 0
  v := Vector.replicate 16 0
  d := Vector.replicate 8 0
  dnext := Vector.replicate 8 0
  dpend := 0
  fmode := 0
  fflags := 0
  forfeit := 0
  cl := Vector.replicate 8 none
  hold := false
  str := Vector.replicate 8 none
  tcause := 0
  tval := 0
  tepc := 0
  tstat := 4
  tint := 0
  mon := Vector.replicate 4 none
  arrived := 0
  bdone := 0
  rlx := []
  dfault := []
  postD := []
  postH := []
  exitV := 0
  origin := (0, 0)
  place := 0
  node := none
  next := 0
  pend := none
  walked := []
  seen := none
  hreply := none
  waitWas := 0

/-! ### Cores -/

/-- A region of a typed buffer: buffer 0 W, 1 A, 2 C (R185, R186); its physical banks while RESIDENT. -/
structure Region where
  buf      : Nat
  banks    : Nat
  scratch  : Bool
  resident : Bool
  saved    : Bool
  phys     : List Nat
  deriving DecidableEq, Repr

/-- A card in a queue: its number, the posting core and context, the card, whether it is released, and the cycle in which it was
enqueued (R221). -/
structure QCard where
  id    : Nat
  core  : Nat
  cid   : Nat
  card  : BitVec 512
  released : Bool
  at'   : Nat
  deriving DecidableEq, Repr

/-- A card queue with its two pointers (R221, R241): the cards between them, oldest first. -/
structure Queue where
  cards : List QCard
  prod  : BitVec 6
  cons  : BitVec 6
  deriving DecidableEq, Repr

def Queue.empty : Queue := ⟨[], 0, 0⟩

/-- A copy job under way or parked: the card, its next chunk, a fault found (code, address), the readings of the index window under
way of a SNAP gather, and the elements of the next chunk that have been moved (R230, R231, R236, R245). Of the part under way:
`want` the elements to move (0 before a part is chosen), `turns` the accesses that homes have still to serve and `got` what they have
read (R18), `wrote` whether its values have been read, and `outs` its writes still to be sent. -/
structure CJob where
  card : QCard
  chunk : Nat
  fault : Option (Nat × Nat)
  snap  : Tab Nat
  part  : Nat
  want  : Nat := 0
  got   : List Got := []
  turns : List Nat := []
  wrote : Bool := false
  outs  : List Hit := []
  deriving DecidableEq, Repr

/-- The command in its K steps (R253): its card, the K-groups consumed, the cycle in which the steps begun end, with the read of C if
it is among them, SAT, the K values of the next group whose steps have begun, and the cycle in which these steps alone end (R255). -/
structure MRun where
  card : QCard
  step : Nat
  due  : Nat
  sat  : Bool
  k    : Nat
  ends : Nat
  deriving DecidableEq, Repr

/-- What a core holds for one context (R186, R332, R340, R349): among it the interrupts held while it is switched out (R335) and,
of a switched-out context, what the layout of R340 has no place for: its threads, its copy jobs with their next chunks, and, of
its copy and matrix cards, the numbers and the cycles in which they were enqueued. `owed`: charges with the cycle in which each is
made, of those that `energy` does not yet count (R113). -/
structure CCtx where
  cluster : Nat
  core    : Nat
  tvec    : Addr
  savebase : Addr
  savelen : Nat
  energy  : BitVec 48
  esat    : Bool
  w       : Mem
  a       : Mem
  c       : Mem
  z       : Mem
  regions : List Region
  lastRun : Nat
  progress : Word
  held    : List (Nat × BitVec 32)
  jobs    : List CJob
  kept    : List Thread
  ids     : List (Nat × Nat) × List (Nat × Nat)
  saved   : Bool
  owed    : List (Nat × Nat)
  deriving DecidableEq, Repr

/-- A completion tag (R218): pending count, completed bit, error bit, status word. -/
structure Tag where
  count : BitVec 16
  done  : Bool
  err   : Bool
  status : Word
  deriving DecidableEq, Repr

/-- The copy engine (R230, R232): running job, jobs parked on the A and the B FIFO, first cycle of idleness, the cycle in which
the engine next moves elements, and the first in which the chunk under way may end (R388). -/
structure CopyEng where
  job   : Option CJob
  parkA : Option CJob
  parkB : Option CJob
  idle  : Nat
  due   : Nat
  least : Nat
  deriving DecidableEq, Repr

/-- A command whose C write is still to be performed (R253 step 4): its result tile and the cycle of the write. -/
structure MWr where
  card : QCard
  tile : List (BitVec 32)
  due  : Nat
  sat  : Bool
  deriving DecidableEq, Repr

/-- The matrix unit (R242, R253): FIFOs, the command in its K steps, C writes to come, the 32 × 64 accumulators row by row, and the
place of the held tile. -/
structure MatUnit where
  fa    : List Byte
  fb    : List Byte
  run   : Option MRun
  wrs   : List MWr
  tile  : List (BitVec 32)
  caddr : Nat
  cstride : Nat
  tm    : Nat
  tn    : Nat
  valid : Bool
  deriving DecidableEq, Repr

/-- A barrier id of a core (R286): mask, core set, phase, scope, whether the core has arrived outward, and, once its phase has
completed and is still to be latched, the core that arrived last (R288). -/
structure Bar where
  mask  : BitVec 16
  cset  : BitVec 16
  phase : Bool
  scope : BitVec 2
  sent  : Bool
  closing : Option Nat
  deriving DecidableEq, Repr

/-- An entry of a home's monitor table (R282): the number of its arming, the line's location, and the watching core, slot and
entry number. -/
structure MonEnt where
  arm  : Nat
  loc  : Nat
  core : Nat
  slot : Nat
  k    : Nat
  deriving DecidableEq, Repr

/-- A leaf held by a TLB (R205): context, virtual page, and the entry. -/
structure TlbEnt where
  cid  : Nat
  vpn  : Nat
  leaf : BitVec 128
  deriving DecidableEq, Repr

/-- A 4-byte word of memory that a write has replaced: the number `State.serial` at that write, its location, and its value before
(R322). -/
structure OldWord where
  at'  : Nat
  loc  : Nat
  w    : BitVec 32
  deriving DecidableEq, Repr

/-- A core (R7); `homeQ`: arrivals at the home port (R18); `amoW`: writes of the atomic unit that are still to be performed: location,
bytes, cycle (R276); `iflush`: instruction fetches see no word replaced before this number (R322). -/
structure Core where
  run    : Option Nat
  halted : Bool
  dstep  : Option Nat
  th     : Vector Thread 16
  ctxs   : Tab CCtx
  tags   : Vector Tag 64
  cq     : Queue
  mq     : Queue
  copy   : CopyEng
  mat    : MatUnit
  wl     : List (Word × Word)
  wres   : Nat
  nbr    : Vector Nat 4
  xfer   : Bool
  landing : List Nat
  bar    : Vector Bar 8
  mons   : List MonEnt
  homeQ  : List (Nat × Nat)
  lastIn : Nat
  portFree : Nat
  amoW   : List (Nat × Nat × Nat)
  tlb    : List TlbEnt
  iflush : Nat
  idle   : Nat
  pwr    : Nat
  skipUntil : Nat
  deriving DecidableEq, Repr

def Core.empty : Core where
  run := none
  halted := false
  dstep := none
  th := Vector.replicate 16 Thread.empty
  ctxs := []
  tags := Vector.replicate 64 ⟨0, false, false, 0⟩
  cq := .empty
  mq := .empty
  copy := ⟨none, none, none, 0, 0, 0⟩
  mat := ⟨[], [], none, [], List.replicate 2048 0, 0, 0, 0, 0, false⟩
  wl := []
  wres := 0
  nbr := Vector.replicate 4 0
  xfer := false
  landing := []
  bar := Vector.replicate 8 ⟨0, 0, false, 0, false, none⟩
  mons := []
  homeQ := []
  lastIn := 5
  portFree := 0
  amoW := []
  tlb := []
  iflush := 0
  idle := 0
  pwr := 0
  skipUntil := 0

/-! ### Clusters -/

/-- A handle of a map store (R265, R270): state 0 FREE, 1 LIVE, 2 LOST. -/
structure MapRec where
  st     : Nat
  core   : Nat
  nopar  : Bool
  parent : Nat
  depth  : Nat
  child  : Bool
  n      : Nat
  m      : Nat
  mapoff : Nat
  deriving DecidableEq, Repr

/-- An interval of a footprint (R229): space (0 global, 1 W, 2 A, 3 C), core (0 for global), first byte, end. -/
structure Interval where
  space : Nat
  core  : Nat
  lo    : Int
  hi    : Int
  deriving DecidableEq, Repr

/-- An entry of the footprint window (R228, R229), in admission order: kind 0 copy, 1 matrix, 2 Ellipsis; the cards it waits
for; the cycle before which an Ellipsis job may not start (R260). -/
structure WinEnt where
  card : QCard
  kind : Nat
  rd   : List Interval
  wr   : List Interval
  deps : List Nat
  since : Nat
  deriving DecidableEq, Repr

/-- The running Ellipsis job (R259, R260): its card, first cycle, model cycles, the handle a MERGE took, the fault its start found, and
the rows that an UNMERGE has copied. -/
structure EJob where
  card   : QCard
  start  : Nat
  cycles : Nat
  handle : Nat
  code   : Nat
  addr   : Nat
  row    : Nat
  deriving DecidableEq, Repr

/-- A signal (R302, R313): status 0 unknown, 1 present, 2 absent; `first`: none, the input, or a node. -/
structure Sig where
  op    : Nat
  val   : Word
  pre   : Word
  st    : Nat
  preSt : Bool
  seen  : Bool
  first : Option (Option Nat)
  done  : Word
  deriving DecidableEq, Repr

/-- A node of a graph (R296, R297, R313): state 0 to run, 1 paused, 2 terminated, 3 blocked, 4 started, 5 running. -/
structure Node where
  core   : Nat
  entry  : Nat
  emask  : Word
  st     : Nat
  ctx    : Thread
  emitted : Word
  retr   : Word
  reason : Nat
  index  : Nat
  flight : Nat
  deriving DecidableEq, Repr

/-- An invocation in a matching store (R299, R300): its message, the block, the invoking core, and whether its reply has
arrived. -/
structure Inv where
  id   : Nat
  blk  : BitVec 704
  core : Nat
  ok   : Bool
  deriving DecidableEq, Repr

/-- A request that waits at the instant controller (R306, R308): node, kind 1 SIGT, 2 SIGV, 3 CHR, 4 CHW, index, value. -/
structure CtlW where
  node : Nat
  kind : Nat
  idx  : Nat
  val  : Word
  deriving DecidableEq, Repr

/-- A reactive graph (R295, R296, R313); `fin`: code and address with which the tag of its last instant is to complete (R304). -/
structure Graph where
  sigs  : List Sig
  nodes : List Node
  chans : Vector (Option Word) 8
  store : List Inv
  instant : Nat
  frozen : Bool
  busy  : Bool
  out   : Nat
  tag   : Nat
  invoker : Nat
  waits : List CtlW
  fin   : Option (Nat × Nat)
  deriving DecidableEq, Repr

/-- A message at or on its way to an instant controller (R298): arrival, core number, slot, and what it does. -/
structure CtlMsg where
  due  : Nat
  core : Nat
  slot : Nat
  ev   : Instr
  deriving DecidableEq, Repr

/-- A request for a tile on its way to the cluster's queue (R294): the cycle of its arrival, the core, the slot, the number of the
`FETCHTILE`. -/
structure TileReq where
  at'    : Nat
  core   : Nat
  slot   : Nat
  serial : Nat
  deriving DecidableEq, Repr

/-- A cluster (R7); `tiles`: the requests for tiles in the order of their service (R294); `pre`: a pre-emption request to the
controller and whether its read-out is forced (R312). -/
structure Cluster where
  run   : Option Nat
  eq    : Queue
  ejob  : Option EJob
  win   : List WinEnt
  maps  : List MapRec
  tileq : Word
  tnext : Nat
  tfree : Nat
  tiles : List TileReq
  bunit : Vector (BitVec 16) 8
  graphs : Tab Graph
  inbox : List CtlMsg
  cfree : Nat
  pre   : Option (Nat × Bool)
  tlb   : List TlbEnt
  pwr   : Nat
  deriving DecidableEq, Repr

def Cluster.empty : Cluster :=
  ⟨none, .empty, none, [], [], 0, 0, 0, [], Vector.replicate 8 0, [], [], 0, none, [], 0⟩

/-! ### Dies -/

/-- An entry of a launch queue (R84, R86): launch and skip count. -/
structure QLaunch where
  launch : Nat
  skips  : Nat
  deriving DecidableEq, Repr

/-- A page walk (R205): context, virtual page address, and the waiting thread. -/
structure Walk where
  id   : Nat
  cid  : Nat
  va   : Nat
  core : Nat
  slot : Nat
  deriving DecidableEq, Repr

/-- An event record (R347): type, die, context, three words; a kill to start once it is accepted (R333); the number of the wait of
an `HCALL` (R338). -/
structure Event where
  type : Nat
  die  : Nat
  cid  : Nat
  w1   : Word
  w2   : Word
  w3   : Word
  kill : Option Nat
  call : Nat := 0
  deriving DecidableEq, Repr

/-- Where a context stands: running, being pre-empted, being saved, switched out, being restored, killed. A save fault on one of
its cores freezes it (R342). -/
inductive CtxSt
  | running | preempting | saving | out | restoring | killed
  deriving DecidableEq, Repr

/-- A context on its die (R10, R11, R201, R355); `killed`: the reason of a kill that has begun (R344); `leaving`: the cores whose
regions a stopped relocation save is still to free (R193); `was`: the grid at the last switch-out; `nodes` and `eqs`: the graphs and
the Ellipsis cards that a switched-out context's clusters held, by grid number. -/
structure Ctx where
  launch : Nat
  part   : Nat
  st     : CtxSt
  grid   : List Nat
  stages : List Nat
  root   : Nat
  scb    : Nat
  args   : Nat
  mapspill : Nat
  debug  : Bool
  halts  : Nat
  haltAt : Nat
  acks   : Nat
  forced : Bool
  killed : Option Nat
  windows : Nat
  exitK  : Word
  esum   : Nat
  graphs : Tab Graph
  wins   : Tab (List WinEnt)
  leaving : List Nat
  was    : List Nat
  nodes  : Tab (Tab Graph)
  eqs    : Tab (List QCard)
  deriving DecidableEq, Repr

/-- A link direction and message class (R345): permits held, occupied slots, configured total, retraining until. -/
structure Link where
  permits : Nat
  slots   : Nat
  total   : Nat
  retrain : Option Nat
  deriving DecidableEq, Repr

/-- A compute die (R7). -/
structure Die where
  queue  : Vector (List QLaunch) 4
  walks  : List Walk
  evq    : List Event
  done   : Bool
  err    : Bool
  progress : Word
  colq   : Queue
  wires  : Vector (List Nat) 8
  ctxs   : Tab Ctx
  links  : Tab Link
  off    : Bool
  lost   : Nat
  deriving DecidableEq, Repr

def Die.empty : Die :=
  ⟨Vector.replicate 4 [], [], [], false, false, 0, .empty, Vector.replicate 8 [], [], [], false, 0⟩

/-! ### The package -/

/-- A request on its way to or at a home (R17, R18, R276); `accepted`: a posted store that has been accepted (R317). Of a relaxed
access: `done` once it has been performed, `ripe` once its answer could be there though it has not been performed (R316). -/
structure Req where
  core  : Nat
  slot  : Nat
  serial : Nat
  cid   : Nat
  home  : Nat
  tier  : Nat
  op    : MemOp
  els   : List Elem
  vals  : Tab Nat
  fault : Option (Nat × Nat)
  flags : BitVec 5
  accepted : Bool := false
  done  : Bool := false
  ripe  : Bool := false
  deriving DecidableEq, Repr

/-- Whose access an engine's turn at a home port is (R18): the copy engine of a core, the stream unit for a stream of a thread, the
job of a card in a collective, a device at a root port; `none`: bytes that the engine's own event moves. -/
inductive TOwner
  | copy (core : Nat)
  | stream (core slot : Nat) (reg : Fin 8)
  | coll (id card : Nat)
  | dma
  | none
  deriving DecidableEq, Repr

/-- An access of an engine on its way to or at a home port (R18): the core it comes from, the context it is for, its home, what it does
there, to which elements, and whose it is. -/
structure Turn where
  core  : Nat
  cid   : Nat
  home  : Nat
  op    : MemOp
  els   : List Elem
  owner : TOwner
  deriving DecidableEq, Repr

/-- A light thread on its way (R97, R98): its context, source, destination, origin, and whether an atomic sent it. -/
structure Mig where
  thr  : Thread
  src  : Nat
  slot : Nat
  dst  : Nat
  cid  : Nat
  home : Bool
  deriving DecidableEq, Repr

/-- An invocation or its reply on its way (R298, R300): reply 0 none yet, 1 OK, 2 FULL, 3 REJECT. -/
structure InvMsg where
  core : Nat
  slot : Nat
  serial : Nat
  cluster : Nat
  blk  : BitVec 704
  reply : Nat
  deriving DecidableEq, Repr

/-- Where a launch stands: queued, running, and ended with a status of R347. -/
inductive LSt
  | queued | running | ended (status : Nat)
  deriving DecidableEq, Repr

/-- A launch (R84, R88, R353): application, its number there, die, descriptor, state, context, exit value. -/
structure Launch where
  app  : Nat
  id   : Nat
  die  : Nat
  desc : BitVec 1024
  st   : LSt
  cid  : Nat
  exit : Word
  draining : Bool
  deriving DecidableEq, Repr

/-- A loaded application (R352): sections mapped (address, length), kernels (entry, argument bytes), graph words, next
launch number, partition, whether it runs. -/
structure App where
  maps    : List (Nat × Nat)
  kernels : List (Nat × Nat)
  graphs  : List Byte
  nextId  : Nat
  part    : Nat
  running : Bool
  root    : Nat
  nextVa  : Nat
  deriving DecidableEq, Repr

/-- An access of a drive or a network card at a root port (R351), an input: when, the application whose tables translate it,
the address, whether it writes, and the bytes written, or as many as it reads; once it has begun, the accesses that homes have still
to serve, and what they have read (R18). -/
structure Dma where
  time  : Nat
  app   : Nat
  va    : Nat
  write : Bool
  bytes : List Byte
  begun : Bool := false
  turns : List Nat := []
  got   : List Got := []
  deriving DecidableEq, Repr

/-- The TDISP states of a partition (R361). -/
inductive Tdi
  | unlocked | locked | run | error
  deriving DecidableEq, Repr

/-- A partition (R359, R361): TDISP state, dies, device number, slots with installed keys, EARLY. -/
structure Part where
  st   : Tdi
  dies : List Nat
  dev  : Nat
  keys : List Nat
  deriving DecidableEq, Repr

/-- A peer link port (R359): up, tag failures in a row, session key installed. -/
structure Port where
  up   : Bool
  fails : Nat
  key  : Bool
  deriving DecidableEq, Repr

/-- The SPDM responder (R362): version agreed, algorithms agreed, key exchange under way (port), sessions finished. -/
structure Spdm where
  version : Bool
  caps    : Bool
  algs    : Bool
  kex     : Option (Option Nat)
  sessions : Nat
  deriving DecidableEq, Repr

/-- What leaves the machine: an answer of a system call, of a context-control command or of the SPDM responder, a log, or what a
device at a root port has read. -/
inductive Reply
  | sys (app num status : Nat) (r : List Word)
  | ctl (die code : Nat) (err : Bool) (v : Word)
  | spdm (code : Nat) (words : List (BitVec 256))
  | log (app : Nat) (bytes : List Byte)
  | image (app : Nat) (ok : Bool)
  | dma (app : Nat) (bytes : List Byte)
  deriving DecidableEq, Repr

/-- A collective group (R357): participants and members (device, die). -/
structure Group where
  npart : Nat
  members : List (Nat × Nat)
  deriving DecidableEq, Repr

/-- A collective under way (R238): group, cards by participant, phases left, whether it has begun; the accesses that homes have still
to serve and what they have read (R18); `wrote` once the destinations' writes have been sent; `left`: the cards that have still to end,
with their faults (R220). -/
structure Coll where
  group : Nat
  cards : List QCard
  phase : Nat
  ready : Bool
  left  : List (QCard × Option (Nat × Nat))
  turns : List Nat := []
  got   : List Got := []
  wrote : Bool := false
  deriving DecidableEq, Repr

/-- A `wait` call that has not returned (R353). -/
structure WaitCall where
  app : Nat
  launch : Nat
  serial : Nat
  due    : Option Nat
  deriving DecidableEq, Repr

/-- The whole machine. -/
structure State where
  now    : Nat
  cur    : Nat × Nat
  slotPos : Nat
  serial : Nat
  free   : Nat
  agenda : List (Nat × Instr)
  mem    : Mem
  oldWords : List OldWord
  badLines : List (Nat × Nat)
  cores  : Tab Core
  clusters : Tab Cluster
  dies   : Tab Die
  reqs   : Tab Req
  turns  : Tab Turn
  migs   : Tab Mig
  invs   : Tab InvMsg
  colls  : Tab Coll
  groups : Tab Group
  launches : Tab Launch
  apps   : Tab App
  parts  : Tab Part
  ports  : Tab Port
  spdm   : Spdm
  boot   : Nat
  inService : BitVec 8
  trained : Bool
  tolerance : Word
  cap    : Word
  clock  : Nat
  deep   : Bool
  bar0   : Tab Word
  appMem : Mem
  events : List (Nat × Event)
  seqNo  : Nat
  copied : Nat
  pages  : Tab Nat
  waits  : List WaitCall
  replies : List Reply
  dmas   : List Dma
  deriving DecidableEq, Repr

/-- Why the machine stops. -/
inductive Fault
  /-- Raised by `exec` of a Pyrdal instruction when `State.cur` names no thread that holds a slot of a running context:
  no step of the machine asks for it (safe). -/
  | noThread
  deriving DecidableEq, Repr

/-- Why an instruction has no meaning. -/
inductive Refusal
  /-- Raised by an arm of `exec` that has no meaning yet (safe). -/
  | notModelled (mnemonic : String)
  deriving DecidableEq, Repr

/-- The machine right after reset: device status RESET, no die in service, the module cap at 2,400 W and the clock at
1,300 MHz (R5, R363, R364); the root-of-trust core is about to verify the firmware (R363). -/
def State.reset : State where
  now := 0
  cur := (0, 0)
  slotPos := 0
  serial := 0
  free := 0
  agenda := [(0, .romVerify)]
  mem := []
  oldWords := []
  badLines := []
  cores := []
  clusters := []
  dies := []
  reqs := []
  turns := []
  migs := []
  invs := []
  colls := []
  groups := []
  launches := []
  apps := []
  parts := []
  ports := []
  spdm := ⟨false, false, false, none, 0⟩
  boot := 0
  inService := 0
  trained := false
  tolerance := 0
  cap := 2400
  clock := 1300
  deep := false
  bar0 := []
  appMem := []
  events := []
  seqNo := 0
  copied := 0
  pages := []
  waits := []
  replies := []
  dmas := []

end Sys2Proof.Machine
end

