-- ==== Sys2Proof/Machine/Ops.lean ====
section
/-! DEFINITION. The named operations on the state: tables, memory, registers, the mesh's latency model (R9, R15, R16), the
agenda, charges (R349), trap entry and return (R333, R337). -/

namespace Sys2Proof.Machine

/-! ### Tables and vectors -/

def tget {α : Type} : Tab α → Nat → Option α
  | [], _ => none
  | (k, a) :: t, n => if k = n then some a else tget t n

/-- Insert or replace, keys kept rising. -/
def tput {α : Type} : Tab α → Nat → α → Tab α
  | [], n, x => [(n, x)]
  | (k, a) :: t, n, x =>
    if n < k then (n, x) :: (k, a) :: t
    else if n = k then (n, x) :: t
    else (k, a) :: tput t n x

def tdel {α : Type} : Tab α → Nat → Tab α
  | [], _ => []
  | (k, a) :: t, n => if k = n then t else (k, a) :: tdel t n

def vget {α : Type} {n : Nat} (v : Vector α n) (i : Nat) (d : α) : α := v.toArray.getD i d
def vset {α : Type} {n : Nat} (v : Vector α n) (i : Nat) (a : α) : Vector α n := v.setIfInBounds i a

/-! ### Memory: one byte at a time, wider accesses little-endian (R4) -/

def Mem.get : Mem → Nat → Byte
  | [], _ => Mem.unlisted
  | (k, b) :: m, a => if k = a then b else if a < k then Mem.unlisted else Mem.get m a

/-- Write one byte, keeping the canonical form. -/
def Mem.set : Mem → Nat → Byte → Mem
  | [], a, b => if b = Mem.unlisted then [] else [(a, b)]
  | (k, c) :: m, a, b =>
    if a < k then (if b = Mem.unlisted then (k, c) :: m else (a, b) :: (k, c) :: m)
    else if a = k then (if b = Mem.unlisted then m else (a, b) :: m)
    else (k, c) :: Mem.set m a b

def Mem.read (m : Mem) (a : Nat) : Nat → Nat
  | 0 => 0
  | n + 1 => (m.get a).toNat + 256 * Mem.read m (a + 1) n

def Mem.write (m : Mem) (a : Nat) : Nat → Nat → Mem
  | 0, _ => m
  | n + 1, v => Mem.write (m.set a (BitVec.ofNat 8 v)) (a + 1) n (v / 256)

def Mem.bytes (m : Mem) (a : Nat) : Nat → List Byte
  | 0 => []
  | n + 1 => m.get a :: Mem.bytes m (a + 1) n

def Mem.writeBytes (m : Mem) (a : Nat) : List Byte → Mem
  | [] => m
  | b :: bs => Mem.writeBytes (m.set a b) (a + 1) bs

/-! ### Parts of the package (R9) -/

/-- A thread by its core key and slot. -/
abbrev Key := Nat × Nat

def dieOf (core : Nat) : Nat := core / 256
def idxOf (core : Nat) : Nat := core % 256
def cxOf (core : Nat) : Nat := core % 16
def cyOf (core : Nat) : Nat := core / 16 % 16

/-- The key of a core's physical cluster (R9). -/
def clusterOf (core : Nat) : Nat := dieOf core * 16 + (cyOf core / 4) * 4 + cxOf core / 4

/-- The number of a core within its cluster (R9). -/
def coreNo (core : Nat) : Nat := 4 * (cyOf core % 4) + cxOf core % 4

/-- The core with a number in a cluster. -/
def coreIn (cl n : Nat) : Nat :=
  (cl / 16) * 256 + (4 * (cl % 16 / 4) + n / 4) * 16 + 4 * (cl % 16 % 4) + n % 4

def State.core (s : State) (k : Nat) : Core := (tget s.cores k).getD .empty
def State.setCore (s : State) (k : Nat) (c : Core) : State := { s with cores := tput s.cores k c }
def State.updCore (s : State) (k : Nat) (f : Core → Core) : State := s.setCore k (f (s.core k))
def State.cluster (s : State) (k : Nat) : Cluster := (tget s.clusters k).getD .empty
def State.updCluster (s : State) (k : Nat) (f : Cluster → Cluster) : State :=
  { s with clusters := tput s.clusters k (f (s.cluster k)) }
def State.die (s : State) (d : Nat) : Die := (tget s.dies d).getD .empty
def State.updDie (s : State) (d : Nat) (f : Die → Die) : State := { s with dies := tput s.dies d (f (s.die d)) }

def Core.thr (c : Core) (i : Nat) : Thread := vget c.th i .empty
def Core.setThr (c : Core) (i : Nat) (t : Thread) : Core := { c with th := vset c.th i t }
def State.thr (s : State) (k : Key) : Thread := (s.core k.1).thr k.2
def State.setThr (s : State) (k : Key) (t : Thread) : State := s.updCore k.1 (·.setThr k.2 t)
def State.updThr (s : State) (k : Key) (f : Thread → Thread) : State := s.setThr k (f (s.thr k))

/-- The context a core runs; 0 stands for none. -/
def Core.cid (c : Core) : Nat := c.run.getD 0

def CCtx.empty : CCtx := ⟨0, 0, 0, 0, 0, 0, false, [], [], [], [], [], 0, 0, [], [], [], ([], []), false, []⟩
def Core.ctx (c : Core) (cid : Nat) : CCtx := (tget c.ctxs cid).getD .empty
def Core.updCtx (c : Core) (cid : Nat) (f : CCtx → CCtx) : Core := { c with ctxs := tput c.ctxs cid (f (c.ctx cid)) }

def Ctx.empty : Ctx := ⟨0, 0, .running, [], [], 0, 0, 0, 0, false, 0, 0, 0, false, none, 0, 0, 0, [], [], [], [], [], []⟩
def State.ctx (s : State) (die cid : Nat) : Ctx := (tget (s.die die).ctxs cid).getD .empty
def State.updCtx (s : State) (die cid : Nat) (f : Ctx → Ctx) : State :=
  s.updDie die fun d => { d with ctxs := tput d.ctxs cid (f ((tget d.ctxs cid).getD .empty)) }

/-- The partition of a context. -/
def State.partOf (s : State) (die cid : Nat) : Part := (tget s.parts (s.ctx die cid).part).getD ⟨.unlocked, [], 0, []⟩

/-- The cycle count of a die (R113): the package's clock less the cycles the die was off. It counts from package reset for every
die (notes/assumptions/89, DESIGN CHOICE: R112 and R368 do not say when a die's cores leave reset). -/
def State.cyc (s : State) (die : Nat) : Nat := s.now - (s.die die).lost

/-- The cores of a list of clusters. -/
def coresOf (cls : List Nat) : List Nat := cls.flatMap fun cl => (List.range 16).map (coreIn cl)

/-- The cores of a context's grid. -/
def Ctx.cores (c : Ctx) : List Nat := coresOf c.grid

/-! ### The agenda and fresh numbers -/

/-- Add an event, after every event due in the same cycle or before. -/
def agendaAdd : List (Nat × Instr) → Nat → Instr → List (Nat × Instr)
  | [], t, e => [(t, e)]
  | (u, f) :: l, t, e => if t < u then (t, e) :: (u, f) :: l else (u, f) :: agendaAdd l t e

def State.post (s : State) (delay : Nat) (e : Instr) : State := { s with agenda := agendaAdd s.agenda (s.now + delay) e }

def State.fresh (s : State) : Nat × State := (s.serial, { s with serial := s.serial + 1 })

/-- A free duration or choice (notes/assumptions/2). -/
def State.freeNat (s : State) : Nat × State := (Config.freeNat s.free, { s with free := s.free + 1 })
def State.freeBool (s : State) : Bool × State := (Config.freeBool s.free, { s with free := s.free + 1 })
def State.freeWord (s : State) : Word × State := (Config.freeWord s.free, { s with free := s.free + 1 })

/-- An event after a delay that the manual does not fix, at least lo cycles. -/
def State.postFree (s : State) (lo : Nat) (e : Instr) : State :=
  let (n, s) := s.freeNat
  s.post (lo + n) e

/-! ### Power (R364): units are cores 0, clusters 1, dies 2, the package 3 -/

/-- Exit latencies in ns. -/
def exitNs : Nat → Nat
  | 0 => 20 | 1 => 2000 | 2 => 40000 | _ => 300000

/-- Cycles of the compute clock in a time, rounded up. -/
def State.nsCycles (s : State) (ns : Nat) : Nat := (ns * s.clock + 999) / 1000

/-- Post the exit of a unit, unless it is under way. -/
def State.wake (s : State) (delay unit i : Nat) : State :=
  if s.agenda.any fun e => e.2 == .powerStateExit unit i then s
  else s.post (delay + s.nsCycles (exitNs unit)) (.powerStateExit unit i)

/-- Start the exit of a die that is off, from package deep first. -/
def State.wakeDie (s : State) (die : Nat) : State :=
  if !(s.die die).off then s
  else if s.deep then (s.wake 0 3 0).wake (s.nsCycles (exitNs 3)) 2 die
  else s.wake 0 2 die

/-- Start the exit of the units that the home of a core needs: its die, its cluster, itself. -/
def State.wakeHome (s : State) (core : Nat) : State :=
  let s := s.wakeDie (dieOf core)
  let s := if (s.cluster (clusterOf core)).pwr = 0 then s else s.wake 0 1 (clusterOf core)
  if (s.core core).pwr = 0 then s else s.wake 0 0 core

/-- Whether the home of a core is awake. -/
def State.homeUp (s : State) (core : Nat) : Bool :=
  !(s.die (dieOf core)).off && (s.cluster (clusterOf core)).pwr == 0 && (s.core core).pwr == 0

/-- The home of a core has nothing to do: its units may sleep again. -/
def State.restHome (s : State) (core : Nat) : State :=
  if s.tolerance.toNat < 20 ∨ (s.core core).run.isSome ∨ !(s.core core).homeQ.isEmpty then s
  else ((s.post 0 (.powerStateEntry 0 core)).post 0 (.powerStateEntry 1 (clusterOf core))).post 0 (.powerStateEntry 2 (dieOf core))

/-- Start the exit of a die that is off; the cycles until it ends. -/
def State.dieExit (s : State) (die : Nat) : Nat × State :=
  let s := s.wakeDie die
  (((s.agenda.find? fun x => x.2 == .powerStateExit 2 die).map fun x => x.1 - s.now).getD 0, s)

/-- An event waits out the exit of a die that is off, and comes right after it. -/
def State.awaitDie (s : State) (die : Nat) (e : Instr) : State :=
  let (d, s) := s.dieExit die
  s.post d e

/-- The die of a home, if it is of this package and off: for a peer's home, of another partition (R364, R359). -/
def State.offDie (s : State) (tier home loc : Nat) : Option Nat :=
  let d := dieOf home
  let here := decide (tier ≤ 1) ||
    (tier == 2 && s.parts.any fun p => p.2.dev == loc / 2 ^ 46 % 64 && p.2.dies.contains d)
  if (s.die d).off && here then some d else none

/-- The units of a die that sleep: cores and clusters. -/
def State.asleep (s : State) (die : Nat) : List (Nat × Nat) :=
  ((s.cores.filter fun p => dieOf p.1 == die && p.2.pwr != 0).map fun p => (0, p.1)) ++
  ((s.clusters.filter fun p => p.1 / 16 == die && p.2.pwr != 0).map fun p => (1, p.1))

/-- Ask a die and its units whether they may sleep. -/
def State.sleepCheck (s : State) (die : Nat) : State :=
  if s.tolerance.toNat < 20 then s
  else
    let cs := (s.cores.filter fun p => dieOf p.1 == die && p.2.pwr == 0 && p.2.run.isNone).map (·.1)
    let s := cs.foldl (fun s c => s.post 0 (.powerStateEntry 0 c)) s
    let s := (List.range 16).foldl (fun s c => s.post 0 (.powerStateEntry 1 (die * 16 + c))) s
    s.post 0 (.powerStateEntry 2 die)

/-! ### The mesh (R15, R16) -/

/-- Flits of a message with p bytes of payload (R15). -/
def flits (p : Nat) : Nat := if p ≤ 8 then 1 else 1 + (p - 8 + 15) / 16

def absDiff (a b : Nat) : Nat := (a - b) + (b - a)

/-- Package coordinates (R16). -/
def pkgX (core : Nat) : Nat := 16 * (dieOf core % 4) + cxOf core
def pkgY (core : Nat) : Nat := 16 * (dieOf core / 4) + cyOf core

def hops (a b : Nat) : Nat := absDiff (pkgX a) (pkgX b) + absDiff (pkgY a) (pkgY b)
def bounds (a b : Nat) : Nat := absDiff (dieOf a % 4) (dieOf b % 4) + absDiff (dieOf a / 4) (dieOf b / 4)

/-- L_msg of R16; a message to the own router takes no time. -/
def msgTime (a b f : Nat) : Nat := if a = b then 0 else 6 + 2 * hops a b + 16 * bounds a b + (f - 1)

/-- Service of a slice for n bytes (R17), and cycles of its port. -/
def sliceTime (n : Nat) : Nat := 4 + (n - 1) / 128
def portCycles (n : Nat) : Nat := if n = 0 then 1 else (n + 127) / 128

/-- The least C ≥ x with C mod 16 = t. -/
def alignUp (x t : Nat) : Nat := x + (t + 16 - x % 16) % 16

/-! ### Registers (R48, R50, R109) -/

def Thread.rg (t : Thread) (r : GReg) : Word := if r = 0 then 0 else t.g.get r
def Thread.rp (t : Thread) (r : PReg) : Word := if r = 0 then ones64 else t.p.get r
def Thread.rv (t : Thread) (r : VReg) : VWord := t.v.get r

def Thread.setG (t : Thread) (r : GReg) (v : Word) : Thread := if r = 0 then t else { t with g := t.g.set r.val v r.isLt }
def Thread.setP (t : Thread) (r : PReg) (v : Word) : Thread := if r = 0 then t else { t with p := t.p.set r.val v r.isLt }
def Thread.setV (t : Thread) (r : VReg) (v : VWord) : Thread := { t with v := t.v.set r.val v r.isLt }

/-- The guard of an instruction that is not lane-wise (R50). -/
def Thread.guardOn (t : Thread) (gd : Guard) : Bool := (t.rp gd.p).getLsbD 0 != gd.neg

/-- The active lanes of a lane-wise instruction (R50). -/
def Thread.lanes (t : Thread) (gd : Guard) : BitVec 64 := if gd.neg then ~~~(t.rp gd.p) else t.rp gd.p

/-! ### `%fmode` and `%tstat` (R114, R332) -/

def Thread.rm (t : Thread) : Nat := (t.fmode.extractLsb' 0 3).toNat
def Thread.daz (t : Thread) : Bool := t.fmode.getLsbD 3
def Thread.ftz (t : Thread) : Bool := t.fmode.getLsbD 4
def Thread.enables (t : Thread) : BitVec 5 := t.fmode.extractLsb' 5 5

def Thread.mode (t : Thread) : Bool := t.tstat.getLsbD 0
def Thread.pmode (t : Thread) : Bool := t.tstat.getLsbD 1
def Thread.ie (t : Thread) : Bool := t.tstat.getLsbD 2
def Thread.pie (t : Thread) : Bool := t.tstat.getLsbD 3
def packStat (pie ie pmode mode : Bool) : BitVec 4 :=
  BitVec.ofBool pie ++ (BitVec.ofBool ie ++ (BitVec.ofBool pmode ++ BitVec.ofBool mode))
def Thread.intPending (t : Thread) : Bool := t.tint.getLsbD 63
def Thread.intWord (t : Thread) : BitVec 32 := t.tint.extractLsb' 0 32

/-! ### Causes (R334) -/

/-- The trap causes of R334. -/
inductive Cause
  | illegalInstruction | illegalOperand | privileged | misaligned | pageAbsent | permission | formatMismatch
  | boundWrite | clauseCycle | clauseFault | intDivideByZero | fpException | streamMismatch | streamFault
  | cardRejected | threadMgmt | migrationRefused | monitorOverflow | bufferPermission | softwareTrap | breakpoint
  | signalUndeclared | uncorrectable | integrity | hcallError | interrupt
  deriving DecidableEq, Repr

def Cause.code : Cause → Nat
  | .illegalInstruction => 0x01 | .illegalOperand => 0x02 | .privileged => 0x03 | .misaligned => 0x04
  | .pageAbsent => 0x05 | .permission => 0x06 | .formatMismatch => 0x07 | .boundWrite => 0x08
  | .clauseCycle => 0x09 | .clauseFault => 0x0A | .intDivideByZero => 0x0B | .fpException => 0x0C
  | .streamMismatch => 0x0D | .streamFault => 0x0E | .cardRejected => 0x0F | .threadMgmt => 0x10
  | .migrationRefused => 0x11 | .monitorOverflow => 0x12 | .bufferPermission => 0x13 | .softwareTrap => 0x14
  | .breakpoint => 0x15 | .signalUndeclared => 0x16 | .uncorrectable => 0x17 | .integrity => 0x18
  | .hcallError => 0x19 | .interrupt => 0x1A

/-- The cause of a step-7 code (R208). -/
def causeOf : Nat → Cause
  | 0x05 => .pageAbsent | 0x06 => .permission | 0x07 => .formatMismatch | 0x0C => .fpException | 0x13 => .bufferPermission
  | 0x17 => .uncorrectable | _ => .integrity

/-! ### Energy (R349) -/

/-- Charge a context's count on a core; past the top it stays there and ESAT is set (R349). -/
def CCtx.charge (x : CCtx) (eu : Nat) : CCtx :=
  let n := x.energy.toNat + eu
  if n < 2 ^ 48 then { x with energy := BitVec.ofNat 48 n } else { x with energy := BitVec.allOnes 48, esat := true }

/-- Count the charges made before a cycle (R113). -/
def CCtx.settle (x : CCtx) (t : Nat) : CCtx :=
  (x.owed.filter fun e => decide (e.1 < t)).foldl (fun x e => x.charge e.2) { x with owed := x.owed.filter fun e => decide (t ≤ e.1) }

/-- Count every charge. -/
def CCtx.settled (x : CCtx) : CCtx := x.owed.foldl (fun x e => x.charge e.2) { x with owed := [] }

/-- A charge that is made in cycle e. -/
def CCtx.owe (x : CCtx) (now e eu : Nat) : CCtx :=
  let x := x.settle now
  { x with owed := x.owed ++ [(e, eu)] }

def State.charge (s : State) (core cid eu : Nat) : State := s.updCore core fun c => c.updCtx cid (·.owe s.now s.now eu)

/-- Charge the context that the core runs, d cycles on: an instruction is charged in the cycle E of R92. -/
def State.chargeIn (s : State) (core d eu : Nat) : State :=
  s.updCore core fun c => c.updCtx c.cid (·.owe s.now (s.now + d) eu)

/-- Charge the context that the core runs. -/
def State.chargeRun (s : State) (core eu : Nat) : State := s.chargeIn core 0 eu

/-! ### Taking a trap and returning from it (R333, R337) -/

/-- The register part of trap entry that every trap has (R333). -/
def Thread.trapRegs (t : Thread) (cause : Nat) (val : Word) (epc : Addr) : Thread :=
  { t with tcause := BitVec.ofNat 8 cause, tval := val, tepc := epc }

/-- Whether a trap has no handler: in system mode, or with `%tvec` = 0 (R333). -/
def Thread.unhandled (t : Thread) (tvec : Addr) : Bool := t.mode || tvec == 0

/-- Entry into system mode at `%tvec` (R333). -/
def Thread.enter (t : Thread) (tvec : Addr) : Thread := { t with tstat := packStat t.ie false t.mode true, pc := tvec }

/-- `ERET`: MODE := PMODE, IE := PIE, PC := `%tepc` (R337). -/
def Thread.eret (t : Thread) : Thread := { t with tstat := packStat t.pie t.pie t.pmode t.pmode, pc := t.tepc }

/-- An event record put to a die's arbiter (R347, R348). -/
def State.postEvent (s : State) (e : Event) : State :=
  (s.updDie e.die fun d => { d with evq := d.evq ++ [e] }).post 1 (.eventAcceptance e.die)

/-- The origin core and slot of a thread: where it runs, but for a GUEST (R97). -/
def Thread.home (t : Thread) (k : Key) : Key := if t.st = .guest then t.origin else k

/-- An integrity failure (INTEGRITY, 0x18) of an access for a context puts its partition into ERROR (R361). -/
def State.hurt (s : State) (die cid : Nat) (code : Option Nat) : State :=
  match tget (s.die die).ctxs cid with
  | some x => if code = some 0x18 then s.post 0 (.tdiError x.part) else s
  | none => s

/-- The specifier that marks a deferred fault found while the thread's instruction waits for the access: that instruction takes it
(R214). -/
def faultMark : Nat := 256

/-- Deferred faults with no such mark: the wait is over, abandoned (R321), or ended by a trap, which takes one fault (R214). -/
def unmark (l : List (Nat × Nat × List Nat)) : List (Nat × Nat × List Nat) := l.map fun f => (f.1, f.2.1, f.2.2.filter (· != faultMark))

/-- `trap(cause, value)` of R333 on the thread k: the handler at `%tvec`, or the event and the kill of an unhandled trap; an
integrity failure puts the partition into ERROR (R361). The slot's next turn is 16 cycles on; trap entry is charged 4 eu. -/
def State.takeTrap (s : State) (k : Key) (cause : Nat) (val : Word) (epc : Addr) : State :=
  let t := s.thr k
  let cid := (s.core k.1).cid
  let tvec := ((s.core k.1).ctx cid).tvec
  let t1 := t.trapRegs cause val epc
  let t1 := { t1 with walked := [], dfault := unmark t1.dfault }
  let s := s.chargeRun k.1 4
  let s := s.hurt (dieOf k.1) cid (some cause)
  if t.unhandled tvec then
    let o := t.home k
    let s := s.setThr k { t1 with pend := some ⟨.stopped, s.now, 0, 0, none⟩ }
    s.postEvent {
      type := 2, die := dieOf k.1, cid := cid
      w1 := BitVec.ofNat 64 (idxOf o.1 * 16 + o.2)
      w2 := BitVec.ofNat 64 (cause * 2 ^ 48 + epc.toNat)
      w3 := val
      kill := some (if t.mode then 4 else 3) }
  else s.setThr k (t1.enter tvec)

/-! ### The word of an instruction -/

def wordOf (n : Nat) : Word := BitVec.ofNat 64 n

/-- Bits [63:0] of an instruction's word, the `%tval` of ILLEGAL_INSTRUCTION (R57, R96). -/
def wordVal (i : Instr) : Word := ((encode i).getD 0).extractLsb' 0 64

/-- OP of an instruction. -/
def opVal (i : Instr) : Word := ((encode i).getD 0).extractLsb' 0 8 |>.zeroExtend 64

end Sys2Proof.Machine
end

