-- ==== Sys2Proof/Machine/Operands.lean ====
section
/-! DEFINITION. Operand forms: source B and its extensions (R49, R60, R109), FP literals (R32, R127), vector elements (R154,
R156), memory operands (R29), special registers (R112) and system registers (R332). -/

namespace Sys2Proof.Machine

/-- `opB(S)`: the register, or the literal sign-extended. -/
def OpB.sx (t : Thread) : OpB → Word
  | .g r => t.rg r
  | .lit v => v.signExtend 64

/-- `opB(Z)`: the register, or the literal zero-extended. -/
def OpB.zx (t : Thread) : OpB → Word
  | .g r => t.rg r
  | .lit v => v.zeroExtend 64

/-- An FP32 literal widened exactly to FP64, NaNs bit for bit (R127). -/
def widenLit (v : BitVec 32) : BitVec 64 :=
  match Num.valOf .fp32 v.toNat with
  | (.num n m e, _) => BitVec.ofNat 64 (Num.roundTo .fp64 Num.Env.plain n m e).r
  | (.inf n, _) => BitVec.ofNat 64 (Num.infOf .fp64 n)
  | (.nan _, _) => v.extractLsb' 31 1 ++ (0x7FF#11 ++ (v.extractLsb' 0 23 ++ 0#29))

/-- `opB(F)`: the literal read as the instruction's type (R32, R60). -/
def OpB.fx (t : Thread) (ty : ETy) : OpB → Word
  | .g r => t.rg r
  | .lit v => if ty = .fp64 then widenLit v else v.zeroExtend 64

/-- The specifier a `%tval` reports for B: B[71:64], or 0 for a literal. -/
def OpB.spec : OpB → Nat
  | .g r => r.val
  | .lit _ => 0

/-- The low bits of a register that hold a value of a type (R109). -/
def lowBits (ty : ETy) (v : Word) : Nat := v.toNat % 2 ^ ty.bits

/-- A value placed in a g register (R109): INT32 sign-extended, the rest zero-extended. -/
def placeG (ty : ETy) (v : Nat) : Word :=
  if ty = .int32 then (BitVec.ofNat 32 v).signExtend 64 else BitVec.ofNat 64 (v % 2 ^ ty.bits)

/-- A loaded value placed in a g register: sign-extended under `.s`, else zero-extended (R211). -/
def placeLd (sx : Bool) (ty : ETy) (v : Nat) : Word :=
  if sx then BitVec.ofInt 64 (Num.sgn ty.bits v) else BitVec.ofNat 64 (v % 2 ^ ty.bits)

/-! ### Vector registers (R154) -/

/-- Elements of a vector register. -/
def elems (w : Nat) : Nat := 2048 / w

/-- Element j of a vector. -/
def velem (w : Nat) (v : VWord) (j : Nat) : Nat := (v.toNat >>> (w * j)) % 2 ^ w

/-- The lane of element j (R154). -/
def laneOf (w j : Nat) : Nat := j * w / 32

def laneOn (lanes : BitVec 64) (w j : Nat) : Bool := lanes.getLsbD (laneOf w j)

/-- A vector from its elements, lowest first. -/
def vpack (w : Nat) : List Nat → Nat
  | [] => 0
  | x :: xs => x % 2 ^ w + 2 ^ w * vpack w xs

/-- A vector whose written elements are replaced: `none` keeps the old element. -/
def vmerge (w : Nat) (old : VWord) (xs : List (Option Nat)) : VWord :=
  BitVec.ofNat 2048 (vpack w ((xs ++ List.replicate (2048 / w - xs.length) none).mapIdx fun j (x : Option Nat) => x.getD (velem w old j)))

/-- Element e of source B of a vector instruction (R156): a g register or a literal goes to every element. -/
def OpV.elem (t : Thread) (w : Nat) (b : OpV) (vb : VWord) (e : Nat) : Nat :=
  match b with
  | .v _ => velem w vb e
  | .g r => (t.rg r).toNat % 2 ^ w
  | .lit x => x.toNat % 2 ^ w

/-! ### Memory operands -/

/-- `read(A) + opB(S)`, 64 bits (R29, R211). -/
def memAddr (t : Thread) (a : GReg) (b : OpB) : Word := t.rg a + OpB.sx t b

/-- The low 48 bits, an address in the global space. -/
def vaOf (a : Word) : Nat := a.toNat % 2 ^ 48

/-! ### Special registers (R112) -/

/-- The node triple of a thread: cluster, graph, node. -/
def Thread.isNode (t : Thread) : Bool := t.node.isSome

def maskNat (bs : List Bool) : Nat := bs.foldr (fun b n => b.toNat + 2 * n) 0

def Core.tagsMask (c : Core) : Word := BitVec.ofNat 64 (maskNat (c.tags.toList.map (·.done)))
def Core.tagerrMask (c : Core) : Word := BitVec.ofNat 64 (maskNat (c.tags.toList.map (·.err)))

/-- `%monstat`: the armed entries (R112, R282). -/
def Thread.monstat (t : Thread) : Word :=
  BitVec.ofNat 64 (maskNat (t.mon.toList.map fun m => match m with
    | some e => e.armed
    | none => false))

/-- Bytes of a buffer that the context's regions grant (R182, R186). -/
def bufSize (x : CCtx) (buf : Nat) : Nat :=
  ((x.regions.filter (·.buf == buf)).map (·.banks)).sum * (if buf = 0 then 2048 else 1024)

/-- The grid cluster number of a core of a context: its place in the grid list (R10). -/
def State.gridNo (s : State) (core cid : Nat) : Nat :=
  ((s.ctx (dieOf core) cid).grid.findIdx? (· == clusterOf core)).getD 0

/-- The value of a special register for the thread k (R112, R113). -/
def State.sreg (s : State) (k : Key) (r : SReg) : Word :=
  let c := s.core k.1
  let t := s.thr k
  let cid := c.cid
  let x := c.ctx cid
  let cx := s.ctx (dieOf k.1) cid
  let n (v : Nat) : Word := BitVec.ofNat 64 v
  match r with
  | .tid => n (t.home k).2
  | .core => n (coreNo k.1)
  | .cx => n (cxOf k.1)
  | .cy => n (cyOf k.1)
  | .die => n (dieOf k.1)
  | .cluster => n (s.gridNo k.1 cid)
  | .stage => n (cx.stages.getD (s.gridNo k.1 cid) 0)
  | .lanes => 64
  | .mtile => 0x00204020
  | .cid => n (cid % 65536)
  | .tags => c.tagsMask
  | .tagerr => c.tagerrMask
  | .fmode => t.fmode.zeroExtend 64
  | .fflags => t.fflags.zeroExtend 64
  | .energy => (x.settle s.now).energy.zeroExtend 64
  | .cycles => n (s.cyc (dieOf k.1))
  | .forfeit => t.forfeit
  | .wlocc => n c.wl.length
  | .instant => match t.node with
    | some (cl, g, _) => n (((tget (s.cluster cl).graphs g).map (·.instant)).getD 0)
    | none => 0
  | .node => match t.node with
    | some (_, _, nd) => n nd
    | none => ones64
  | .args => n (cx.args % 2 ^ 48)
  | .scb => n cx.scb
  | .light => n t.light.toNat
  | .wsize => n (bufSize x 0)
  | .asize => n (bufSize x 1)
  | .csize => n (bufSize x 2)
  | .monstat => t.monstat
  | .graph => match t.node with
    | some (_, g, _) => n g
    | none => ones64

/-! ### System registers (R332) -/

/-- `%bcfgN` (R286). -/
def Bar.word (b : Bar) : Word :=
  b.mask ++ (b.cset ++ (0#29 ++ (BitVec.ofBool b.phase ++ b.scope)))

/-- The value of a system register; none for a number not in the table. -/
def State.sysreg (s : State) (k : Key) (num : Nat) : Option Word :=
  let c := s.core k.1
  let t := s.thr k
  let x := c.ctx c.cid
  match num with
  | 0x0000 => some (x.tvec.zeroExtend 64)
  | 0x0001 => some (t.tcause.zeroExtend 64)
  | 0x0002 => some t.tval
  | 0x0003 => some (t.tepc.zeroExtend 64)
  | 0x0004 => some (BitVec.zeroExtend 64 (BitVec.ofBool (x.settle s.now).esat ++ (0#4 ++ t.tstat)))
  | 0x0005 => some t.tint
  | 0x0010 => some (x.savebase.zeroExtend 64)
  | 0x0011 => some (BitVec.ofNat 64 x.savelen)
  | 0x0012 => some (BitVec.ofNat 64 (s.ctx (dieOf k.1) c.cid).mapspill)
  | 0x0030 => some (s.cluster (clusterOf k.1)).tileq
  | _ => if 0x20 ≤ num ∧ num ≤ 0x27 then some (vget c.bar (num - 0x20) ⟨0, 0, false, 0, false, none⟩).word else none

end Sys2Proof.Machine
end

