-- ==== Sys2Proof/Machine/Flags.lean ====
section
/-! DEFINITION. Flags and comparisons: `raise` (R60, R79), the integer relations (R121, R162), the modes an FP instruction
runs under (R73, R80), and flag sets over lanes (R79). -/

namespace Sys2Proof.Machine

/-- Whether a flag set meets an enabled trap (R79). -/
def Thread.fpTraps (t : Thread) (f : BitVec 5) : Bool := (f &&& t.enables) != 0

/-- `mode(x)` (R60, R73). -/
def Thread.rndOf (t : Thread) (r : Rnd) : Nat := if r = .dyn then t.rm else r.code

/-- Rounding, DAZ, FTZ and SAT of an FP instruction (R127, R156). -/
def Thread.env (t : Thread) (x : FpX) : Num.Env := ⟨t.rndOf x.rnd, t.daz, t.ftz, x.sat⟩

/-- Rounding of a clause evaluation (R141). -/
def Thread.envCl (t : Thread) : Num.Env := ⟨t.rm, t.daz, t.ftz, false⟩

/-- `CMP`'s relation on w-bit operands (R121). -/
def intCond (w : Nat) (c : Cond) (a b : Nat) : Bool :=
  let x := Num.sgn w a
  let y := Num.sgn w b
  let u := a % 2 ^ w
  let v := b % 2 ^ w
  match c with
  | .eq => u == v
  | .ne => u != v
  | .lt => decide (x < y)
  | .ge => decide (x ≥ y)
  | .ltu => decide (u < v)
  | .geu => decide (u ≥ v)
  | .le => decide (x ≤ y)
  | .gt => decide (x > y)

/-- `VCMP`'s relation on integer elements (R162). -/
def intFCond (w : Nat) (c : FCond) (a b : Nat) : Bool :=
  match c with
  | .eq => intCond w .eq a b
  | .ne => intCond w .ne a b
  | .lt => intCond w .lt a b
  | .le => intCond w .le a b
  | .gt => intCond w .gt a b
  | .ge => intCond w .ge a b
  | .c6 => intCond w .ltu a b
  | .c7 => intCond w .geu a b

/-- The union of the flags of several results (R79). -/
def unionF (rs : List Num.Res) : BitVec 5 := rs.foldl (fun f r => f ||| r.f) 0

/-- Whether any result met a subnormal (R81, R155). -/
def anySub (rs : List Num.Res) : Bool := rs.any (·.sub)

/-- A result without flags. -/
def plainRes (n : Nat) : Num.Res := ⟨n, 0, false⟩

end Sys2Proof.Machine
end

