-- ==== Sys2Proof/Machine/Clauses.lean ====
section
/-! DEFINITION. Clauses (R138 to R149): ops, forms and costs, the triggered set, its evaluation in topological order, and
the checks of `BIND`. The clause instructions are in Machine/ClauseIsa. -/

namespace Sys2Proof

open Machine

/-- The FP type of a clause op (R141). -/
def ClOp.fp : ClOp → Option ETy
  | .fadds | .fsubs | .fmuls | .fdivs | .fmins | .fmaxs => some .fp32
  | .faddd | .fsubd | .fmuld | .fdivd => some .fp64
  | _ => none

/-- The cost of an op in cycles (R141). -/
def ClOp.cost : ClOp → Nat
  | .div | .divu | .rem => 12
  | .fadds | .fsubs | .fmuls | .fmins | .fmaxs | .faddd | .fsubd | .fmuld => 2
  | .fdivs => 8
  | .fdivd => 14
  | _ => 1

/-- How an op widens a literal it reads (R141). R141 gives no widening for `pass`: the literal is sign-extended
(notes/assumptions/90, DESIGN CHOICE). -/
def ClOp.lit (o : ClOp) (v : BitVec 32) : Word :=
  match o with
  | .divu | .and | .or | .xor | .shl | .shr | .sra | .minu | .maxu | .cmpltu => v.zeroExtend 64
  | .faddd | .fsubd | .fmuld | .fdivd => widenLit v
  | .fadds | .fsubs | .fmuls | .fdivs | .fmins | .fmaxs => v.zeroExtend 64
  | _ => v.signExtend 64

/-- An op's value, its flags, and whether its divisor was 0 (R141). -/
def ClOp.eval (env : Num.Env) (o : ClOp) (x y : Word) : Word × BitVec 5 × Bool :=
  let a := x.toNat
  let b := y.toNat
  let sa := Num.sgn 64 a
  let sb := Num.sgn 64 b
  let n (v : Nat) : Word × BitVec 5 × Bool := (BitVec.ofNat 64 v, 0, false)
  let r (v : Num.Res) : Word × BitVec 5 × Bool := (BitVec.ofNat 64 v.r, v.f, false)
  let s32 (f : Num.Env → Nat → Nat → Num.Res) := r (f env (a % 2 ^ 32) (b % 2 ^ 32))
  match o with
  | .pass | .selnz => (x, 0, false)
  | .add => (x + y, 0, false)
  | .sub => (x - y, 0, false)
  | .mul => (x * y, 0, false)
  | .div => if b = 0 then (0, 0, true) else (BitVec.ofInt 64 (sa.tdiv sb), 0, false)
  | .divu => if b = 0 then (0, 0, true) else n (a / b)
  | .rem => if b = 0 then (0, 0, true) else (BitVec.ofInt 64 (sa.tmod sb), 0, false)
  | .and => (x &&& y, 0, false)
  | .or => (x ||| y, 0, false)
  | .xor => (x ^^^ y, 0, false)
  | .shl => (x <<< (b % 64), 0, false)
  | .shr => (x >>> (b % 64), 0, false)
  | .sra => (x.sshiftRight (b % 64), 0, false)
  | .min => (if sa ≤ sb then x else y, 0, false)
  | .max => (if sa ≥ sb then x else y, 0, false)
  | .minu => (if a ≤ b then x else y, 0, false)
  | .maxu => (if a ≥ b then x else y, 0, false)
  | .fadds => s32 (Num.fadd .fp32)
  | .fsubs => s32 (Num.fsub .fp32)
  | .fmuls => s32 (Num.fmul .fp32)
  | .fdivs => s32 (Num.fdiv .fp32)
  | .fmins => s32 (fun e => Num.fminmax .fp32 e false)
  | .fmaxs => s32 (fun e => Num.fminmax .fp32 e true)
  | .faddd => r (Num.fadd .fp64 env a b)
  | .fsubd => r (Num.fsub .fp64 env a b)
  | .fmuld => r (Num.fmul .fp64 env a b)
  | .fdivd => r (Num.fdiv .fp64 env a b)
  | .cmplt => n (decide (sa < sb)).toNat
  | .cmpltu => n (decide (a < b)).toNat
  | .cmpeq => n (x == y).toNat

end Sys2Proof

namespace Sys2Proof.Machine

/-- The next register, B + 1 of form 3. -/
def nextG (r : GReg) : GReg := ⟨(r.val + 1) % 32, Nat.mod_lt _ (by decide)⟩

/-- A clause's cost (R142). -/
def Clause.cost (c : Clause) : Nat :=
  match c.form with
  | 1 | 2 => c.op1.cost + c.op2.cost
  | 3 => c.op1.cost + (if c.op1.fp.isSome then 2 else 1)
  | _ => c.op1.cost

/-- The g registers a clause reads: A, B, C where its form reads c, and B + 1 in form 3 (R138, R142). g0 is none. -/
def Clause.srcs (c : Clause) : List GReg :=
  let b := match c.b with
    | .g r => if c.form = 3 then [r, nextG r] else [r]
    | .lit _ => []
  let cc := if c.form = 0 ∧ c.op1 ≠ .selnz then [] else [c.c]
  (c.a :: b ++ cc).filter (· != 0)

/-- What an evaluation gives: a value with its flags, or a fault: 0x0B or 0x0C, and the flags (R148). -/
inductive ClRes
  | ok (v : Word) (f : BitVec 5)
  | fault (cause : Nat) (f : BitVec 5)
  deriving DecidableEq, Repr

/-- One op within an evaluation, its faults noted. -/
def clRun (t : Thread) (o : ClOp) (x y : Word) (f : BitVec 5) : ClRes :=
  let (v, g, dz) := o.eval t.envCl x y
  if dz then .fault 0x0B 0 else if t.fpTraps g then .fault 0x0C g else .ok v (f ||| g)

def ClRes.bind (r : ClRes) (k : Word → BitVec 5 → ClRes) : ClRes :=
  match r with
  | .ok v f => k v f
  | .fault c f => .fault c f

/-- The clamp of form 3: maximum then minimum, signed or in the FP type of op1 (R142). -/
def clClamps (o : ClOp) : ClOp × ClOp := match o.fp with
  | some _ => (.fmaxs, .fmins)
  | none => (.max, .min)

/-- A clamp step of form 3 in FP64 (maximumNumber, minimumNumber). -/
def clampD (t : Thread) (mx : Bool) (x y : Word) (f : BitVec 5) : ClRes :=
  let r := Num.fminmax .fp64 t.envCl mx x.toNat y.toNat
  if t.fpTraps r.f then .fault 0x0C r.f else .ok (BitVec.ofNat 64 r.r) (f ||| r.f)

/-- A clause's value from the registers as they stand (R142). -/
def Clause.value (t : Thread) (c : Clause) : ClRes :=
  let a := t.rg c.a
  let cv := t.rg c.c
  let b (o : ClOp) : Word := match c.b with
    | .g r => t.rg r
    | .lit v => o.lit v
  match c.form with
  | 1 => (clRun t c.op1 a (b c.op1) 0).bind fun v f => clRun t c.op2 v cv f
  | 2 => (clRun t c.op2 (b c.op2) cv 0).bind fun v f => clRun t c.op1 a v f
  | 3 =>
    let hi := match c.b with
      | .g r => t.rg (nextG r)
      | .lit _ => 0
    (clRun t c.op1 a (b c.op1) 0).bind fun v f =>
      if c.op1.fp = some .fp64 then (clampD t true v cv f).bind fun v f => clampD t false v hi f
      else (clRun t (clClamps c.op1).1 v cv f).bind fun v f => clRun t (clClamps c.op1).2 v hi f
  | _ => if c.op1 = .selnz then .ok (if a ≠ 0 then b .selnz else cv) 0 else clRun t c.op1 a (b c.op1) 0

/-! ### The slots -/

def Thread.clause (t : Thread) (i : Nat) : Option Clause := vget t.cl i none
def Thread.setClause (t : Thread) (i : Nat) (c : Option Clause) : Thread := { t with cl := vset t.cl i c }

/-- Whether a register is bound (R139). -/
def Thread.bound (t : Thread) (r : GReg) : Bool :=
  (List.range 8).any fun i => match t.clause i with
    | some c => c.dst == r
    | none => false

/-- The first bound register of a list; g0 is never written (R48). -/
def Thread.firstBound (t : Thread) (rs : List GReg) : Option GReg := rs.find? fun r => r != 0 && t.bound r

/-- Slots whose clause reads one of the registers. -/
def Thread.readers (t : Thread) (rs : List GReg) : List Nat :=
  (List.range 8).filter fun i => match t.clause i with
    | some c => c.srcs.any (rs.contains ·)
    | none => false

/-- Destinations of a set of slots. -/
def Thread.dsts (t : Thread) (is : List Nat) : List GReg := is.filterMap fun i => (t.clause i).map (·.dst)

/-- The set closed under reading destinations (R144); eight rounds reach every slot. -/
def Thread.closure (t : Thread) : Nat → List Nat → List Nat
  | 0, is => is
  | n + 1, is => t.closure n ((List.range 8).filter fun i => is.contains i || (t.readers (t.dsts is)).contains i)

/-- The triggered set of a list of written registers (R144). -/
def Thread.triggered (t : Thread) (ws : List GReg) : List Nat := t.closure 8 (t.readers (ws.filter (· != 0)))

/-- Mark every clause of a set DIRTY (R149). -/
def Thread.markDirty (t : Thread) (is : List Nat) : Thread :=
  is.foldl (fun t i => t.setClause i ((t.clause i).map fun c => { c with dirty := true })) t

/-- The outcome of evaluating a set: cost, evaluations, and the first fault: slot, cause, flags (R147, R148). -/
structure ClOut where
  cost  : Nat
  evals : Nat
  flags : BitVec 5
  fault : Option (Nat × Nat × BitVec 5)
  deriving DecidableEq, Repr

/-- Evaluate the remaining slots in topological order, lower slot first (R145, R146). A clause that faults is STALE and stays DIRTY
(R148; notes/assumptions/107, DEDUCED). -/
def evalGo : Nat → List Nat → List Nat → Thread → ClOut → Thread × ClOut
  | 0, _, _, t, o => (t, o)
  | n + 1, rest, skipped, t, o =>
    let reads (i : Nat) (rs : List GReg) : Bool := match t.clause i with
      | some c => c.srcs.any (rs.contains ·)
      | none => false
    match rest.find? fun i => !reads i (t.dsts (rest.filter (· != i))) with
    | none => (t, o)
    | some i =>
      let rest' := rest.filter (· != i)
      match t.clause i with
      | none => evalGo n rest' skipped t o
      | some c =>
        let bad := (List.range 8).filter fun j => skipped.contains j || (match t.clause j with
          | some d => d.stale
          | none => false)
        if reads i (t.dsts (bad.filter (· != i))) then
          evalGo n rest' (i :: skipped) (t.setClause i (some { c with dirty := true })) o
        else
          let o := { o with cost := o.cost + c.cost, evals := o.evals + 1 }
          match c.value t with
          | .ok v f =>
            let t := (t.setG c.dst v).setClause i (some { c with stale := false, dirty := false })
            evalGo n rest' skipped t { o with flags := o.flags ||| f }
          | .fault cause f =>
            let t := t.setClause i (some { c with stale := true, dirty := true })
            evalGo n rest' skipped t
              { o with fault := o.fault.orElse fun _ => some (i, cause, if cause = 0x0B then 0 else f) }

/-- Evaluate a set of slots once, then OR the flags of the successful evaluations into `%fflags` (R115, R145, R148). -/
def Thread.evaluate (t : Thread) (is : List Nat) : Thread × ClOut :=
  let (t, o) := evalGo 8 is [] t ⟨0, 0, 0, none⟩
  ({ t with fflags := t.fflags ||| o.flags }, o)

/-- The clause unit's part of a step for a set of slots: evaluation, or DIRTY marks while HOLD is set or in system mode
(R149). -/
def Thread.clauseSet (t : Thread) (is : List Nat) : Thread × ClOut :=
  if is.isEmpty then (t, ⟨0, 0, 0, none⟩)
  else if t.hold || t.mode then (t.markDirty is, ⟨0, 0, 0, none⟩)
  else (t.markDirty is).evaluate is

/-- The `%tval` of CLAUSE_FAULT (R148). -/
def clFaultVal (f : Nat × Nat × BitVec 5) : Word :=
  BitVec.ofNat 64 (f.2.2.toNat * 2 ^ 16 + f.1 * 256 + f.2.1)

/-- Registers reachable from d along the clauses of the slots other than n (R143). -/
def Thread.reach (t : Thread) (n : Nat) : Nat → List GReg → List GReg
  | 0, rs => rs
  | k + 1, rs => t.reach n k (rs ++ (t.dsts ((t.readers rs).filter (· != n))).filter (!rs.contains ·))

/-- The `CLST` word of slot i (R152). -/
def Thread.clst (t : Thread) (i : Nat) : Word :=
  match t.clause i with
  | none => BitVec.ofNat 64 (8 * t.hold.toNat)
  | some c =>
    let b := match c.b with
      | .g r => r.val
      | .lit _ => 0
    let lit := match c.b with
      | .g _ => 0
      | .lit _ => 1
    BitVec.ofNat 64 (c.a.val * 2 ^ 56 + b * 2 ^ 48 + c.c.val * 2 ^ 40 + c.dst.val * 2 ^ 32 + c.op1.code * 2 ^ 27 +
      c.op2.code * 2 ^ 22 + c.form.val * 2 ^ 20 + lit * 2 ^ 19 + c.cost * 2 ^ 14 + 8 * t.hold.toNat +
      4 * c.dirty.toNat + 2 * c.stale.toNat + 1)

end Sys2Proof.Machine
end

