-- ==== Sys2Proof/Machine/Waits.lean ====
section
/-! DEFINITION. Conditions that a thread waits for before an instruction (R214 to R216, R174), and the registers that an
instruction names (R47), for the waits on relaxed loads (R214). -/

namespace Sys2Proof.Machine

/-- The registers a relaxed load writes, as specifiers; g0 is none. -/
def specsOf : MemK → List Nat
  | .ld _ _ ds _ => (ds.map (·.val)).filter (· != 0)
  | .vld d _ _ => [32 + d.val]
  | _ => []

/-- Elements of a stream and of one beat (R168, R154). -/
def Stream.count (x : Stream) (i : Nat) : Nat := (x.desc.extractLsb' (64 + 16 * i) 16).toNat
def Stream.stride (x : Stream) (i : Nat) : Int := (x.desc.extractLsb' (128 + 32 * i) 32).toInt
def Stream.base (x : Stream) : Nat := (x.desc.extractLsb' 0 48).toNat
def Stream.total (x : Stream) : Nat := (List.range x.ndim).foldl (fun n i => n * x.count i) 1
def Stream.beat (x : Stream) : Nat := elems x.ety.bits

/-- Whether n elements of a stream may be popped or pushed (R174): they have arrived, or a fault among them is held; they fit into
the four beats of the buffer. -/
def Stream.ready (x : Stream) (out : Bool) (n : Nat) : Bool :=
  if out then (x.st != .armed) || decide (x.held.length + n ≤ 4 * x.beat)
  else (x.st != .armed) || decide (n ≤ x.held.length) || (x.held.take n).any (·.fault.isSome)

/-- Whether the named streams are ready. -/
def Thread.beatsOk (t : Thread) (l : List (Fin 8 × Bool × Nat)) : Bool :=
  l.all fun e => match vget t.str e.1.val none with
    | some x => x.ready e.2.1 e.2.2
    | none => true

def Thread.allStreams (t : Thread) (f : Stream → Bool) : Bool := t.str.toList.all fun x => match x with
  | some x => f x
  | none => true

/-- Elements pushed to an ARMED output stream and not yet written (R174). -/
def Stream.undrained (x : Stream) : Bool := x.out && (x.st == .armed) && (!x.held.isEmpty || x.busy)

/-- Elements pushed and not yet written, those that a FAULTED stream keeps among them (R178, R179). -/
def Stream.unwritten (x : Stream) : Bool := x.undrained || (x.out && (x.st == .faulted) && !x.held.isEmpty)

def Thread.drained (t : Thread) : Bool := t.allStreams (!·.unwritten)

/-- Codes of the conditions that `retry` waits for: 1 no relaxed access outstanding, 2 fewer than 8, 4 and 8 no posted store
to peers, to the host, 16 every pushed element written, 32 every ARMED output stream drained; from bit 8 on, the registers that a
relaxed load has yet to write; from bit 64 on, the ARMED output stream of that number drained. -/
def Thread.retryOk (t : Thread) (code : Nat) : Bool :=
  (!code.testBit 0 || t.rlx.isEmpty) && (!code.testBit 1 || decide (t.rlx.length < 8)) &&
  (!code.testBit 2 || t.postD.isEmpty) && (!code.testBit 3 || t.postH.isEmpty) && (!code.testBit 4 || t.drained) &&
  (!code.testBit 5 || t.allStreams (!·.undrained)) &&
  ((List.range 8).all fun i => !code.testBit (64 + i) || !(vget t.str i none).any (·.undrained)) &&
  t.rlx.all fun x => (specsOf x.kind).all fun n => !code.testBit (8 + n)

/-! ### Registers of an instruction -/

/-- Whether a position takes a g or v register. -/
def Pos.isReg : Pos → Bool
  | .g | .geven | .gclause | .v | .vhi | .gp | .gl | .glnot31 | .vgl | .gpl => true
  | _ => false

/-- The g or v specifier in a position, if it names one; g0 is none. -/
def specIn (k : Pos) (lit : Bool) (s : BitVec 8) : List Nat :=
  if Pos.isReg k && !lit && s != 0#8 && decide (s.toNat < 48) then [s.toNat] else []

/-- The registers that an instruction reads and those it writes, as specifiers of g and v (R47): its fields, the pairs, the
link, and those named by its meaning. -/
def regsOf (i : Instr) : List Nat × List Nat :=
  match i.toFields with
  | none => ([], [])
  | some f =>
    match row f with
    | none => ([], [])
    | some (sh, _) =>
      let d := specIn sh.d false f.d
      let a := specIn sh.a false f.a
      let b := specIn sh.b f.isLit f.bSpec
      let c := specIn sh.c false f.c
      let up (l : List Nat) : List Nat := l.map (· + 1)
      match i with
      | .ldp _ _ _ dd _ _ => (a ++ b, d ++ [dd.val + 1])
      | .stp _ _ _ _ cc => (a ++ b ++ c ++ [cc.val + 1], [])
      | .cas2 _ _ dd _ _ cc => (d ++ a ++ b ++ c ++ [dd.val + 1, cc.val + 1], d ++ [dd.val + 1])
      | .cas .. | .movh .. => (d ++ a ++ b ++ c, d)
      | .vcopyb .. => (d ++ a ++ c, d ++ a ++ c)
      | .take _ _ aa => ([], a ++ [aa.val + 1])
      | .fetchtile .. => ([], a)
      | .call .. => ([], [31])
      | .callx .. => (a, [31])
      | .hcall .. => (b ++ [1, 2, 3, 4, 5, 6], [1, 2])
      | .bind .. => (a ++ b ++ up b ++ c, d)
      | .nzscan .. => (a ++ b, d ++ c)
      | _ => (a ++ b ++ c, d)

/-- The code that waits for the relaxed loads whose destination an instruction reads or writes (R214). -/
def hazardCode (i : Instr) : Nat :=
  (dedupN ((regsOf i).1 ++ (regsOf i).2)).foldl (fun n x => n + 2 ^ (8 + x)) 0
where
  dedupN (l : List Nat) : List Nat := l.foldl (fun acc x => if acc.contains x then acc else acc ++ [x]) []

/-- Whether the instruction in its wait waits for a relaxed access that writes these registers (R214): for all of them, for one of
eight, or for a register of the list. -/
def Thread.waitsFor (t : Thread) (specs : List Nat) : Bool :=
  match t.pend with
  | some ⟨.retry code, _, _, _, _⟩ => code.testBit 0 || code.testBit 1 || specs.any fun n => code.testBit (8 + n)
  | _ => false

/-- A deferred fault that the instruction takes: it reads the destination, or it has waited for the access (R214). -/
def faultRead (i : Instr) (t : Thread) : Option (Nat × Nat × List Nat) :=
  t.dfault.find? fun f => f.2.2.any fun n => n == faultMark || (regsOf i).1.contains n

end Sys2Proof.Machine
end

