-- ==== Sys2Proof/Machine/Exec.lean ====
section
/-! DEFINITION. One step of a thread (R59): the checks before the guard (R57), the guard (R50, R51), what an instruction
does, the commit of its writes, the clause unit, charges, the next turn (R19, R89 to R92), and interrupts (R335). -/

namespace Sys2Proof.Machine

/-- The staged writes of an instruction (R60): registers, flags, a control transfer, the latency of its access, turns
forfeited for a subnormal (R91), a charge beyond its class, and the slots to evaluate where they are not those that the writes
trigger (`BIND`, `CLREL`, `ERET`: R143, R149, R150). -/
structure Commit where
  g     : List (GReg × Word) := []
  p     : List (PReg × Word) := []
  v     : List (VReg × VWord) := []
  flags : BitVec 5 := 0
  pc    : Option Addr := none
  lat   : Nat := 0
  forf  : Nat := 0
  extra : Nat := 0
  slots : Option (List Nat) := none
  deriving DecidableEq, Repr

/-- What `execute` comes to: writes to commit in a state with the other effects, a trap with nothing done, a trap in a state of its own (a deferred fault, R214), a wait with its
timeout (0 for none), or a whole next state. -/
inductive Act
  | done (c : Commit) (s : State)
  | trap (cause : Cause) (val : Word)
  | trapIn (cause : Cause) (val : Word) (s : State)
  | wait (k : PendK) (timeout : Nat) (s : State)
  | raw (s : State)

/-- What a meaning is given: the thread, its registers, a number for its requests, and the instruction. -/
structure Run where
  k : Key
  t : Thread
  n : Nat
  i : Instr

/-- The next free number lies past n. -/
def State.past (s : State) (n : Nat) : State := { s with serial := Nat.max s.serial (n + 1) }

def pcNext (pc : Addr) : Addr := pc + 12

/-- Leave a wait: READY again, GUEST and NODE as they were (R94). -/
def Thread.awake (t : Thread) : Thread :=
  { t with st := if t.st = .waiting then .ready else t.st, pend := none, walked := [], seen := none }

/-- After a debug step the core halts in the next cycle (R358). -/
def State.stepEnd (s : State) (k : Key) : State :=
  if (s.core k.1).dstep = some k.2 then s.post 1 (.debugStepEnd k.1 k.2) else s

/-- A pending interrupt is taken at the end of a step with IE = 1 in task mode (R335). -/
def State.intEnd (s : State) (k : Key) : State :=
  let t := s.thr k
  if t.intPending && t.ie && !t.mode then
    (s.setThr k { t with tint := t.tint &&& ~~~(1#64 <<< 63) }).takeTrap k Cause.interrupt.code (t.intWord.zeroExtend 64) t.pc
  else s

/-- A trap of an instruction: charged by its class, nothing committed (R58, R60); the next turn is the slot's next. -/
def State.trapStep (s : State) (k : Key) (eu : Nat) (cause : Cause) (val : Word) : State :=
  let t := s.thr k
  let s := s.chargeRun k.1 eu
  let s := s.setThr k { t.awake with next := alignUp (s.cyc (dieOf k.1) + 1) k.2 }
  (s.takeTrap k cause.code val t.pc).stepEnd k

def Commit.apply (c : Commit) (t : Thread) : Thread :=
  let t := c.g.foldl (fun t w => t.setG w.1 w.2) t
  let t := c.p.foldl (fun t w => t.setP w.1 w.2) t
  let t := c.v.foldl (fun t w => t.setV w.1 w.2) t
  { t with fflags := t.fflags ||| c.flags }

/-- The next turn after a commit (R19, R90, R92): C0 without evaluations, then past E + cost; the turns between are forfeits,
and those of a subnormal add to them (R91). -/
def nextTurn (slot t0 : Nat) (w : Option Nat) (lat cost forf : Nat) : Nat × Nat :=
  let e := w.getD (t0 + Nat.max lat 1)
  let c0 := match w with
    | some x => alignUp (x + 1) slot
    | none => alignUp (t0 + Nat.max lat 1) slot
  let c := if e + cost ≤ c0 then c0 else alignUp (e + cost) slot
  (c + 16 * forf, (c - c0) / 16 + forf)

/-- Commit of an instruction issued in cycle t0, whose wait, if of the second kind of R90, ended in cycle w: flags raised
(R79), BOUND_WRITE (R139), the writes, PC, the clauses, the next turn, CLAUSE_FAULT, then an interrupt. -/
def State.commit (s : State) (k : Key) (t0 : Nat) (w : Option Nat) (eu : Nat) (c : Commit) (s' : State) : State :=
  let t := s'.thr k
  if t.fpTraps c.flags then s.trapStep k eu .fpException (c.flags.zeroExtend 64)
  else match t.firstBound (c.g.map (·.1)) with
  | some r => s.trapStep k eu .boundWrite (BitVec.ofNat 64 r.val)
  | none =>
    let t := { (c.apply t).awake with pc := c.pc.getD (pcNext t.pc) }
    let (t, o) := t.clauseSet (c.slots.getD (t.triggered (c.g.map (·.1))))
    let (nx, ff) := nextTurn k.2 t0 w c.lat o.cost c.forf
    let t := { t with next := nx, forfeit := t.forfeit + BitVec.ofNat 64 ff }
    let e := w.getD (t0 + Nat.max c.lat 1)
    let s := (s'.setThr k t).chargeIn k.1 (e - s'.cyc (dieOf k.1)) (eu + c.extra + 6 * o.evals)
    match o.fault with
    | some f => (s.takeTrap k Cause.clauseFault.code (clFaultVal f) t.pc).stepEnd k
    | none => (s.intEnd k).stepEnd k

/-- Put the thread into a wait (R90). -/
def State.hold (s : State) (k : Key) (t0 eu n timeout : Nat) (kind : PendK) : State :=
  let due := if timeout = 0 then none else some (s.now + timeout - (s.cyc (dieOf k.1) - t0))
  let s := s.updThr k fun t =>
    { t with st := if t.st = .ready then .waiting else t.st, pend := some ⟨kind, t0, eu, n, due⟩ }
  match due with
  | some d => { s with agenda := agendaAdd s.agenda d (.waitTimeout k.1 k.2 n) }
  | none => s

/-- Bring about what an instruction came to, in the state s before it. -/
def State.settle (s : State) (k : Key) (t0 : Nat) (w : Option Nat) (eu n : Nat) (a : Act) : State :=
  match a with
  | .done c s' => s.commit k t0 w eu c s'
  | .trap cause val => s.trapStep k eu cause val
  | .trapIn cause val s' => s'.trapStep k eu cause val
  | .wait kind timeout s' => (s'.past n).hold k t0 eu n timeout kind
  | .raw s' => s'

/-- End a thread's wait with what its instruction comes to; `other` for the second kind of wait of R90. -/
def State.resume (s : State) (k : Key) (other : Bool) (a : Act) : State :=
  match (s.thr k).pend with
  | some p => s.settle k p.t0 (if other then some (s.cyc (dieOf k.1)) else none) p.eu p.serial a
  | none => s

/-- End a wait after which the instruction is executed again: in the first turn after this cycle. -/
def State.again (s : State) (k : Key) : State :=
  s.updThr k fun t =>
    { t with st := if t.st = .waiting then .ready else t.st, pend := none, seen := none, next := alignUp (s.cyc (dieOf k.1) + 1) k.2 }

/-- A guarded-off instruction: PC + 12 and 1 eu (R51). -/
def State.guardedOff (s : State) (k : Key) : State :=
  let s := s.chargeIn k.1 1 1
  ((s.updThr k fun t => { t with pc := pcNext t.pc, next := alignUp (s.cyc (dieOf k.1) + 1) k.2, walked := [], seen := none }).intEnd k).stepEnd k

/-- Whether a key names a thread that holds a slot of a running context. -/
def State.resident (s : State) (k : Key) : Bool :=
  (s.core k.1).run.isSome && decide (k.2 < 16) &&
    (match (s.thr k).st with
     | .free | .exited | .away => false
     | _ => true)

/-- What R214 asks of an instruction that names the destination of an outstanding relaxed load: a wait, or the load's
deferred fault. -/
def hazard (i : Instr) (k : Key) (s : State) : Option Act :=
  let t := s.thr k
  if t.rlx.isEmpty && t.dfault.isEmpty then none
  else if !t.retryOk (hazardCode i) then some (.wait (.retry (hazardCode i)) 0 s)
  else (faultRead i t).map fun f =>
    .trapIn (causeOf f.1) (BitVec.ofNat 64 f.2.1) (s.updThr k fun t => { t with dfault := t.dfault.filter (· != f) })

/-- Issue of one instruction on the current thread: the checks before the guard (R57 steps 3 and 4, charged as a scalar
integer instruction), the guard, the wait for relaxed loads (R214), then the body. -/
def issueWith (on : Thread → Bool) (pre : Thread → Option (Cause × Word)) (i : Instr) (eu : Nat)
    (body : Run → State → Act) (s : State) : Host.Outcome State Fault Refusal :=
  if s.resident s.cur then
    let t := s.thr s.cur
    .next (match pre t with
      | some (c, v) => s.trapStep s.cur 4 c v
      | none =>
        if on t then
          s.settle s.cur (s.cyc (dieOf s.cur.1)) none eu s.serial
            ((hazard i s.cur s).getD (body ⟨s.cur, t, s.serial, i⟩ s))
        else s.guardedOff s.cur)
  else .fault .noThread

/-- An instruction that is not lane-wise (R50). -/
def issue (i : Instr) (gd : Guard) (eu : Nat) (body : Run → State → Act) (s : State) : Host.Outcome State Fault Refusal :=
  issueWith (·.guardOn gd) (fun _ => none) i eu body s

/-- An instruction that reads what another cycle would show otherwise: in its issue cycle, also where it then waits for a relaxed load
(R60, R113, R214). -/
def issueSeen (i : Instr) (gd : Guard) (eu : Nat) (see : State → List Word) (body : List Word → Run → State → Act) (s : State) :
    Host.Outcome State Fault Refusal :=
  let s' := match (s.thr s.cur).seen, hazard i s.cur s with
    | none, some (.wait ..) => s.updThr s.cur fun t => { t with seen := some (see s) }
    | _, _ => s
  issue i gd eu (fun r x => body (r.t.seen.getD (see x)) r x) s'

/-- A privileged instruction: PRIVILEGED in task mode, before the guard (R57 step 4). -/
def issueSys (i : Instr) (gd : Guard) (eu : Nat) (body : Run → State → Act) (s : State) : Host.Outcome State Fault Refusal :=
  issueWith (·.guardOn gd) (fun t => if t.mode then none else some (.privileged, opVal i)) i eu body s

/-- An instruction on a d or ch register: ILLEGAL_OPERAND outside a node, before the guard (R47, R57 step 3). -/
def issueNodeReg (pos spec : Nat) (i : Instr) (gd : Guard) (eu : Nat) (body : Run → State → Act) (s : State) :
    Host.Outcome State Fault Refusal :=
  issueWith (·.guardOn gd)
    (fun t => if t.isNode then none else some (.illegalOperand, BitVec.ofNat 64 (pos * 256 + spec))) i eu body s

/-- A body that a light thread may not run (R96). -/
def heavyOnly (body : Run → State → Act) (r : Run) (s : State) : Act :=
  if r.t.light then .trap .illegalInstruction (wordVal r.i) else body r s

/-- A lane-wise vector instruction: guarded off when no lane is active; heavy threads only (R50, R96). -/
def issueV (i : Instr) (gd : Guard) (eu : Nat) (body : Run → State → Act) (s : State) : Host.Outcome State Fault Refusal :=
  issueWith (fun t => t.lanes gd != 0) (fun _ => none) i eu (heavyOnly body) s

/-- Write one g register and nothing else. -/
def Act.writeG (d : GReg) (v : Word) (s : State) : Act := .done { g := [(d, v)] } s
def Act.writeP (d : PReg) (v : Word) (s : State) : Act := .done { p := [(d, v)] } s

end Sys2Proof.Machine
end

