-- ==== Sys2Proof/Machine/Translate.lean ====
section
/-! DEFINITION. Physical addresses and homes (R198 to R200), page-table entries and walks (R201 to R203), permissions (R204),
TLBs (R205), and how a page's format meets an element type (R206, R70). -/

namespace Sys2Proof.Machine

/-! ### Entries (R201, R202) -/

/-- A 16-byte entry, word0 in the low half. -/
abbrev Entry := BitVec 128

def Entry.bit (e : Entry) (i : Nat) : Bool := e.getLsbD i
def Entry.fld (e : Entry) (i n : Nat) : Nat := (e.extractLsb' i n).toNat

def Entry.val (e : Entry) : Bool := Entry.bit e 0
def Entry.rd (e : Entry) : Bool := Entry.bit e 1
def Entry.wr (e : Entry) : Bool := Entry.bit e 2
def Entry.exe (e : Entry) : Bool := Entry.bit e 3
def Entry.usr (e : Entry) : Bool := Entry.bit e 4
def Entry.fmt (e : Entry) : Nat := Entry.fld e 8 5
def Entry.geo (e : Entry) : Nat := Entry.fld e 13 3
def Entry.tier (e : Entry) : Nat := Entry.fld e 16 2
def Entry.home (e : Entry) : Nat := Entry.fld e 18 2
def Entry.key (e : Entry) : Nat := Entry.fld e 20 4
def Entry.lrg (e : Entry) : Bool := Entry.bit e 24
def Entry.sidx (e : Entry) : Nat := Entry.fld e 40 24
def Entry.ppn (e : Entry) : Nat := Entry.fld e 64 48

/-- The physical address of va by a leaf (R202). -/
def Entry.pa (e : Entry) (va : Nat) : Nat :=
  Entry.ppn e * 2 ^ 16 + (if Entry.lrg e then va % 2 ^ 28 else va % 2 ^ 16)

def paDev (pa : Nat) : Nat := pa / 2 ^ 46 % 64
def paDie (pa : Nat) : Nat := pa / 2 ^ 43 % 8
def paRegion (pa : Nat) : Nat := pa / 2 ^ 40 % 8

/-- TIER agrees with the physical address (R199). -/
def tierOk (dev tier home pa : Nat) : Bool :=
  match tier with
  | 0 => paDev pa == dev && paRegion pa == 0
  | 1 => paDev pa == dev && paRegion pa == 1
  | 2 => paDev pa != dev && decide (paRegion pa ≤ 1)
  | _ => paDev pa == dev && home == 0

/-- A well-formed leaf (R203), at level 2 (large) or 3; during EARLY a leaf of TIER 1 is malformed (R363). -/
def leafOk (dev : Nat) (early large : Bool) (e : Entry) : Bool :=
  Entry.val e && Entry.fld e 5 3 == 0 && Entry.fld e 25 15 == 0 && Entry.fld e 112 16 == 0 &&
  decide (Entry.fmt e ≤ 0x16) && decide (Entry.geo e ≤ 3) && Entry.home e != 3 && Entry.fld e 100 12 == 0 &&
  Entry.lrg e == large && (!large || Entry.fld e 64 12 == 0) &&
  tierOk dev (Entry.tier e) (Entry.home e) (Entry.ppn e * 2 ^ 16) && !(early && Entry.tier e == 1)

/-- The next table of a well-formed pointer entry (R201, R203). -/
def tableOf (dev : Nat) (early : Bool) (e : Entry) : Option Nat :=
  let pa := Entry.fld e 64 64 * 2 ^ 16
  if Entry.fld e 0 64 = 1 ∧ Entry.fld e 64 64 < 2 ^ 36 ∧ paDev pa = dev ∧ paRegion pa ≤ 1 ∧
      ¬(early ∧ paRegion pa = 1) then some pa else none

/-! ### Homes and locations (R200) -/

/-- The die index of the home of a tier-0 byte and its slice offset. -/
def sliceOf (home l : Nat) : Nat × Nat :=
  let c := l / 2 ^ 22 % 256
  match home with
  | 0 => (c, l % 2 ^ 22)
  | 1 => ((c / 64) * 64 + (l / 2 ^ 14 % 4) * 16 + (c / 4 % 4) * 4 + l / 2 ^ 12 % 4,
      (l / 2 ^ 16 % 64) * 2 ^ 16 + (c / 16 % 4) * 2 ^ 14 + (c % 4) * 2 ^ 12 + l % 2 ^ 12)
  | _ => (l / 2 ^ 12 % 256, (l / 2 ^ 20 % 1024) * 2 ^ 12 + l % 2 ^ 12)

/-- The core key of the home of a physical address (R200). -/
def homeOf (tier home pa : Nat) : Nat :=
  paDie pa * 256 +
    (if tier = 3 then 0
     else if tier = 0 then (sliceOf home (pa % 2 ^ 30)).1
     else match home with
       | 0 => pa / 2 ^ 16 % 256
       | 1 =>
         let k := pa / 2 ^ 20 % 16
         let j := pa / 2 ^ 12 % 16
         4 * (k / 4) * 16 + 4 * (k % 4) + 16 * (j / 4) + j % 4
       | _ => pa / 2 ^ 12 % 256)

/-- Where a byte lies: a slice byte by its home and slice offset (two HOME values reach different bytes), any other by its
physical address, bits LOC[39:37] of an LPDDR-6 address included (notes/assumptions/41, DEDUCED); the host aperture lies above
2^52. -/
def locOf (tier home pa : Nat) : Nat :=
  if tier = 3 then 2 ^ 52 + pa % 2 ^ 43
  else if paRegion pa = 0 then
    let (c, off) := sliceOf home (pa % 2 ^ 30)
    (paDev pa * 8 + paDie pa) * 2 ^ 43 + c * 2 ^ 22 + off
  else pa

def Entry.homeCore (e : Entry) (va : Nat) : Nat := homeOf (Entry.tier e) (Entry.home e) (Entry.pa e va)
def Entry.loc (e : Entry) (va : Nat) : Nat := locOf (Entry.tier e) (Entry.home e) (Entry.pa e va)

/-! ### Walks and TLBs (R205) -/

/-- The entry at a physical address of a table; tables are read with HOME 0 (notes/assumptions/9). -/
def State.entryAt (s : State) (pa : Nat) : Entry := BitVec.ofNat 128 (s.mem.read (locOf 0 0 pa) 16)

def State.early (s : State) : Bool := s.boot == 2

/-- A walk of the tables at a root for va (R201). -/
def State.walkFrom (s : State) (dev root va : Nat) : WalkRes :=
  match tableOf dev s.early (s.entryAt (root + 16 * (va / 2 ^ 40 % 256))) with
  | none => .absent
  | some t2 =>
    let e2 := s.entryAt (t2 + 16 * (va / 2 ^ 28 % 4096))
    if leafOk dev s.early true e2 then .leaf e2
    else match tableOf dev s.early e2 with
      | none => .absent
      | some t3 =>
        let e3 := s.entryAt (t3 + 16 * (va / 2 ^ 16 % 4096))
        if leafOk dev s.early false e3 then .leaf e3 else .absent

/-- A walk for a context of a die. -/
def State.walkMem (s : State) (die cid va : Nat) : WalkRes :=
  s.walkFrom (s.partOf die cid).dev (s.ctx die cid).root va

/-- Whether a held leaf covers va for a context. -/
def TlbEnt.covers (x : TlbEnt) (cid va : Nat) : Bool :=
  x.cid == cid && (if Entry.lrg x.leaf then x.vpn / 4096 == va / 2 ^ 28 else x.vpn == va / 2 ^ 16)

def tlbFind (l : List TlbEnt) (cid va : Nat) : Option Entry := (l.find? (·.covers cid va)).map (·.leaf)

/-- Add a leaf, dropping the oldest past the capacity. -/
def tlbAdd (cap : Nat) (l : List TlbEnt) (x : TlbEnt) : List TlbEnt := (x :: l).take cap

/-- Hold a leaf in the core's and its cluster's TLB (R205). -/
def State.tlbFill (s : State) (core cid va : Nat) (e : Entry) : State :=
  let x : TlbEnt := ⟨cid, va / 2 ^ 16 % 2 ^ 32, e⟩
  (s.updCore core fun c => { c with tlb := tlbAdd 64 c.tlb x }).updCluster (clusterOf core)
    fun c => { c with tlb := tlbAdd 2048 c.tlb x }

/-- The leaf of va that the core's or cluster's TLB holds. -/
def State.tlbLook (s : State) (core cid va : Nat) : Option Entry :=
  (tlbFind (s.core core).tlb cid va).orElse fun _ => tlbFind (s.cluster (clusterOf core)).tlb cid va

/-- A translation: a leaf, an absent page, or a walk to make. -/
inductive Tr
  | leaf (e : Entry)
  | absent
  | walk
  deriving DecidableEq, Repr

/-- Translation for a thread: the TLBs, then what its walks answered. -/
def State.trans (s : State) (k : Key) (va : Nat) : Tr :=
  match s.tlbLook k.1 (s.core k.1).cid va with
  | some e => .leaf e
  | none =>
    match tget (s.thr k).walked (va / 2 ^ 16) with
    | some (.leaf e) => .leaf e
    | some .absent => .absent
    | none => .walk

/-- Translation for an engine or a controller acting for a context: the TLBs, else a walk made at once. -/
def State.transEng (s : State) (core cid va : Nat) : WalkRes :=
  match s.tlbLook core cid va with
  | some e => .leaf e
  | none => s.walkMem (dieOf core) cid va

/-! ### Permission (R204) and formats (R206, R70) -/

inductive AccK
  | load | store | atomic | exec
  deriving DecidableEq, Repr

/-- R204, for a task-mode access when task holds. -/
def permitted (keys : List Nat) (k : AccK) (task : Bool) (e : Entry) : Bool :=
  (match k with
   | .load => Entry.rd e
   | .store => Entry.wr e
   | .atomic => Entry.rd e && Entry.wr e
   | .exec => Entry.exe e) &&
  (!task || Entry.usr e) &&
  (match Entry.tier e with
   | 1 => Entry.key e == 0
   | 2 => Entry.key e != 0 && keys.contains (Entry.key e)
   | _ => true)

inductive FmtK
  | raw | decoded | refused
  deriving DecidableEq, Repr

/-- The FMT and GEO pairs of R70. -/
def geoOk (e : Entry) (f : ETy) : Bool :=
  (match f with
   | .b8i | .b4i => Entry.geo e == 1
   | .q16f => Entry.geo e == 2
   | .q16n => Entry.geo e == 3
   | _ => Entry.geo e == 0) && (Entry.geo e == 0 || !Entry.lrg e)

/-- Whether the FMT and GEO of a leaf form a pair of R70. -/
def Entry.pairOk (e : Entry) : Bool := (ETy.ofCode (Entry.fmt e)).any (geoOk e)

def isBlockTy : ETy → Bool
  | .q16n | .q16f | .b8i | .b4i => true
  | _ => false

/-- How an access of type t meets a page of format f (R206). -/
def fmtMeets (f t : ETy) : FmtK :=
  let int := match t with
    | .int8 | .int16 | .int32 | .int64 => true
    | _ => false
  let fp := match t with
    | .fp64 | .fp32 | .fp16 | .bf16 => true
    | _ => false
  if f = .uint8 ∨ f = t then .raw
  else if !int && !fp then .refused
  else match f with
    | .q16n | .q16f | .b8i | .b4i | .f6e3 | .f6e2 | .f4e2 => if fp ∧ t ≠ .fp64 then .decoded else .refused
    | .int4 | .uint4 | .tern | .bin1 => if int ∧ t ≠ .int64 then .decoded else .refused
    | .fl19 | .fp16 | .bf16 => if int then .raw else if t = .fp32 then .decoded else .refused
    | .f8e4 | .f8e5 => if int then .raw else if t ≠ .fp64 then .decoded else .refused
    | _ => if int then .raw else .refused

/-- R206 and R70 through a leaf; a store only where the access is raw. -/
def pageMeets (e : Entry) (t : ETy) (store : Bool) : FmtK :=
  match ETy.ofCode (Entry.fmt e) with
  | none => .refused
  | some f =>
    if geoOk e f then
      match fmtMeets f t with
      | .decoded => if store then .refused else .decoded
      | x => x
    else .refused

end Sys2Proof.Machine
end

