-- ==== Sys2Proof/Machine/Access.lean ====
section
/-! DEFINITION. Accesses: the checks of R208, requests to homes (R17, R18, R387), what a home does (R276, R314), replies (R19),
relaxed accesses (R214) and posted stores (R317). -/

namespace Sys2Proof.Machine

/-! ### Writes that reach a home (R282) -/

/-- The time of a home's notice to a watcher's core; to the home's own core it is the next cycle (R375). -/
def noticeTime (home core : Nat) : Nat := if home = core then 1 else msgTime home core 1

/-- The notices of a write to one line (R282), performed after a delay: each carries the number of the arming it fires. -/
def State.fireLine (s : State) (home line delay : Nat) : State :=
  ((s.core home).mons.filter (·.loc == line)).foldl
    (fun s e => s.post (delay + noticeTime home e.core) (.fireNoticeArrival e.core e.slot e.k e.arm)) s

/-- The 64-byte lines of n bytes at a location. -/
def linesOf (loc n : Nat) : List Nat :=
  if n = 0 then [] else (List.range ((loc + n - 1) / 64 - loc / 64 + 1)).map fun i => (loc / 64 + i) * 64

/-- The words of n bytes at a location that memory m' holds otherwise than m did, at number t (R322). -/
def replaced (t : Nat) (m m' : Mem) (loc n : Nat) : List OldWord :=
  if n = 0 then [] else
    (List.range ((loc + n - 1) / 4 - loc / 4 + 1)).filterMap fun i =>
      let a := (loc / 4 + i) * 4
      if m.read a 4 = m'.read a 4 then none else some ⟨t, a, BitVec.ofNat 32 (m.read a 4)⟩

/-- Bytes stand at a location; what they replace is remembered for instruction fetch (R322). -/
def State.poke (s : State) (loc : Nat) (bs : List Byte) : State :=
  { s with mem := s.mem.writeBytes loc bs
           oldWords := replaced s.serial s.mem (s.mem.writeBytes loc bs) loc bs.length ++ s.oldWords }

/-- Write bytes at a location of a home; every watched line fires (R282, R314). -/
def State.wr (s : State) (home loc delay : Nat) (bs : List Byte) : State :=
  (linesOf loc bs.length).foldl (fun s l => s.fireLine home l delay) (s.poke loc bs)

/-! ### Elements -/

/-- The outcome of the checks of R208. -/
inductive Chk
  | ok (hits : List Hit) (dec : List DecE)
  | fault (step : Nat) (c : Cause) (va : Nat)
  | walk (va : Nat)
  deriving DecidableEq, Repr

/-- Whether fault f comes before g: the lower step, then the lower address (R208). -/
def faultBefore (a b : Nat × Cause × Nat) : Bool := a.1 < b.1 || (a.1 == b.1 && a.2.2 < b.2.2)

/-- The outcome over a list of elements: a walk if any needs one, else the first fault, by step and address or by lane
(R208, R213), else all the hits. -/
def Chk.all (bylane : Bool) (cs : List Chk) : Chk :=
  match cs.findSome? (fun c => match c with
    | .walk va => some va
    | _ => none) with
  | some va => .walk va
  | none =>
    let fs := cs.filterMap fun c => match c with
      | .fault s c va => some (s, c, va)
      | _ => none
    match fs with
    | f :: rest =>
      let b := if bylane then f else rest.foldl (fun b g => if faultBefore g b then g else b) f
      .fault b.1 b.2.1 b.2.2
    | [] =>
      .ok (cs.flatMap fun c => match c with
        | .ok h _ => h
        | _ => []) (cs.flatMap fun c => match c with
        | .ok _ d => d
        | _ => [])

/-- Who accesses: core, slot, context, task mode, keys. -/
structure Who where
  k    : Key
  task : Bool
  keys : List Nat

def State.who (s : State) (k : Key) : Who :=
  ⟨k, !(s.thr k).mode, (s.partOf (dieOf k.1) (s.core k.1).cid).keys⟩

/-- The formats that `VLDX` decodes lane by lane (R213). -/
def laneFmt (e : Entry) : Option ETy :=
  match ETy.ofCode (Entry.fmt e) with
  | some f => if f = .f8e4 ∨ f = .f8e5 ∨ f = .fl19 ∨ f = .fp16 ∨ f = .bf16 then some f else none
  | none => none

/-- Checks of one element of sz bytes of type t (R207, R208 steps 1 and 3 to 5); `dx` allows the decoded lanes of R213. Where the page
is absent, its format is not known: the alignment asked is that of a raw access (notes/assumptions/98, DEDUCED). -/
def State.elemChk (s : State) (w : Who) (acc : AccK) (t : ETy) (sz : Nat) (dx : Bool) (idx va data : Nat) : Chk :=
  match s.trans w.k (va % 2 ^ 48) with
  | .walk => .walk (va % 2 ^ 48)
  | .absent => if va % sz ≠ 0 then .fault 1 .misaligned va else .fault 3 .pageAbsent va
  | .leaf e =>
    let m := pageMeets e t (acc ≠ .load)
    let lf := if dx ∧ m = .decoded then laneFmt e else none
    let n := match lf with
      | some f => f.bits / 8
      | none => sz
    if va % n ≠ 0 then .fault 1 .misaligned va
    else if !permitted w.keys acc w.task e || (acc == .atomic && Entry.tier e == 3) then .fault 4 .permission va
    else match m, lf with
      | .raw, _ => .ok [⟨Entry.homeCore e (va % 2 ^ 48), Entry.tier e, ⟨idx, va, Entry.loc e (va % 2 ^ 48), n, data⟩⟩] []
      | .decoded, some f =>
        .ok [⟨Entry.homeCore e (va % 2 ^ 48), Entry.tier e, ⟨idx, va, Entry.loc e (va % 2 ^ 48), n, data⟩⟩]
          [⟨idx, idx, 0, f, none, none⟩]
      | _, _ => .fault 5 .formatMismatch va

/-- One sidecar read of R71 (R208 step 6). -/
def State.sideChk (s : State) (w : Who) (idx va n : Nat) : Chk :=
  match s.trans w.k (va % 2 ^ 48) with
  | .walk => .walk (va % 2 ^ 48)
  | .absent => .fault 6 .pageAbsent va
  | .leaf e =>
    if permitted w.keys .load w.task e then
      .ok [⟨Entry.homeCore e (va % 2 ^ 48), Entry.tier e, ⟨idx, va, Entry.loc e (va % 2 ^ 48), n, 0⟩⟩] []
    else .fault 6 .permission va

/-- The elements per block of a block format (R70). -/
def blockSize : ETy → Nat
  | .b8i | .b4i => 32
  | _ => 64

/-- Address and size of the scale of block b, and of its super-scale (R71). -/
def scaleAt (scb sidx : Nat) (f : ETy) (b : Nat) : Nat × Nat :=
  if f = .q16n then (scb + sidx * 2112 + b, 1) else (scb + sidx * 2112 + 2 * b, 2)

def superAt (scb sidx b : Nat) : Nat := scb + sidx * 2112 + 2048 + 4 * (b / 256)

/-- Element numbers of scales and super-scales within an access. -/
def scaleNo (b : Nat) : Nat := 2 ^ 20 + b
def superNo (b : Nat) : Nat := 2 ^ 21 + b / 256

/-- Numbers without repeats, in order. -/
def dedup (l : List Nat) : List Nat := l.foldl (fun acc x => if acc.contains x then acc else acc ++ [x]) []

/-- Element numbers of the memory units of a decoded run: bytes, or whole elements of 8 bits and more. -/
def unitNo (b : Nat) : Nat := 2 ^ 19 + b

/-- A decoded run of e elements at va through the leaf l (R207, R208, R71); only the units of active elements are read, each
once. The scales of R71 are read in the access's own requests, after its elements, and their bytes count there
(notes/assumptions/80, DESIGN CHOICE: R71 gives these reads no timing). -/
def State.decodedChk (s : State) (w : Who) (f : ETy) (l : Entry) (e va : Nat) (act : List Nat) : Chk :=
  let wd := f.bits
  let psz := if Entry.lrg l then 2 ^ 28 else 2 ^ 16
  let a := va % 2 ^ 48
  let off := a % psz
  let nb := (e * wd + 7) / 8
  let u := Nat.max 1 (wd / 8)
  let us := dedup (act.flatMap fun j => [j * wd / 8 / u, (j * wd + wd - 1) / 8 / u])
  if us.isEmpty then .ok [] []
  else if (if wd = 6 then off % 3 ≠ 0 else a % nb ≠ 0) ∨ off + nb > psz then .fault 1 .misaligned va
  else if !permitted w.keys .load w.task l then .fault 4 .permission ((va + us.headD 0 * u) % 2 ^ 64)
  else
    let first := off * 8 / wd
    let els := us.map fun b =>
      let x := a + b * u
      (⟨Entry.homeCore l x, Entry.tier l, ⟨unitNo b, x, Entry.loc l x, u, 0⟩⟩ : Hit)
    let blk := blockSize f
    let bno (j : Nat) := (first + j) / blk
    let dec := act.map fun j =>
      (⟨j, unitNo (j * wd / 8 / u), j * wd % 8, f, if isBlockTy f then some (scaleNo (bno j)) else none,
        if f = .q16n then some (superNo (bno j)) else none⟩ : DecE)
    if isBlockTy f then
      let scb := (s.ctx (dieOf w.k.1) (s.core w.k.1).cid).scb
      let bs := dedup (act.map bno)
      let side := bs.map fun b =>
        let (x, n) := scaleAt scb (Entry.sidx l) f b
        s.sideChk w (scaleNo b) x n
      let sup := if f = .q16n then
          (dedup (bs.map (· / 256))).map fun g => s.sideChk w (superNo (g * 256)) (superAt scb (Entry.sidx l) (g * 256)) 4
        else []
      match Chk.all false (side ++ sup) with
      | .ok hs _ => .ok (els ++ hs) dec
      | x => x
    else .ok els dec

/-- Checks of e consecutive elements of type t at va (R207, R208): a decoded run where the page of va decodes, else every
element for itself. `unit` is the raw unit of alignment and of access. -/
def State.runChk (s : State) (w : Who) (acc : AccK) (t : ETy) (unit e va : Nat) (act : List Nat) (data : Nat → Nat) : Chk :=
  match s.trans w.k (va % 2 ^ 48) with
  | .walk => .walk (va % 2 ^ 48)
  | .leaf l =>
    match pageMeets l t (acc ≠ .load), ETy.ofCode (Entry.fmt l) with
    | .decoded, some f => s.decodedChk w f l e va act
    | _, _ => .all false (act.map fun j => s.elemChk w acc t unit false j ((va + j * unit) % 2 ^ 64) (data j))
  | .absent => .all false (act.map fun j => s.elemChk w acc t unit false j ((va + j * unit) % 2 ^ 64) (data j))

/-- Split the one raw unit of a pair into its two elements (R211). -/
def splitPair (n : Nat) : Chk → Chk
  | .ok [h] [] =>
    .ok [{ h with el := { h.el with n := n, data := h.el.data % 2 ^ (8 * n) } },
         { h with el := { h.el with idx := 1, va := h.el.va + n, loc := h.el.loc + n, n := n, data := h.el.data / 2 ^ (8 * n) } }] []
  | c => c

/-! ### What a home does (R276, R314) -/

/-- The bad line that n bytes at a location touch, with its code. -/
def State.badLine (s : State) (loc n : Nat) : Option (Nat × Nat) :=
  s.badLines.find? fun b => decide (loc / 64 ≤ b.1) && decide (b.1 ≤ (loc + n - 1) / 64)

/-- The code of the bad line that n bytes at a location touch (R208 step 7). -/
def State.badAt (s : State) (loc n : Nat) : Option Nat := (s.badLine loc n).map (·.2)

/-- Whether the elements cover the whole of a line. -/
def coversLine (els : List Elem) (line : Nat) : Bool :=
  (List.range 64).all fun i => els.any fun e => decide (e.loc ≤ line * 64 + i) && decide (line * 64 + i < e.loc + e.n)

/-- An element of the host aperture (R198). -/
def Elem.host (e : Elem) : Bool := decide (2 ^ 52 ≤ e.loc)

/-- The tier of an element of a request to an own home: LPDDR-6 by the region of its location (R198). -/
def Elem.dram (e : Elem) : Bool := !e.host && e.loc / 2 ^ 40 % 8 == 1

/-- The fault of a store: a partial write of a bad LPDDR-6 line (R208); `own`: the request is to a home of the own device. -/
def State.storeBad (s : State) (own : Bool) (els : List Elem) (e : Elem) : Option Nat :=
  if own ∧ e.dram ∧ !coversLine els (e.loc / 64) then s.badAt e.loc e.n else none

/-- The earlier of two faults by address. -/
def minFault (a b : Option (Nat × Nat)) : Option (Nat × Nat) :=
  match a, b with
  | some x, some y => if y.2 < x.2 then some y else some x
  | some x, none => some x
  | none, y => y

/-- The new value of an atomic, its flags, and whether it writes (R278 to R280). -/
def amoNew (op : AmoOp) (ety : ETy) (n old c e : Nat) : Nat × BitVec 5 × Bool :=
  let w := 8 * n
  let env : Num.Env := Num.Env.plain
  match op with
  | .add => ((old + c) % 2 ^ w, 0, true)
  | .and => (old &&& c, 0, true)
  | .or => (old ||| c, 0, true)
  | .xor => (old ^^^ c, 0, true)
  | .swap => (c, 0, true)
  | .min => (if Num.sgn w old ≤ Num.sgn w c then old else c, 0, true)
  | .max => (if Num.sgn w old ≥ Num.sgn w c then old else c, 0, true)
  | .minu => (if old ≤ c then old else c, 0, true)
  | .maxu => (if old ≥ c then old else c, 0, true)
  | .fadd => let r := Num.fadd ety env old c; (r.r, r.f, true)
  | .fmin => let r := Num.fminmax ety env false old c; (r.r, r.f, true)
  | .fmax => let r := Num.fminmax ety env true old c; (r.r, r.f, true)
  | .cas => (c, 0, old == e)

/-- The bytes of an element's data. -/
def elBytes (n v : Nat) : List Byte := leBytes n v

/-- Remember a write of the atomic unit of an own slice that is performed after a delay (R276). -/
def State.amoWrite (s : State) (r : Req) (e : Elem) (delay : Nat) : State :=
  if r.tier ≤ 1 ∧ !e.dram then
    s.updCore r.home fun c => { c with amoW := (e.loc, e.n, s.now + delay) :: c.amoW.filter fun w => decide (s.now ≤ w.2.2) }
  else s

/-- The n bytes that a merge leaves: those of the mask above them from the data, the others as they were (R66). -/
def mergeInto (old n data : Nat) : Nat :=
  let m := data / 2 ^ (8 * n)
  old % 2 ^ (8 * n) - (old % 2 ^ (8 * n) &&& m) + (data % 2 ^ (8 * n) &&& m)

/-- Serve one element (R18), to be performed after a delay: a load reads, a store writes, an atomic reads, computes and writes in
one step (R276). -/
def State.serveEl (s : State) (r : Req) (e : Elem) (delay : Nat) : State × Req :=
  let amo (op : AmoOp) (ety : ETy) (c x : Nat) (en : BitVec 5) : State × Req :=
    match s.badAt e.loc e.n with
    | some code => (s, { r with fault := minFault r.fault (some (code, e.va)) })
    | none =>
      let old := s.mem.read e.loc e.n
      let (v, f, wrt) := amoNew op ety e.n old c x
      let r := { r with vals := tput r.vals e.idx old, flags := r.flags ||| f }
      if wrt ∧ f &&& en = 0 then ((s.wr r.home e.loc delay (elBytes e.n v)).amoWrite r e delay, r) else (s, r)
  match r.op with
  | .load =>
    (match s.badAt e.loc e.n with
     | some code => (s, { r with fault := minFault r.fault (some (code, e.va)) })
     | none => (s, { r with vals := tput r.vals e.idx (s.mem.read e.loc e.n) }))
  | .store =>
    let s := if coversLine r.els (e.loc / 64) then { s with badLines := s.badLines.filter (·.1 != e.loc / 64) } else s
    (s.wr r.home e.loc delay (elBytes e.n e.data), r)
  | .merge =>
    let s := if coversLine r.els (e.loc / 64) then { s with badLines := s.badLines.filter (·.1 != e.loc / 64) } else s
    (s.wr r.home e.loc delay (elBytes e.n (mergeInto (s.mem.read e.loc e.n) e.n e.data)), r)
  | .amo op ety c x en => amo op ety c x en
  | .red op ety c => amo op ety c 0 0
  | .arm _ | .disarm _ | .bufLoad _ | .bufStore .. => (s, r)

/-- Serve a request: every element in order, performed after its delay; a store that fails writes nothing (R208). -/
def State.serve (s : State) (r : Req) (delay : Elem → Nat) : State × Req :=
  let bad := if r.op = .store then
      r.els.foldl (fun f e => minFault f ((s.storeBad (r.tier ≤ 1) r.els e).map (·, e.va))) none
    else none
  match bad with
  | some f => (s, { r with fault := some f })
  | none => r.els.foldl (fun p e => p.1.serveEl p.2 e (delay e)) (s, r)

def reqBytes (els : List Elem) : Nat := (els.map (·.n)).sum

/-- The elements of a request that lie in the slice of its home. -/
def sliceEls (els : List Elem) : List Elem := els.filter fun e => !e.dram && !e.host

/-- Service time S of a tier-0 home (R17, R276). -/
def serviceTime (op : MemOp) (els : List Elem) : Nat :=
  match op with
  | .amo .. | .red .. => 6
  | _ => sliceTime (reqBytes els)

/-- The service of an access that comes after an atomic to a byte of it: it is performed in the cycle after that write at the
earliest (R276; notes/assumptions/82). -/
def Core.afterAmo (c : Core) (now : Nat) (els : List Elem) (l : Nat) : Nat :=
  c.amoW.foldl (fun l w =>
    if (els.any fun e => decide (e.loc < w.1 + w.2.1) && decide (w.1 < e.loc + e.n)) && decide (now + l ≤ w.2.2)
    then w.2.2 + 1 - now else l) l

/-- Cycles from the start of its service until an access to a slice is performed (R17, R276). -/
def State.sliceWait (s : State) (r : Req) : Nat :=
  let els := sliceEls r.els
  if els.isEmpty then 0 else (s.core r.home).afterAmo s.now els (serviceTime r.op els)

/-- Flits of a request and of its reply (R15, R277). The addresses of the lanes of `VLDX` and `VSTX` are not counted as payload
(notes/assumptions/81, DESIGN CHOICE: R15 gives no size). -/
def reqFlits (op : MemOp) (els : List Elem) : Nat :=
  match op with
  | .store | .merge => flits (reqBytes els)
  | .amo .cas _ _ _ _ => if reqBytes els ≤ 8 then 2 else flits (2 * reqBytes els)
  | .amo .. | .red .. => flits (reqBytes els)
  | _ => 1

def repFlits (op : MemOp) (els : List Elem) : Nat :=
  match op with
  | .load | .amo .. => flits (reqBytes els)
  | _ => 1

/-- Home port cycles that a request holds (R17, R276): the bytes of its slice, and one cycle for LPDDR-6. -/
def holdCycles (r : Req) : Nat :=
  match r.op with
  | .load | .store | .merge =>
    let els := sliceEls r.els
    if r.tier ≤ 1 then (if els.isEmpty then 0 else portCycles (reqBytes els)) + (if r.els.any Elem.dram then 1 else 0) else 1
  | _ => 1

/-! ### Requests (R18, R387) -/

/-- The device of the near elements among some hits: the own one. -/
def ownDev (hs : List Hit) : Nat := ((hs.find? (·.tier ≤ 1)).map fun h => h.el.loc / 2 ^ 46).getD 64

/-- The home of a hit: its core, and the device of its location; the host aperture has its home on the own device (R200). -/
def Hit.at (own : Nat) (h : Hit) : Nat × Nat := (h.home, if h.el.host then own else h.el.loc / 2 ^ 46)

/-- The hits by home, in the order of their first elements. -/
def groupHits (hs : List Hit) : List (List Hit) :=
  let own := ownDev hs
  let keys := hs.foldl (fun acc h => if acc.contains (h.at own) then acc else acc ++ [h.at own]) []
  keys.map fun k => hs.filter fun h => h.at own = k

/-- The tier of a request: of the tiers of its elements the highest, since one home serves tiers 0 and 1 (R387); elements of the host
aperture beside others go with them to their home (R200). -/
def groupTier (g : List Hit) : Nat :=
  let l := if g.all (·.el.host) then g else g.filter fun h => !h.el.host
  l.foldl (fun n h => Nat.max n h.tier) 0

/-- The event by which the answer of a request reaches its thread. -/
def State.answerEv (s : State) (r : Req) (id : Nat) : Instr :=
  if (s.thr (r.core, r.slot)).rlx.any (·.serial == r.serial) then
    (match r.op with
     | .red .. => .redAcknowledgement id
     | _ => .relaxedAccessPerformed id)
  else .memoryReply id

/-- A request or an engine's access arrives at the port of a home d cycles from now, by an input of R18. -/
def State.toPort (s : State) (d inp id home : Nat) : State :=
  (s.updCore home fun c => { c with homeQ := c.homeQ ++ [((s.now + d) * 8 + inp, id)] }).post d (.homeAccess home)

/-- Send one request, the i-th of its access (R387). Tier 0 and 1 requests queue at the home port (R18); peer and host
accesses have no fixed times (R17). -/
def State.sendReq (s : State) (i : Nat) (r : Req) : State :=
  let (id, s) := s.fresh
  let s := { s with reqs := tput s.reqs id r }
  if r.tier ≤ 1 then
    s.toPort (i + msgTime r.core r.home (reqFlits r.op r.els)) (if r.core = r.home then 0 else 5) id r.home
  else match r.op with
    | .store => s.postFree (i + 1) (.postedStoreAccepted id)
    | .amo .. | .red .. => s.postFree (i + 1) (.atomicRequest id)
    | _ => s.postFree (i + 1) (s.answerEv r id)

/-- The die, off, whose exit an access waits for (R364). -/
def State.offHit (s : State) (hs : List Hit) : Option Nat := hs.findSome? fun h => s.offDie h.tier h.home h.el.loc

/-- An engine sends an access of its own homes to their ports, where it takes its turns (R18): input 1 stream unit, 2 copy engine, 5
the router, and the router at the port of another core. One access of an engine at a home port is all the bytes of the part, the beat or
the unit that lie there; it holds the port for its cycles of R17 (notes/assumptions/96, DESIGN CHOICE: the spec gives such an access no
size). The answer names the turns. -/
def State.askPort (s : State) (core cid inp : Nat) (op : MemOp) (hs : List Hit) (owner : TOwner) : State × List Nat :=
  (groupHits (hs.filter (·.tier ≤ 1))).foldl (fun p g => match g.head? with
    | some h =>
      let els := g.map (·.el)
      let (id, s) := p.1.fresh
      ({ s with turns := tput s.turns id ⟨core, cid, h.home, op, els, owner⟩ }.toPort (msgTime core h.home (reqFlits op els))
        (if core = h.home then inp else 5) id h.home, p.2 ++ [id])
    | none => p) (s, [])

/-- An access of an engine holds the ports of its homes in its turns; its bytes are moved by the engine's own event
(notes/assumptions/97, DESIGN CHOICE). -/
def State.enginePort (s : State) (core cid inp : Nat) (op : MemOp) (hs : List Hit) : State := (s.askPort core cid inp op hs .none).1

/-- The machine as an engine sees it that homes have read for: the bytes, and the bad lines, as they were at the home (R18). -/
def State.seeing (s : State) (got : List Got) : State :=
  let has (g : Got) (line : Nat) : Bool := decide (g.loc / 64 ≤ line) && decide (line ≤ (g.loc + g.n - 1) / 64)
  { s with mem := got.foldl (fun m g => m.write g.loc g.n g.val) s.mem
           badLines := got.filterMap (·.bad) ++ s.badLines.filter fun b => !got.any fun g => has g b.1 }

/-- The hits of own homes that homes have still to read. -/
def unread (got : List Got) (hs : List Hit) : List Hit :=
  hs.filter fun h => decide (h.tier ≤ 1) && !got.any fun g => decide (g.loc ≤ h.el.loc) && decide (h.el.loc + h.el.n ≤ g.loc + g.n)

/-! ### Root ports (R351) -/

/-- The leaf by which an access of a root port reaches va: translated by the tables of the application's partition, which it
cannot leave for a peer's memory (R351). -/
def State.dmaLeaf (s : State) (app va : Nat) (acc : AccK) : Option Entry :=
  (tget s.apps app).bind fun a => (tget s.parts a.part).bind fun p =>
    match s.walkFrom p.dev a.root (va % 2 ^ 48) with
    | .leaf e => if Entry.tier e ≠ 2 ∧ permitted p.keys acc true e = true then some e else none
    | .absent => none

/-- Where the bytes of an access of a root port lie; a byte without a leaf is skipped. -/
def State.dmaHits (s : State) (d : Dma) : List Hit :=
  (d.bytes.mapIdx fun i b => (i, (d.va + i) % 2 ^ 48, b)).filterMap fun x =>
    (s.dmaLeaf d.app x.2.1 (if d.write then .store else .load)).map fun e =>
      ⟨Entry.homeCore e x.2.1, Entry.tier e, ⟨x.1, x.2.1, Entry.loc e x.2.1, 1, x.2.2.toNat⟩⟩

/-- An access of a root port goes to the ports of its homes, in a free time; what is the host's own is done at once. -/
def State.dmaSend (s : State) (d : Dma) : State × Dma :=
  let hs := s.dmaHits d
  let host := (hs.filter (·.el.host)).map (·.el)
  let s := if d.write then host.foldl (fun s e => s.poke e.loc (elBytes 1 e.data)) s else s
  let d := { d with begun := true, got := if d.write then [] else host.map fun e => ⟨e.idx, 1, s.mem.read e.loc 1, none⟩ }
  (groupHits (hs.filter fun h => !h.el.host)).foldl (fun p g => match g.head? with
    | some h =>
      let (id, s) := p.1.fresh
      let (n, s) := s.freeNat
      let t : Turn := ⟨h.home, 0, h.home, if d.write then .store else .load, g.map (·.el), .dma⟩
      ({ s with turns := tput s.turns id t }.toPort (n + 1) 5 id h.home, { p.2 with turns := p.2.turns ++ [id] })
    | none => p) (s, d)

/-- An access of a root port that is due begins; one to a die that is off waits for its exit (R364). -/
def State.dmaBegin (s : State) (d : Dma) : State × Dma :=
  if d.begun || decide (s.now < d.time) then (s, d)
  else match s.offHit (s.dmaHits d) with
    | some x =>
      let (n, s) := s.dieExit x
      (s, { d with time := s.now + Nat.max n 1 })
    | none => s.dmaSend d

/-- A home has served part of an access of a root port: the bytes it read, by number; an integrity failure puts the application's
partition into ERROR (R361). -/
def State.dmaTurn (s : State) (id : Nat) (t : Turn) (got : List Got) (bad : Option (Nat × Nat × Nat)) : State :=
  match s.dmas.find? (·.turns.contains id) with
  | some d =>
    let part := ((tget s.apps d.app).map (·.part)).getD 0
    let s := if (bad.map (·.2.1)).toList.contains 0x18 || got.any fun g => (g.bad.map (·.2)).toList.contains 0x18 then
        s.post 0 (.tdiError part) else s
    let got := (t.els.zip got).map fun x => { x.2 with loc := x.1.idx }
    { s with dmas := s.dmas.map fun y =>
        if y.turns.contains id then { y with turns := y.turns.filter (· != id), got := y.got ++ got } else y }
  | none => s

/-- The accesses of the root ports that homes have served end: a read takes the bytes with it that are good (R208 step 7). -/
def State.dmaDone (s : State) : State :=
  let ended (d : Dma) : Bool := d.begun && d.turns.isEmpty
  let bytes (d : Dma) : List Byte := (List.range d.bytes.length).filterMap fun i =>
    (d.got.find? fun g => g.loc == i && g.bad.isNone).map fun g => BitVec.ofNat 8 g.val
  { s with
    replies := s.replies ++ (s.dmas.filter fun d => ended d && !d.write).map fun d => .dma d.app (bytes d)
    dmas := s.dmas.filter fun d => !ended d }

/-- The accesses of the root ports that are due. -/
def State.dmaDue (s : State) : State :=
  let (s, ds) := s.dmas.foldl (fun (p : State × List Dma) d =>
    let (s, d) := p.1.dmaBegin d
    (s, p.2 ++ [d])) (s, [])
  { s with dmas := ds }.dmaDone

/-- The lowest failing address of the stores to one home (R208). -/
def State.storeFail (s : State) (g : List Hit) : Option Nat :=
  (g.foldl (fun f h => minFault f ((s.storeBad (h.tier ≤ 1) (g.map (·.el)) h.el).map (·, h.el.va))) none).map (·.2)

/-- Of the groups of a store, by home, the one with the lowest failing address. -/
def State.worstGroup (s : State) (gs : List (List Hit)) : Option (List Hit) :=
  (gs.foldl (fun b g => match s.storeFail g, b with
    | some a, some (c, h) => if a < c then some (a, g) else some (c, h)
    | some a, none => some (a, g)
    | none, _ => b) (none : Option (Nat × List Hit))).map (·.2)

/-- Send the requests of an access, d0 cycles from now. A store that fails is sent to the home of its lowest failing address
alone, and nothing of it is written (R208). -/
def State.sendAll (s : State) (k : Key) (serial : Nat) (op : MemOp) (hs : List Hit) (d0 : Nat := 0) : State × Nat :=
  let gs := groupHits hs
  let gs : List (List Hit) := match (if op = MemOp.store then s.worstGroup gs else none) with
    | some g => [g]
    | none => gs
  let rs := gs.filterMap fun g => g.head?.map fun h =>
    ({ core := k.1, slot := k.2, serial := serial, cid := (s.core k.1).cid, home := h.home, tier := groupTier g, op := op,
       els := g.map (·.el), vals := [], fault := none, flags := 0 } : Req)
  ((rs.mapIdx fun i r => (d0 + i, r)).foldl (fun s p => s.sendReq p.1 p.2) s, rs.length)

/-! ### Waits for earlier accesses (R214 to R216) -/

/-- Wake a thread whose condition has come to hold: a wait for beats or room of the streams it names ends with an issue in the first
turn after (R174); any other instruction is executed in this cycle (R90, R214). -/
def State.poll (s : State) (k : Key) : State :=
  match (s.thr k).pend with
  | some ⟨.retry code, t0, eu, n, due⟩ =>
    if code = 0 ∨ !(s.thr k).retryOk code then s
    else (s.updThr k fun t => { t with pend := some ⟨.retry 0, t0, eu, n, due⟩ }).post 0 (.waitTimeout k.1 k.2 n)
  | some ⟨.beats l, _, _, _, _⟩ => if (s.thr k).beatsOk l then s.again k else s
  | _ => s

/-- Do `go` once the condition holds; an instruction that waits for relaxed accesses takes a deferred fault (R214). -/
def drain (r : Run) (code : Nat) (s : State) (go : Act) : Act :=
  if r.t.retryOk code then
    match r.t.dfault with
    | f :: fs => if code.testBit 0 then
          .trapIn (causeOf f.1) (wordOf f.2.1) (s.updThr r.k fun t => { t with dfault := fs }) else go
    | [] => go
  else .wait (.retry code) 0 s

/-- What ORD and OBS add to a wait (R215, R318). -/
def ordCode (ord : Ord4) (obs : BitVec 5) : Nat :=
  if ord = .plain then 0 else 1 + (if obs.getLsbD 3 then 4 else 0) + (if obs.getLsbD 4 then 8 else 0)

/-! ### Walks (R205) -/

/-- Start a walk: up to 512 run at once on a die, the rest wait in order. -/
def State.startWalk (s : State) (k : Key) (va : Nat) : State :=
  let d := dieOf k.1
  let (id, s) := s.fresh
  let n := (s.die d).walks.length
  let s := s.updDie d fun x => { x with walks := x.walks ++ [⟨id, (s.core k.1).cid, va, k.1, k.2⟩] }
  if n < 512 then s.postFree 1 (.translationWalk d id) else s

/-- The trap of a failed check, or the wait for a walk. -/
def Chk.go (c : Chk) (r : Run) (s : State) (f : List Hit → List DecE → Act) : Act :=
  match c with
  | .ok h d => f h d
  | .fault _ c va => .trap c (wordOf va)
  | .walk va => .wait .walk 0 (s.startWalk r.k va)

/-! ### Plain and relaxed accesses -/

/-- Add to the latency of what an access comes to. -/
def Act.withLat (l : Nat) : Act → Act
  | .done c s => .done { c with lat := c.lat + l } s
  | a => a

/-- Whether an access is one request to the running core's own idle slice port. -/
def State.localHit (s : State) (k : Key) (hs : List Hit) : Bool :=
  hs.all (fun h => h.home == k.1 && h.tier == 0) && (s.core k.1).homeQ.isEmpty && decide ((s.core k.1).portFree ≤ s.now)

/-- An access served by the own idle slice at once: its answer, the state, its latency (R19). -/
def localServe (r : Run) (op : MemOp) (els : List Elem) (s : State) : MemW × State × Nat :=
  let q : Req := ⟨r.k.1, r.k.2, r.n, (s.core r.k.1).cid, r.k.1, 0, op, els, [], none, 0, false, false, false⟩
  let l := s.sliceWait q
  let (s, q) := s.serve q (fun _ => l)
  (⟨0, q.vals, q.fault, q.flags⟩,
    s.updCore r.k.1 fun c => { c with portFree := s.now + holdCycles q, lastIn := 0 }, l)

/-- A plain access: at the own idle slice at once, else by requests and a wait. -/
def access (r : Run) (kind : MemK) (op : MemOp) (hs : List Hit) (fin : MemW → State → Act) (s : State) : Act :=
  if hs.isEmpty then fin ⟨0, [], none, 0⟩ s
  else if s.localHit r.k hs then
    let (w, s, l) := localServe r op (hs.map (·.el)) s
    (fin w s).withLat l
  else
    let (s, n) := (s.past r.n).sendAll r.k r.n op hs
    .wait (.mem kind ⟨n, [], none, 0⟩) 0 s

/-- A relaxed access: sent, and the thread goes on (R214). -/
def relaxed (r : Run) (kind : MemK) (op : MemOp) (hs : List Hit) (s : State) : Act :=
  drain r 2 s (
    let s := (s.past r.n).updThr r.k fun t => { t with rlx := t.rlx ++ [⟨r.n, kind, ⟨(groupHits hs).length, [], none, 0⟩⟩] }
    let (s, n) := s.sendAll r.k r.n op hs
    .done {} (s.updThr r.k fun t =>
      { t with rlx := t.rlx.map fun x => if x.serial = r.n then { x with w := { x.w with left := n } } else x }))

/-- Whether a register is a source or a destination of a valid clause (R214). -/
def Thread.inClause (t : Thread) (r : GReg) : Bool :=
  (List.range 8).any fun i => match t.clause i with
    | some c => c.dst == r || c.srcs.contains r
    | none => false

/-- A checked access of R210: relaxed under RX unless a clause uses a destination (R214), else after its waits (R215). -/
def proceed (r : Run) (rx : Bool) (ord : Ord4) (obs : BitVec 5) (kind : MemK) (op : MemOp) (hs : List Hit)
    (fin : MemW → State → Act) (s : State) : Act :=
  let held := match kind with
    | .ld _ _ ds _ => ds.any r.t.inClause
    | _ => false
  if rx && !held && !hs.isEmpty then
    (if ord = .plain then relaxed r kind op hs s else drain r (ordCode ord obs) s (relaxed r kind op hs s))
  else drain r (1 ||| ordCode ord obs) s (access r kind op hs fin s)

/-! ### Answers -/

def MemW.add (w : MemW) (q : Req) : MemW :=
  { left := w.left - 1, vals := q.vals.foldl (fun v x => tput v x.1 x.2) w.vals, fault := minFault w.fault q.fault,
    flags := w.flags ||| q.flags }

/-- The registers a finished relaxed access writes and its flags, or its fault kept for later (R214). -/
def rlxDone (k : Key) (x : Rlx) (fin : MemW → State → Act) (s : State) : State :=
  let t := s.thr k
  let specs := specsOf x.kind
  let keep (f : Nat × Nat) : State :=
    s.setThr k { t with dfault := t.dfault ++ [(f.1, f.2, if t.waitsFor specs then faultMark :: specs else specs)] }
  match x.w.fault with
  | some f => keep f
  | none =>
    match fin x.w s with
    | .done c s' => if t.fpTraps c.flags then keep (0x0C, c.flags.toNat) else s'.setThr k (c.apply (s'.thr k))
    | _ => s

/-- Whether a request is a relaxed access of its thread (R316). -/
def State.isRlx (s : State) (r : Req) : Bool := (s.thr (r.core, r.slot)).rlx.any (·.serial == r.serial)

/-- The answer of a request reaches its thread: a waiting thread ends its instruction with the last answer; a relaxed access
has then been performed. -/
def State.deliver (s : State) (id : Nat) (q : Req) (fin : Key → MemK → MemW → State → Act) : State :=
  let k : Key := (q.core, q.slot)
  let s := { s with reqs := tdel s.reqs id }
  let t := s.thr k
  if (s.core q.core).cid ≠ q.cid then s
  else match t.rlx.find? (·.serial == q.serial) with
  | some x =>
    let x := { x with w := x.w.add q }
    if x.w.left = 0 then
      let s := s.setThr k { t with rlx := t.rlx.filter (·.serial != q.serial) }
      rlxDone k x (fun w s => fin k x.kind w s) s
    else s.setThr k { t with rlx := t.rlx.map fun y => if y.serial = q.serial then x else y }
  | none =>
    match t.pend with
    | some ⟨.mem kind w, t0, eu, serial, due⟩ =>
      if serial = q.serial then
        let w := w.add q
        if w.left = 0 then s.resume k false ((fin k kind w s).withLat (s.cyc (dieOf k.1) - t0))
        else s.setThr k { t with pend := some ⟨.mem kind w, t0, eu, serial, due⟩ }
      else s
    | _ => s

end Sys2Proof.Machine
end

