-- ==== Sys2Proof/Machine/Buffers.lean ====
section
/-! DEFINITION. Typed-buffer accesses (R181 to R189): bounds and agents, reads and writes, the zero bitmap, latency, and the
held tile of the matrix unit (R253). A space is 1 W, 2 A, 3 C or 5 zmap. -/

namespace Sys2Proof.Machine

def CCtx.buf (x : CCtx) (sp : Nat) : Mem :=
  match sp with
  | 1 => x.w
  | 2 => x.a
  | 3 => x.c
  | _ => x.z

def CCtx.setBuf (x : CCtx) (sp : Nat) (m : Mem) : CCtx :=
  match sp with
  | 1 => { x with w := m }
  | 2 => { x with a := m }
  | 3 => { x with c := m }
  | _ => { x with z := m }

/-- The size of a space (R182). -/
def CCtx.size (x : CCtx) (sp : Nat) : Nat := if sp = 5 then bufSize x 1 / 16 else bufSize x (sp - 1)

/-- The agents of R183. -/
inductive Agent
  | thread | copy | ellipsis | matrix
  deriving DecidableEq, Repr

/-- Whether an agent may read or write a space (R183). -/
def agentOk (a : Agent) (sp : Nat) (store : Bool) : Bool :=
  match a, sp with
  | .thread, 1 => !store
  | .thread, _ => sp == 2 || sp == 3 || sp == 5
  | .copy, 3 => !store
  | .copy, _ => sp == 1 || sp == 2
  | .ellipsis, _ => sp == 2
  | .matrix, _ => sp == 3

/-- Inside the grant, the address a signed 64-bit value (R182). -/
def CCtx.inside (x : CCtx) (sp : Nat) (e : Int) (n : Nat) : Bool := decide (0 ≤ e) && decide (e + n ≤ x.size sp)

/-- Port width in bytes (R181, R184). -/
def portWidth (sp : Nat) : Nat := if sp = 2 then 128 else if sp = 5 then 8 else 256

/-- Latency of a thread's access of n bytes on an idle port (R184). -/
def bufLat (sp n : Nat) : Nat := 2 + (n + portWidth sp - 1) / portWidth sp

/-- The bitmap bits of the halfwords that n bytes at o touch (R188). -/
def zmapBits (a z : Mem) (o n : Nat) : Mem :=
  ((List.range ((o + n + 1) / 2 - o / 2)).map (· + o / 2)).foldl (fun z h =>
    let b := (z.get (h / 8)).toNat
    let b := b - (b / 2 ^ (h % 8) % 2) * 2 ^ (h % 8) + (if a.read (2 * h) 2 = 0 then 0 else 2 ^ (h % 8))
    z.set (h / 8) (BitVec.ofNat 8 b)) z

/-- A write inside the interval of the held tile invalidates it (R253). -/
def MatUnit.written (m : MatUnit) (lo n : Nat) : MatUnit :=
  if lo < m.caddr + (m.tm - 1) * m.cstride + 4 * m.tn ∧ m.caddr < lo + n then { m with valid := false } else m

/-- Write bytes into a space of a context on a core. -/
def State.bufWrite (s : State) (core cid sp off : Nat) (bs : List Byte) : State :=
  s.updCore core fun c =>
    let c := c.updCtx cid fun x => x.setBuf sp ((x.buf sp).writeBytes off bs)
    if sp = 3 ∧ c.run = some cid then { c with mat := c.mat.written off bs.length } else c

/-- `.zb`: the bits of the bytes just written (R188). -/
def State.bufZb (s : State) (core cid off n : Nat) : State :=
  s.updCore core fun c => c.updCtx cid fun x => { x with z := zmapBits x.a x.z off n }

/-- A thread's check of one element of a space (R208 steps 1 and 2); the address as a signed value orders the faults. -/
def bufChk (x : CCtx) (sp : Nat) (store : Bool) (n va : Nat) : Option (Nat × Cause × Nat) :=
  if va % n ≠ 0 then some (1, .misaligned, va)
  else if agentOk .thread sp store && x.inside sp (Num.sgn 64 va) n then none
  else some (2, .bufferPermission, va)

/-- The first fault over elements (number, address) of n bytes: by step and signed address, or by lane. -/
def bufFault (x : CCtx) (sp : Nat) (store bylane : Bool) (n : Nat) (els : List (Nat × Nat)) : Option (Cause × Nat) :=
  match els.filterMap fun e => bufChk x sp store n e.2 with
  | [] => none
  | f :: fs =>
    let key (f : Nat × Cause × Nat) : Nat × Cause × Nat := (f.1, f.2.1, (f.2.2 + 2 ^ 63) % 2 ^ 64)
    let b := if bylane then f else fs.foldl (fun b g => if faultBefore (key g) (key b) then g else b) f
    some (b.2.1, b.2.2)

/-- A thread's load of elements from a space: the values by element number. -/
def bufVals (x : CCtx) (sp n : Nat) (els : List (Nat × Nat)) : Tab Nat :=
  els.foldl (fun v e => tput v e.1 ((x.buf sp).read e.2 n)) []

/-- A thread's store of elements, in order (R213), with the bitmap under `.zb` (R188). -/
def State.bufStore (s : State) (core sp n : Nat) (zb : Bool) (els : List (Nat × Nat)) (data : Nat → Nat) : State :=
  let cid := (s.core core).cid
  els.foldl (fun s e =>
    let s := s.bufWrite core cid sp e.2 (elBytes n (data e.1))
    if zb then s.bufZb core cid e.2 n else s) s

def Space.spc (x : Space) : Nat := x.code

end Sys2Proof.Machine
end

