-- ==== Sys2Proof/Machine/Streams.lean ====
section
/-! DEFINITION. Stream registers (R167 to R180): element addresses, the stream unit's reads and writes, faults, and the
instructions `SCFG`, `SSTART`, `SSTOP` and `SSTAT`. -/

namespace Sys2Proof.Machine

/-- The stream of a v register; only v8 to v15 can hold one. -/
def Thread.stream (t : Thread) (v : VReg) : Option Stream := if v.val < 8 then none else vget t.str (v.val - 8) none

def Thread.setStream (t : Thread) (v : VReg) (x : Option Stream) : Thread := { t with str := vset t.str (v.val - 8) x }

def vSpecN (v : VReg) : Nat := 32 + v.val

/-- The v register of a number 8 to 15. -/
def vhi (d : Fin 8) : VReg := ⟨8 + d.val, by omega⟩

/-! ### Engine reads and writes of one element -/

/-- What an engine's or a stream's element access comes to: value, or a fault code of R208 (0x05 to 0x18). -/
inductive ElR
  | ok (v : Nat)
  | fault (code : Nat)
  deriving DecidableEq, Repr

/-- A raw read through a leaf; step 7 of R208. -/
def State.rawRead (s : State) (e : Entry) (va n : Nat) : ElR :=
  match s.badAt (Entry.loc e va) n with
  | some c => .fault c
  | none => .ok (s.mem.read (Entry.loc e va) n)

/-- The leaf of a sidecar (R208 step 6, as steps 3 and 4), or the code of its fault. -/
def State.sideLeaf (s : State) (core cid : Nat) (keys : List Nat) (task : Bool) (va : Nat) : Except Nat Entry :=
  match s.transEng core cid va with
  | .absent => .error 0x05
  | .leaf e => if permitted keys .load task e then .ok e else .error 0x06

/-- The leaf and the address of the scale of a block element (R71), for a context. -/
def State.scaleOf (s : State) (core cid : Nat) (keys : List Nat) (task : Bool) (e : Entry) (f : ETy) (va : Nat) :
    Except Nat (Entry × Nat × Nat) :=
  let (x, n) := scaleAt (s.ctx (dieOf core) cid).scb (Entry.sidx e) f (va % 2 ^ 16 * 8 / f.bits / blockSize f)
  (s.sideLeaf core cid keys task (x % 2 ^ 48)).map (·, x % 2 ^ 48, n)

/-- The formats a stream decodes: elements of 8 bits or wider, and of the block formats only B8I (R171). -/
def streamFmt (f : ETy) : Bool := decide (8 ≤ f.bits) && (!isBlockTy f || f == .b8i)

/-- One element of type t at va for a context, read and decoded as `VLD` reads it (R171, R206); `ok` says which page formats
decode. -/
def State.elemRead (s : State) (core cid : Nat) (keys : List Nat) (task : Bool) (ok : ETy → Bool) (t : ETy) (va : Nat) : ElR :=
  match s.transEng core cid va with
  | .absent => .fault 0x05
  | .leaf e =>
    if !permitted keys .load task e then .fault 0x06
    else match pageMeets e t false, ETy.ofCode (Entry.fmt e) with
    | .raw, _ => s.rawRead e va (t.bits / 8)
    | .decoded, some f =>
      if !ok f then .fault 0x07
      else if isBlockTy f then
        (match s.scaleOf core cid keys task e f va with
         | .error c => .fault c
         | .ok (l, x, n) =>
           match s.rawRead e va (f.bits / 8), s.rawRead l x n with
           | .ok b, .ok h => .ok (Num.decodeEl f t b h 0).r
           | .fault c, .ok _ | .ok _, .fault c => .fault c
           | .fault c, .fault d => .fault (if x < va then d else c))
      else match s.rawRead e va (f.bits / 8) with
        | .fault c => .fault c
        | .ok b => .ok (Num.decodeEl f t b 0 0).r
    | _, _ => .fault 0x07

/-- Where one element of type t is stored raw at va for a context (R206), or the code of the fault (R208 steps 3 to 5). -/
def State.elemStore (s : State) (core cid : Nat) (keys : List Nat) (task : Bool) (t : ETy) (q va v : Nat) : Except Nat Hit :=
  match s.transEng core cid va with
  | .absent => .error 0x05
  | .leaf e =>
    if !permitted keys .store task e then .error 0x06
    else if pageMeets e t true ≠ .raw then .error 0x07
    else .ok ⟨Entry.homeCore e va, Entry.tier e, ⟨q, va, Entry.loc e va, t.bits / 8, v⟩⟩

/-! ### Elements of a stream (R170) -/

/-- The offset of element q over the dimensions from i on. -/
def Stream.offset (x : Stream) : Nat → Nat → Nat → Int
  | 0, _, _ => 0
  | n + 1, i, q => (q % Nat.max (x.count i) 1 : Nat) * x.stride i + x.offset n (i + 1) (q / Nat.max (x.count i) 1)

/-- The address of element q: modulo 2^48 in the global space, a signed offset in a buffer. -/
def Stream.addr (x : Stream) (q : Nat) : Int :=
  let a : Int := x.base + x.offset x.ndim 0 q
  if x.space = 0 then a % 2 ^ 48 else a

/-- The stream unit reads element q (R171). -/
def State.streamRead (s : State) (k : Key) (x : Stream) (q : Nat) : ElR :=
  let a := x.addr q
  let cid := (s.core k.1).cid
  let w := s.who k
  if x.space = 0 then s.elemRead k.1 cid w.keys w.task streamFmt x.ety a.toNat
  else
    let c := (s.core k.1).ctx cid
    let n := x.ety.bits / 8
    if agentOk .thread x.space.val false && c.inside x.space.val a n then .ok ((c.buf x.space.val).read a.toNat n)
    else .fault 0x13

/-- The stream unit writes an element (R171): an access of global memory that is to be made, or the state in which the element is
written. -/
def State.streamWrite (s : State) (k : Key) (x : Stream) (e : SEl) : Except Nat (State × Option Hit) :=
  let a := x.addr e.q
  let cid := (s.core k.1).cid
  let w := s.who k
  if !e.act then .ok (s, none)
  else if x.space = 0 then
    (s.elemStore k.1 cid w.keys w.task x.ety e.q a.toNat e.val.toNat).map fun h => (s, some h)
  else
    let c := (s.core k.1).ctx cid
    let n := x.ety.bits / 8
    if agentOk .thread x.space.val true && c.inside x.space.val a n then
      .ok (s.bufWrite k.1 cid x.space.val a.toNat (elBytes n e.val.toNat), none)
    else .error 0x13

/-- An address as a 48-bit field of a `%tval`, and as the 52 bits whose upper 48 a tag's status word holds (R219). -/
def addr48 (a : Int) : Nat := (a % 2 ^ 48).toNat
def addr52 (a : Int) : Nat := (a % 2 ^ 52).toNat

/-! ### The stream unit's steps -/

def State.setStream (s : State) (k : Key) (v : VReg) (x : Option Stream) : State := s.updThr k (·.setStream v x)

def hiOf (v : VReg) : Fin 8 := ⟨v.val % 8, Nat.mod_lt _ (by decide)⟩

/-- Whether an ARMED input stream has elements to prefetch: up to four beats, never beyond T, stopping at a fault. -/
def Stream.wantsRead (x : Stream) : Bool :=
  !x.out && (x.st == .armed) && !x.busy && decide (x.pos + x.held.length < x.total) && decide (x.held.length ≤ 3 * x.beat) &&
    !x.held.any (·.fault.isSome)

def Stream.wantsWrite (x : Stream) : Bool := x.out && (x.st == .armed) && !x.busy && !x.held.isEmpty

/-- Set the unit going on a stream, if it has work (R174). -/
def State.kick (s : State) (k : Key) (v : VReg) : State :=
  match (s.thr k).stream v with
  | none => s
  | some x =>
    if x.wantsRead then (s.setStream k v (some { x with busy := true })).postFree 1 (.streamPrefetch k.1 k.2 (hiOf v))
    else if x.wantsWrite then
      (s.setStream k v (some { x with busy := true })).postFree 1 (.streamElementWrite k.1 k.2 (hiOf v))
    else s

/-- Elements from q on, up to n, until one faults. -/
def State.readBeat (s : State) (k : Key) (x : Stream) : Nat → Nat → List SEl
  | _, 0 => []
  | q, n + 1 =>
    match s.streamRead k x q with
    | .ok v => ⟨q, BitVec.ofNat 32 v, true, none⟩ :: s.readBeat k x (q + 1) n
    | .fault c => [⟨q, 0, true, some (c, addr48 (x.addr q))⟩]

/-- What a read of n elements of a stream from q on takes from global memory: the elements and their scales (R174, R18). -/
def State.streamReads (s : State) (k : Key) (x : Stream) (q n : Nat) : List Hit :=
  let cid := (s.core k.1).cid
  let w := s.who k
  if x.space ≠ 0 then []
  else (List.range n).flatMap fun i =>
    let va := (x.addr (q + i)).toNat
    match s.transEng k.1 cid va with
    | .leaf l =>
      let hit (l : Entry) (va n : Nat) : Hit := ⟨Entry.homeCore l va, Entry.tier l, ⟨q + i, va, Entry.loc l va, n, 0⟩⟩
      (match pageMeets l x.ety false, ETy.ofCode (Entry.fmt l) with
       | .decoded, some f => hit l va (f.bits / 8) ::
           (if isBlockTy f then match s.scaleOf k.1 cid w.keys w.task l f va with
            | .ok (m, y, n) => [hit m y n]
            | .error _ => [] else [])
       | _, _ => [hit l va (x.ety.bits / 8)])
    | .absent => []

/-- A prefetch: its homes read the beat in their turns (R18); then it arrives, or its fault is held (R174, R178). -/
def execStreamPrefetch (core slot : Nat) (reg : Fin 8) (s : State) : Host.Outcome State Fault Refusal :=
  let k : Key := (core, slot)
  let v := vhi reg
  .next (match (s.thr k).stream v with
    | some x =>
      let x' := { x with busy := false, got := [] }
      if !x.turns.isEmpty then s
      else if x'.wantsRead then
        let q := x.pos + x.held.length
        let n := min x.beat (x.total - q)
        let hs := s.streamReads k x q n
        match s.offHit hs, unread x.got hs with
        | some d, _ => s.awaitDie d (.streamPrefetch core slot reg)
        | none, h :: hs =>
          let (s, ids) := s.askPort core (s.core core).cid 1 .load (h :: hs) (.stream core slot reg)
          s.setStream k v (some { x with busy := true, turns := ids })
        | none, [] =>
          let els := (s.seeing x.got).readBeat k x' q n
          let s := s.hurt (dieOf core) (s.core core).cid ((els.findSome? (·.fault)).map (·.1))
          ((s.setStream k v (some { x' with held := x.held ++ els })).kick k v).poll k
      else s.setStream k v (some x')
    | none => s)

/-- The element that the unit writes next, in no defined order, but of one address the earliest (R179). -/
def Stream.choose (x : Stream) (j : Nat) : Option SEl :=
  match x.held[j % x.held.length]? with
  | some e => x.held.find? fun f => x.addr f.q == x.addr e.q
  | none => none

/-- A stream whose write of an element has failed (R178). -/
def State.streamFails (s : State) (k : Key) (v : VReg) (x : Stream) (e : SEl) (f : Nat × Nat) : State :=
  ((s.hurt (dieOf k.1) (s.core k.1).cid (some f.1)).setStream k v (some
    { x with st := .faulted, told := false, held := { e with fault := some f } :: x.held.filter (·.q != e.q) })).poll k

/-- The unit writes a buffered output element, in the turn of its home (R18), or the stream becomes FAULTED (R174, R178). -/
def execStreamElementWrite (core slot : Nat) (reg : Fin 8) (s : State) : Host.Outcome State Fault Refusal :=
  let k : Key := (core, slot)
  let v := vhi reg
  .next (match (s.thr k).stream v with
    | some x =>
      let x' := { x with busy := false, pick := none }
      let wrote (s : State) (q : Nat) : State := ((s.setStream k v (some { x' with held := x.held.filter (·.q != q) })).kick k v).poll k
      if !x.turns.isEmpty then s
      else if x'.wantsWrite then
        match x.pick.bind fun q => x.held.find? (·.q == q) with
        | some e =>
          (match e.fault with
           | some f => s.streamFails k v x' e f
           | none => wrote s e.q)
        | none =>
          let (j, s) := s.freeNat
          match x'.choose j with
          | none => s.setStream k v (some x')
          | some e =>
            match s.streamWrite k x e with
            | .error c => s.streamFails k v x' e (c, addr48 (x.addr e.q))
            | .ok (u, none) => wrote u e.q
            | .ok (_, some h) =>
              match s.offHit [h] with
              | some d => s.awaitDie d (.streamElementWrite core slot reg)
              | none =>
                if 2 ≤ h.tier then wrote (s.wr h.home h.el.loc 0 (elBytes h.el.n h.el.data)) e.q
                else
                  let (s, ids) := s.askPort core (s.core core).cid 1 .store [h] (.stream core slot reg)
                  s.setStream k v (some { x with busy := true, turns := ids, pick := some e.q })
      else (s.setStream k v (some x')).poll k
    | none => s)

/-! ### Operands that name a stream (R167, R172, R178) -/

def illegalOp (pos spec : Nat) : Act := .trap .illegalOperand (wordOf (pos * 256 + spec))

/-- The `%tval` of STREAM_FAULT. -/
def sfVal (f : Nat × Nat) : Word := wordOf (f.1 * 2 ^ 48 + f.2)

/-- The write of the failed element of a FAULTED stream by the instruction that names it (R178): made at once, its access holding its
home's port in its turn (notes/assumptions/97, DESIGN CHOICE). -/
def State.streamStore (s : State) (k : Key) (x : Stream) (e : SEl) : Except Nat State :=
  match s.streamWrite k x e with
  | .error c => .error c
  | .ok (u, none) => .ok u
  | .ok (u, some h) =>
    match u.storeBad (h.tier ≤ 1) [h.el] h.el with
    | some c => .error c
    | none => .ok ((u.enginePort k.1 (u.core k.1).cid 1 .store [h]).wr h.home h.el.loc 0 (elBytes h.el.n h.el.data))

/-- An instruction that names a FAULTED stream (R178): it traps; executed again, it first writes the held elements, starting
with the failed one, and traps again where that fails. The unit writes the others; the instruction then goes on. -/
def faultedStream (r : Run) (v : VReg) (x : Stream) (s : State) : Act :=
  let trap (f : Nat × Nat) : Act :=
    .trapIn .streamFault (sfVal f) (s.setStream r.k v (some { x with told := true }))
  match x.held with
  | [] => trap (0, 0)
  | e :: es =>
    if x.told then
      match s.streamStore r.k x e with
      | .ok s =>
        .wait (.retry (2 ^ (64 + (hiOf v).val))) 0
          ((s.setStream r.k v (some { x with st := .armed, told := false, busy := true, held := es })).postFree 1
            (.streamElementWrite r.k.1 r.k.2 (hiOf v)))
      | .error c => .trapIn .streamFault (sfVal (c, addr48 (x.addr e.q)))
          ((s.hurt (dieOf r.k.1) (s.core r.k.1).cid (some c)).setStream r.k v (some { x with told := true }))
    else trap (e.fault.getD (0, 0))

/-- v operands of an instruction that allows no stream there, as (position, register), in position order (R167). -/
def noStreams (r : Run) (vs : List (Nat × VReg)) (s : State) (go : Act) : Act :=
  match vs.findSome? fun p => (r.t.stream p.2).map fun x => (p, x) with
  | none => go
  | some (p, x) => if x.st = .faulted then faultedStream r p.2 x s else illegalOp p.1 (vSpecN p.2)

/-! ### The instructions -/

/-- Streams bound in a thread. -/
def Thread.boundStreams (t : Thread) : Nat := (t.str.toList.filter (·.isSome)).length

/-- Steps 6 and 7 of R169, and the CONFIGURED stream. -/
def finScfg (k : Key) (d : Fin 8) (out : Bool) (ety : ETy) (space ndim : Fin 4) (a : GReg) (w : MemW) (s : State) : Act :=
  match w.fault with
  | some (code, va) => .trap (causeOf code) (wordOf va)
  | none =>
    let q (i : Nat) : Nat := (tget w.vals i).getD 0
    let desc := BitVec.ofNat 256 (q 0 + 2 ^ 64 * q 1 + 2 ^ 128 * q 2 + 2 ^ 192 * q 3)
    let x : Stream := ⟨.configured, out, ety, space, ndim.val + 1, desc, 0, [], false, false, [], [], none⟩
    let unused := (List.range 4).filter (x.ndim ≤ ·)
    if desc.extractLsb' 48 16 ≠ 0 ∨ unused.any (fun i => x.count i != 0 || x.stride i != 0) then
      .trap .illegalOperand (wordOf (0x0100 + a.val))
    else if x.base % (ety.bits / 8) ≠ 0 ∨ (List.range x.ndim).any (fun i => x.stride i % ((ety.bits / 8 : Nat) : Int) != 0) then
      .trap .misaligned (wordOf x.base)
    else .done {} (s.setStream k (vhi d) (some x))

/-- `SCFG` (R169). -/
def execScfg (gd : Guard) (out : Bool) (ety : ETy) (space ndim : Fin 4) (d : VReg) (a : GReg) (b : OpB) (s : State) :
    Host.Outcome State Fault Refusal :=
  issue (.scfg gd out ety space ndim d a b) gd 24 (heavyOnly fun r s =>
    let va := (memAddr r.t a b).toNat
    if d.val < 8 ∨ (r.t.stream d).isSome ∨ r.t.boundStreams ≥ 4 then .trap .illegalOperand (wordOf (vSpecN d))
    else if out ∧ space = 1 then .trap .bufferPermission 1
    else if va % 32 ≠ 0 then .trap .misaligned (wordOf va)
    else
      let kind := MemK.scfg (hiOf d) out ety space ndim a
      let w := s.who r.k
      (Chk.all false ((List.range 4).map fun i => s.elemChk w .load .int64 8 false i ((va + 8 * i) % 2 ^ 64) 0)).go r s
        fun hs _ => drain r 1 s (access r kind .load hs (finScfg r.k (hiOf d) out ety space ndim a) s)) s

/-- `SSTART` (R175). -/
def execSstart (gd : Guard) (d : Fin 8) (s : State) : Host.Outcome State Fault Refusal :=
  issue (.sstart gd d) gd 4 (heavyOnly fun r s =>
    match r.t.stream (vhi d) with
    | none => .trap .illegalOperand (wordOf (vSpecN (vhi d)))
    | some x =>
      if x.st = .faulted then faultedStream r (vhi d) x s
      else drain r (1 + (if x.out then 2 ^ (64 + d.val) else 0)) s (
        .done {} ((s.setStream r.k (vhi d) (some
          { x with st := .armed, pos := 0, held := [], told := false, busy := false, turns := [], got := [], pick := none })).kick
          r.k (vhi d)))) s

/-- `SSTOP` (R176). -/
def execSstop (gd : Guard) (d : Fin 8) (s : State) : Host.Outcome State Fault Refusal :=
  issue (.sstop gd d) gd 4 (heavyOnly fun r s =>
    match r.t.stream (vhi d) with
    | none => .done {} s
    | some x =>
      if x.st = .faulted then faultedStream r (vhi d) x s
      else drain r (if x.out then 2 ^ (64 + d.val) else 0) s (
        .done { v := [(vhi d, 0)] } (s.setStream r.k (vhi d) none))) s

/-- The state word of `SSTAT.st` (R177). -/
def Stream.word (x : Stream) : Nat :=
  let st := match x.st with
    | .configured => 1
    | .armed => 2
    | .faulted => 3
  (x.held.length + x.beat - 1) / x.beat * 2 ^ 16 + x.out.toNat * 2 ^ 15 + x.ety.code * 2 ^ 10 + x.space.val * 2 ^ 7 +
    (x.ndim - 1) * 2 ^ 5 + st

/-- `SSTAT` (R177). -/
def execSstat (gd : Guard) (what : StatV) (d : GReg) (a : Fin 8) (s : State) : Host.Outcome State Fault Refusal :=
  issue (.sstat gd what d a) gd 4 (heavyOnly fun r s =>
    .writeG d (match r.t.stream (vhi a) with
      | none => 0
      | some x => match what with
        | .rem => wordOf (x.total - x.pos)
        | .pos => wordOf x.pos
        | .st => wordOf x.word) s) s

end Sys2Proof.Machine
end

