-- ==== Sys2Proof/Machine/Memory.lean ====
section
/-! DEFINITION. The loads and stores and `FENCE`, opcodes 0x80 to 0x87 and 0x89 (R210 to R216). -/

namespace Sys2Proof.Machine

/-- A step-7 fault of an access (R208), or what its answer comes to. -/
def MemW.fin (w : MemW) (f : Act) : Act :=
  match w.fault with
  | some (code, va) => .trap (causeOf code) (wordOf va)
  | none => f

/-- Element j of a decoded or raw answer, with its flags (R206); an element of less than 8 bits may lie in two bytes (R66). -/
def decOf (ety : ETy) (vals : Tab Nat) (d : DecE) : Num.Res :=
  let u (i : Nat) : Nat := (tget vals i).getD 0
  let v := u d.src + (if d.fmt.bits < 8 then 256 * u (d.src + 1) else 0)
  Num.decodeEl d.fmt ety ((v >>> d.shift) % 2 ^ d.fmt.bits)
    ((d.scale.bind (tget vals)).getD 0) ((d.super.bind (tget vals)).getD 0)

/-- Results by element number: the raw elements, below the numbers of decoded units and sidecar reads, and the decoded ones. -/
def resultsOf (ety : ETy) (dec : List DecE) (vals : Tab Nat) : List (Nat × Num.Res) :=
  let raw := vals.filter fun v => decide (v.1 < 2 ^ 19) && !dec.any fun d => d.src == v.1
  raw.map (fun v => (v.1, plainRes v.2)) ++ dec.map (fun d => (d.out, decOf ety vals d))

/-- The end of a scalar load: `place` and one commit (R211). -/
def finLd (sx : Bool) (ety : ETy) (ds : List GReg) (dec : List DecE) (w : MemW) (s : State) : Act :=
  w.fin (
    let rs := resultsOf ety dec w.vals
    let v (i : Nat) : Nat := ((rs.find? (·.1 == i)).map (·.2.r)).getD 0
    .done { g := ds.mapIdx fun i d => (d, placeLd sx ety (v i)), flags := unionF (rs.map (·.2)) } s)

/-- The end of a vector load: only active elements are written (R212). -/
def finVld (d : VReg) (ety : ETy) (dec : List DecE) (k : Key) (w : MemW) (s : State) : Act :=
  w.fin (
    let rs := resultsOf ety dec w.vals
    let n := elems ety.bits
    let xs := (List.range n).map fun i => (rs.find? (·.1 == i)).map (·.2.r)
    .done { v := [(d, vmerge ety.bits ((s.thr k).rv d) xs)], flags := unionF (rs.map (·.2)) } s)

def finStore (w : MemW) (s : State) : Act := w.fin (.done {} s)

/-- A relaxed access to a typed buffer, sent (R214, R316): its elements (number, address), n bytes each. It takes its time of R184 and
is performed then or later, as one to a home is (`State.answer`). -/
def State.sendBuf (s : State) (r : Run) (kind : MemK) (op : MemOp) (sp n : Nat) (els : List (Nat × Nat)) (data : Nat → Nat) : State :=
  let (id, s) := (s.past r.n).fresh
  let q : Req := { core := r.k.1, slot := r.k.2, serial := r.n, cid := (s.core r.k.1).cid, home := r.k.1, tier := 0, op := op,
                   els := els.map fun e => (⟨e.1, e.2, e.2, n, data e.1⟩ : Elem), vals := [], fault := none, flags := 0 }
  let s := s.updThr r.k fun t => { t with rlx := t.rlx ++ [⟨r.n, kind, ⟨1, [], none, 0⟩⟩] }
  { s with reqs := tput s.reqs id q }.post (bufLat sp (n * els.length)) (.relaxedAccessPerformed id)

/-- A checked access to a typed buffer that comes to `go`: under RX relaxed, unless it touches no element or a clause uses a
destination (R214), else after its waits (R215). -/
def proceedBuf (r : Run) (x : MemX) (held : Bool) (kind : MemK) (op : MemOp) (n : Nat) (els : List (Nat × Nat)) (data : Nat → Nat)
    (s : State) (go : Act) : Act :=
  if x.rx && els.isEmpty then go
  else if x.rx && !held then
    drain r (if x.ord = .plain then 2 else ordCode x.ord x.obs ||| 2) s (.done {} (s.sendBuf r kind op x.space.code n els data))
  else drain r (1 ||| ordCode x.ord x.obs) s go

/-- `LD` and `LDP` (R211). -/
def loadBody (sx : Bool) (x : MemX) (ds : List GReg) (a : GReg) (b : OpB) (r : Run) (s : State) : Act :=
  match r.t.firstBound ds with
  | some g => .trap .boundWrite (wordOf g.val)
  | none =>
    let va := (memAddr r.t a b).toNat
    let n := x.ety.bits / 8
    let e := ds.length
    match x.space with
    | .glob =>
      let w := s.who r.k
      let c := match s.trans r.k (va % 2 ^ 48) with
        | .leaf l => if pageMeets l x.ety false = FmtK.decoded then
              s.runChk w .load x.ety n e va (List.range e) (fun _ => 0)
            else splitPair' n e (s.elemChk w .load x.ety (n * e) false 0 va 0)
        | _ => splitPair' n e (s.elemChk w .load x.ety (n * e) false 0 va 0)
      c.go r s fun hs dec =>
        proceed r x.rx x.ord x.obs (.ld sx x.ety ds dec) .load hs (finLd sx x.ety ds dec) s
    | sp =>
      let c := (s.core r.k.1).ctx (s.core r.k.1).cid
      match bufFault c sp.code false false (n * e) [(0, va)] with
      | some (cause, v) => .trap cause (wordOf v)
      | none =>
        let els := (List.range e).map fun i => (i, va + i * n)
        proceedBuf r x (ds.any r.t.inClause) (.ld sx x.ety ds []) (.bufLoad sp.code) n els (fun _ => 0) s
          ((finLd sx x.ety ds [] ⟨0, bufVals c sp.code n els, none, 0⟩ s).withLat (bufLat sp.code (n * e)))
where
  splitPair' (n e : Nat) (c : Chk) : Chk := if e = 2 then splitPair n c else c

/-- `ST` and `STP` (R211). -/
def storeBody (x : MemX) (cs : List GReg) (a : GReg) (b : OpB) (r : Run) (s : State) : Act :=
  let va := (memAddr r.t a b).toNat
  let n := x.ety.bits / 8
  let e := cs.length
  let data (i : Nat) : Nat := lowBits x.ety (r.t.rg (cs.getD i 0))
  match x.space with
  | .glob =>
    let w := s.who r.k
    let c := s.elemChk w .store x.ety (n * e) false 0 va (data 0 + (if e = 2 then data 1 * 2 ^ (8 * n) else 0))
    (if e = 2 then splitPair n c else c).go r s fun hs _ => proceed r x.rx x.ord x.obs .store .store hs finStore s
  | sp =>
    let c := (s.core r.k.1).ctx (s.core r.k.1).cid
    match bufFault c sp.code true false (n * e) [(0, va)] with
    | some (cause, v) => .trap cause (wordOf v)
    | none =>
      let els := (List.range e).map fun i => (i, va + i * n)
      proceedBuf r x false .store (.bufStore sp.code false) n els data s
        (.done { lat := bufLat sp.code (n * e) } (s.bufStore r.k.1 sp.code n false els data))

def execLd (gd : Guard) (sx : Bool) (x : MemX) (d a : GReg) (b : OpB) (s : State) : Host.Outcome State Fault Refusal :=
  issue (.ld gd sx x d a b) gd 24 (loadBody sx x [d] a b) s

def execLdp (gd : Guard) (sx : Bool) (x : MemX) (d a : GReg) (b : OpB) (s : State) : Host.Outcome State Fault Refusal :=
  issue (.ldp gd sx x d a b) gd 24 (loadBody sx x [d, nextG d] a b) s

def execSt (gd : Guard) (x : MemX) (a : GReg) (b : OpB) (c : GReg) (s : State) : Host.Outcome State Fault Refusal :=
  issue (.st gd x a b c) gd 24 (storeBody x [c] a b) s

def execStp (gd : Guard) (x : MemX) (a : GReg) (b : OpB) (c : GReg) (s : State) : Host.Outcome State Fault Refusal :=
  issue (.stp gd x a b c) gd 24 (storeBody x [c, nextG c] a b) s

/-! ### Vector accesses (R212, R213) -/

/-- The active elements of an access of type t. -/
def activeEls (t : ETy) (lanes : BitVec 64) : List Nat := (List.range (elems t.bits)).filter fun e => laneOn lanes t.bits e

def vbufLoad (r : Run) (x : MemX) (d : VReg) (bylane : Bool) (els : List (Nat × Nat)) (s : State) : Act :=
  let n := x.ety.bits / 8
  let c := (s.core r.k.1).ctx (s.core r.k.1).cid
  match bufFault c x.space.code false bylane n els with
  | some (cause, v) => .trap cause (wordOf v)
  | none =>
    proceedBuf r x false (.vld d x.ety []) (.bufLoad x.space.code) n els (fun _ => 0) s
      ((finVld d x.ety [] r.k ⟨0, bufVals c x.space.code n els, none, 0⟩ s).withLat (bufLat x.space.code (n * els.length)))

def vbufStore (r : Run) (x : MemX) (zb bylane : Bool) (els : List (Nat × Nat)) (data : Nat → Nat) (s : State) : Act :=
  let n := x.ety.bits / 8
  let c := (s.core r.k.1).ctx (s.core r.k.1).cid
  match bufFault c x.space.code true bylane n els with
  | some (cause, v) => .trap cause (wordOf v)
  | none =>
    proceedBuf r x false .store (.bufStore x.space.code zb) n els data s
      (.done { lat := bufLat x.space.code (n * els.length) } (s.bufStore r.k.1 x.space.code n zb els data))

def execVld (gd : Guard) (x : MemX) (d : VReg) (a : GReg) (b : OpB) (s : State) : Host.Outcome State Fault Refusal :=
  issueV (.vld gd x d a b) gd 320 (fun r s => noStreams r [(0, d)] s (
    let va := (memAddr r.t a b).toNat
    let n := x.ety.bits / 8
    let act := activeEls x.ety (r.t.lanes gd)
    match x.space with
    | .glob =>
      (s.runChk (s.who r.k) .load x.ety n (elems x.ety.bits) va act (fun _ => 0)).go r s fun hs dec =>
        proceed r x.rx x.ord x.obs (.vld d x.ety dec) .load hs (finVld d x.ety dec r.k) s
    | _ => vbufLoad r x d false (act.map fun e => (e, (va + e * n) % 2 ^ 64)) s)) s

def execVst (gd : Guard) (zb : Bool) (x : MemX) (a : GReg) (b : OpB) (c : VReg) (s : State) :
    Host.Outcome State Fault Refusal :=
  issueV (.vst gd zb x a b c) gd 320 (fun r s => noStreams r [(3, c)] s (
    let va := (memAddr r.t a b).toNat
    let n := x.ety.bits / 8
    let act := activeEls x.ety (r.t.lanes gd)
    let data (e : Nat) : Nat := velem x.ety.bits (r.t.rv c) e
    match x.space with
    | .glob =>
      (s.runChk (s.who r.k) .store x.ety n (elems x.ety.bits) va act data).go r s fun hs _ =>
        proceed r x.rx x.ord x.obs .store .store hs finStore s
    | _ => vbufStore r x zb false (act.map fun e => (e, (va + e * n) % 2 ^ 64)) data s)) s

/-- The lane addresses of `VLDX` and `VSTX` (R213). -/
def laneAddrs (t : Thread) (lanes : BitVec 64) (k : Fin 4) (a : GReg) (b : VReg) : List (Nat × Nat) :=
  (activeEls .int32 lanes).map fun i =>
    (i, ((t.rg a) + (BitVec.ofInt 64 (Num.sgn 32 (velem 32 (t.rv b) i))) * BitVec.ofNat 64 (2 ^ k.val)).toNat)

def execVldx (gd : Guard) (k : Fin 4) (x : MemX) (d : VReg) (a : GReg) (b : VReg) (s : State) :
    Host.Outcome State Fault Refusal :=
  issueV (.vldx gd k x d a b) gd 320 (fun r s => noStreams r [(0, d), (2, b)] s (
    let els := laneAddrs r.t (r.t.lanes gd) k a b
    match x.space with
    | .glob =>
      let w := s.who r.k
      (Chk.all true (els.map fun e => s.elemChk w .load x.ety 4 (x.ety = .fp32) e.1 e.2 0)).go r s fun hs dec =>
        proceed r x.rx x.ord x.obs (.vld d x.ety dec) .load hs (finVld d x.ety dec r.k) s
    | _ => vbufLoad r x d true els s)) s

def execVstx (gd : Guard) (zb : Bool) (k : Fin 4) (x : MemX) (a : GReg) (b c : VReg) (s : State) :
    Host.Outcome State Fault Refusal :=
  issueV (.vstx gd zb k x a b c) gd 320 (fun r s => noStreams r [(2, b), (3, c)] s (
    let els := laneAddrs r.t (r.t.lanes gd) k a b
    let data (e : Nat) : Nat := velem 32 (r.t.rv c) e
    match x.space with
    | .glob =>
      let w := s.who r.k
      (Chk.all true (els.map fun e => s.elemChk w .store x.ety 4 false e.1 e.2 (data e.1))).go r s fun hs _ =>
        proceed r x.rx x.ord x.obs .store .store hs finStore s
    | _ => vbufStore r x zb true els data s)) s

/-- `FENCE` (R216): relaxed accesses; with a nonzero OBS, output streams; posted stores of the classes d and h. -/
def execFence (gd : Guard) (obs : BitVec 5) (s : State) : Host.Outcome State Fault Refusal :=
  issue (.fence gd obs) gd 4 (fun r s =>
    let code := 1 + (if obs.getLsbD 3 then 4 else 0) + (if obs.getLsbD 4 then 8 else 0) + (if obs = 0 then 0 else 16)
    drain r code s (.done {} s)) s

end Sys2Proof.Machine
end

