-- ==== Sys2Proof/Machine/Threads.lean ====
section
/-! DEFINITION. Control flow and threads, opcodes 0x01 to 0x09 and 0x15 (R100 to R107), `GO` (R217) and migrations (R97 to
R99). -/

namespace Sys2Proof.Machine

/-! ### Control flow (R101, R102) -/

def execNop (gd : Guard) (s : State) : Host.Outcome State Fault Refusal := issue (.nop gd) gd 4 (fun _ s => .done {} s) s

/-- `check_target`, then the transfer, with the link written first for a call (R102, R45). -/
def jump (target : Addr) (link : List (GReg × Word)) (s : State) : Act :=
  if target.toNat % 4 ≠ 0 then .trap .misaligned (target.zeroExtend 64) else .done { g := link, pc := some target } s

def pcRel (t : Thread) (off : BitVec 32) : Addr := t.pc + off.signExtend 48
def linkOf (t : Thread) : List (GReg × Word) := [(31, (pcNext t.pc).zeroExtend 64)]

def execBr (gd : Guard) (off : BitVec 32) (s : State) : Host.Outcome State Fault Refusal :=
  issue (.br gd off) gd 4 (fun r s => jump (pcRel r.t off) [] s) s

def execBrx (gd : Guard) (a : GReg) (s : State) : Host.Outcome State Fault Refusal :=
  issue (.brx gd a) gd 4 (fun r s => jump ((r.t.rg a).extractLsb' 0 48) [] s) s

def execCall (gd : Guard) (off : BitVec 32) (s : State) : Host.Outcome State Fault Refusal :=
  issue (.call gd off) gd 4 (fun r s => jump (pcRel r.t off) (linkOf r.t) s) s

def execCallx (gd : Guard) (a : GReg) (s : State) : Host.Outcome State Fault Refusal :=
  issue (.callx gd a) gd 4 (fun r s => jump ((r.t.rg a).extractLsb' 0 48) (linkOf r.t) s) s

/-! ### Threads (R103 to R106) -/

/-- A slot freed in cycle y: it can be claimed from the next cycle on (R99). -/
def Thread.freed (y : Nat) : Thread := { Thread.empty with next := y + 1 }

/-- The lowest slot among 1 to 15 that is FREE and can be claimed in cycle y. -/
def Core.freeSlot (c : Core) (y : Nat) : Option Nat :=
  ((List.range 15).map (· + 1)).find? fun i => (c.thr i).st == .free && decide ((c.thr i).next ≤ y)

/-- Slot n is registered in no barrier (R103, R98). -/
def Core.unregister (c : Core) (n : Nat) : Core :=
  { c with bar := c.bar.map fun b => { b with mask := b.mask &&& ~~~(1#16 <<< n) } }

/-- A new thread takes slot n of a core: what a thread before it left registered in a barrier is gone (R103, R105 step 4). That
is no arrival: a core whose other registered threads have all arrived arrives with the next `BARR` or `BREG`
(notes/assumptions/102, DESIGN CHOICE). -/
def State.claim (s : State) (core n : Nat) (t : Thread) : State := s.updCore core fun c => (c.unregister n).setThr n t

/-- A thread that `TSTART` starts in slot n (R103). -/
def startThread (t : Thread) (light : Bool) (entry : Addr) (arg : Word) (next : Nat) : Thread :=
  { (Thread.empty.setG 1 arg) with st := .ready, light := light, pc := entry, fmode := t.fmode, next := next }

def tstartBody (light : Bool) (d a : GReg) (b : OpB) (r : Run) (s : State) : Act :=
  let entry := (r.t.rg a).extractLsb' 0 48
  if (r.t.home r.k).2 ≠ 0 then .trap .threadMgmt 6
  else if entry.toNat % 4 ≠ 0 then .trap .misaligned (entry.zeroExtend 64)
  else match (s.core r.k.1).freeSlot (s.cyc (dieOf r.k.1)) with
    | none => .writeG d ones64 s
    | some n =>
      .writeG d (wordOf n) (s.claim r.k.1 n
        (startThread r.t light entry (OpB.sx r.t b) (alignUp (s.cyc (dieOf r.k.1) + 16) n)))

def execTstart (gd : Guard) (d a : GReg) (b : OpB) (s : State) : Host.Outcome State Fault Refusal :=
  issue (.tstart gd d a b) gd 4 (tstartBody false d a b) s

def execTstartLight (gd : Guard) (d a : GReg) (b : OpB) (s : State) : Host.Outcome State Fault Refusal :=
  issue (.tstartLight gd d a b) gd 4 (tstartBody true d a b) s

/-- The reap of an EXITED slot in cycle y: its exit value, and the slot FREE (R104, R99). -/
def reap (core : Nat) (d : GReg) (n y : Nat) (s : State) : Act :=
  .writeG d (s.thr (core, n)).exitV (s.setThr (core, n) (.freed y))

def execTreap (gd : Guard) (d : GReg) (b : OpB) (s : State) : Host.Outcome State Fault Refusal :=
  issue (.treap gd d b) gd 4 (fun r s =>
    let n := (OpB.zx r.t b).toNat
    let bad : Bool := match (s.thr (r.k.1, n)).st with
      | .free | .guest | .node => true
      | _ => false
    if (r.t.home r.k).2 ≠ 0 then .trap .threadMgmt 7
    else if n = 0 ∨ n > 15 ∨ bad = true then .trap .threadMgmt (OpB.zx r.t b)
    else match r.t.firstBound [d] with
      | some g => .trap .boundWrite (wordOf g.val)
      | none => if (s.thr (r.k.1, n)).st = .exited then reap r.k.1 d n (s.cyc (dieOf r.k.1)) s else .wait (.treap d n) 0 s) s

/-- End a wait of the second kind in a given cycle (R90). -/
def State.resumeAt (s : State) (k : Key) (w : Nat) (a : Act) : State :=
  match (s.thr k).pend with
  | some p => s.settle k p.t0 (some w) p.eu p.serial a
  | none => s

/-- Slot n of a core has become EXITED in cycle w: a `TREAP` that waits for it ends (R104). -/
def State.pollReap (s : State) (core n w : Nat) : State :=
  match (s.thr (core, 0)).pend with
  | some ⟨.treap d m, _, _, _, _⟩ => if m = n then s.resumeAt (core, 0) w (reap core d n w s) else s
  | _ => s

/-- Remove a thread's entries from the monitor tables of their homes (R282, R285). -/
def State.dropMons (s : State) (k : Key) : State :=
  (s.thr k).mon.toList.foldl (fun s m => match m with
    | some e => if e.armed then
          let own (x : MonEnt) : Bool := x.core == k.1 && x.slot == k.2 && x.loc == e.loc
          s.updCore e.home fun c => { c with mons := c.mons.filter (!own ·) }
        else s
    | none => s) s

/-- The slots that keep thread 0 from exiting (R105). -/
def Core.liveMask (c : Core) : Nat :=
  (((List.range 15).map (· + 1)).filter fun i => match (c.thr i).st with
    | .ready | .waiting | .exited | .away => true
    | _ => false).foldl (fun n i => n + 2 ^ i) 0

/-- A thread as `TEXIT` leaves its slot EXITED (R105, R180). -/
def Thread.ended (t : Thread) (v : Word) : Thread :=
  { t with
    st := .exited, exitV := v, pend := none, walked := [], cl := Vector.replicate 8 none,
    str := Vector.replicate 8 none, mon := Vector.replicate 4 none }

/-- The end of a thread whose accesses and streams are done (R105 steps 3 to 5). -/
def exitNow (r : Run) (v : Word) (s : State) : Act :=
  let s := (s.chargeIn r.k.1 1 4).dropMons r.k
  let cid := (s.core r.k.1).cid
  let die := dieOf r.k.1
  let s :=
    if r.t.st = .guest then
      (s.setThr r.k (.freed (s.cyc die))).post (msgTime r.k.1 r.t.origin.1 1) (.guestExitMessage r.t.origin.1 r.t.origin.2 cid v)
    else
      let s := (s.setThr r.k (r.t.ended v)).pollReap r.k.1 r.k.2 (s.cyc die + 1)
      if r.k.2 = 0 then s.post 1 (.launchComplete (s.ctx die cid).launch) else s
  .raw (s.stepEnd r.k)

/-- `TEXIT` (R105); a FAULTED stream traps first (R178); a node may not exit (R297). -/
def execTexit (gd : Guard) (b : OpB) (s : State) : Host.Outcome State Fault Refusal :=
  issue (.texit gd b) gd 4 (fun r s =>
    let m := (s.core r.k.1).liveMask
    let f := (List.finRange 8).findSome? fun i => match r.t.stream (vhi i) with
      | some x => if x.st = .faulted then some (vhi i, x) else none
      | none => none
    if r.t.isNode then .trap .threadMgmt 8
    else if (r.t.home r.k).2 = 0 ∧ m ≠ 0 then .trap .threadMgmt (wordOf m)
    else match f with
      | some (v, x) => faultedStream r v x s
      | none => drain r 33 s (exitNow r (OpB.sx r.t b) s)) s

/-- The WAIT code of a wait (R106). R106 and R294 give none for the wait for a FETCHTILE reply; it reads 1, memory
(notes/assumptions/86, DESIGN CHOICE). -/
def PendK.code : PendK → Nat
  | .mem .. | .retry _ | .beats _ | .walk | .hcall | .tile .. | .ginvoke .. | .iflush => 1
  | .mwait _ | .arm _ | .disarm _ => 2
  | .bwait .. | .barr _ => 3
  | .twany .. | .twall .. => 4
  | .sig .. => 5
  | .chw .. | .chr .. => 6
  | .treap .. => 7
  | .halt _ => 8
  | .stq .. => 9
  | .landing _ => 10
  | .stopped => 0

/-- The state code (R94). -/
def TSt.code : TSt → Nat
  | .free => 0 | .ready => 1 | .waiting => 2 | .exited => 3 | .away => 4 | .guest => 5 | .node => 6

/-- The status word of a slot (R106). -/
def statusWord (c : Core) (t : Thread) : Nat :=
  let wait := if t.st = .waiting then (match t.pend with
    | some p => PendK.code p.kind
    | none => 0) else 0
  let place := if t.st = .away then t.place else 0
  place * 2 ^ 16 + wait * 2 ^ 8 + c.halted.toNat * 16 + t.light.toNat * 8 + TSt.code t.st

def execTstat (gd : Guard) (d : GReg) (b : OpB) (s : State) : Host.Outcome State Fault Refusal :=
  issue (.tstat gd d b) gd 4 (fun r s =>
    let n := (OpB.zx r.t b).toNat
    if n > 15 then .trap .threadMgmt (OpB.zx r.t b)
    else .writeG d (wordOf (statusWord (s.core r.k.1) (s.thr (r.k.1, n)))) s) s

/-- Whether the timeouts of a context pause: some core of it is in debug halt (R346). -/
def State.paused (s : State) (core : Nat) : Bool := decide (0 < (s.ctx (dieOf core) (s.core core).cid).halts)

def execHalt (gd : Guard) (d : GReg) (b : OpB) (s : State) : Host.Outcome State Fault Refusal :=
  issue (.halt gd d b) gd 4 (fun r s =>
    match r.t.firstBound [d] with
    | some g => .trap .boundWrite (wordOf g.val)
    | none => if r.t.intPending then .writeG d 3 s else .wait (.halt d) (OpB.zx r.t b).toNat s) s

/-! ### `GO` and migrations (R217, R97 to R99) -/

/-- What a migration carries (R98), from an origin, and the posted stores it may still wait for (R318). -/
def Thread.travel (t : Thread) (origin : Key) (pc : Addr) : Thread :=
  { Thread.empty with
    light := true, pc := pc, g := t.g, p := t.p, fmode := t.fmode, fflags := t.fflags, forfeit := t.forfeit, cl := t.cl,
    hold := t.hold, tcause := t.tcause, tval := t.tval, tepc := t.tepc, tstat := t.tstat, origin := origin, postD := t.postD, postH := t.postH }

/-- Why `GO` to a home is refused: reasons 3 to 6 of R217. -/
def State.goRefusal (s : State) (k : Key) (tier home : Nat) : Option Nat :=
  let c := s.core k.1
  let t := s.thr k
  let x := s.ctx (dieOf k.1) c.cid
  if tier ≥ 2 then some 3
  else if dieOf home ≠ dieOf k.1 ∨ !x.grid.contains (clusterOf home) then some 4
  else if t.mon.toList.any fun m => match m with
    | some e => e.armed
    | none => false then some 5
  else if c.bar.toList.any fun b => b.mask.getLsbD k.2 then some 6
  else none

/-- Send a light thread to another core; `atomic` when an atomic sends it. -/
def State.migrate (s : State) (k : Key) (pc : Addr) (dst : Nat) (atomic : Bool) : State × Nat :=
  let t := s.thr k
  let (m, s) := s.fresh
  let s := { s with migs := tput s.migs m ⟨t.travel (t.home k) pc, k.1, k.2, dst, (s.core k.1).cid, atomic⟩ }
  (s.post (msgTime k.1 dst 29) (.migrationArrival m), m)

def execGo (gd : Guard) (a : GReg) (b : OpB) (s : State) : Host.Outcome State Fault Refusal :=
  issue (.go gd a b) gd 24 (fun r s =>
    let va := (memAddr r.t a b).toNat
    let refuse (n : Nat) : Act := .trap .migrationRefused (wordOf (n * 2 ^ 48 + va % 2 ^ 48))
    if !r.t.light then refuse 1
    else if r.t.isNode then refuse 2
    else
      let w := s.who r.k
      match s.trans r.k (va % 2 ^ 48) with
      | .walk => .wait .walk 0 (s.startWalk r.k (va % 2 ^ 48))
      | .absent => .trap .pageAbsent (wordOf va)
      | .leaf e =>
        if !permitted w.keys .load w.task e then .trap .permission (wordOf va)
        else
          let h := Entry.homeCore e (va % 2 ^ 48)
          match s.goRefusal r.k (Entry.tier e) h with
          | some n => refuse n
          | none =>
            drain r 1 s (
              if h = r.k.1 then .done {} s
              else
                let (s, m) := (s.past r.n).migrate r.k (pcNext r.t.pc) h false
                .wait (.landing m) 0 s)) s

/-- Whether the thread that sent a migration still waits for it. -/
def State.migrating (s : State) (m : Nat) (g : Mig) : Bool :=
  (s.core g.src).run == some g.cid && (match (s.thr (g.src, g.slot)).pend with
    | some ⟨.landing n, _, _, _, _⟩ => n == m
    | _ => false)

/-- Free a slot that a GUEST leaves; a pending interrupt goes back to its origin's record. -/
def State.leaveSlot (s : State) (k : Key) : State :=
  let t := s.thr k
  let s := if t.intPending then s.updThr t.origin fun o => { o with tint := t.tint } else s
  s.setThr k (.freed (s.cyc (dieOf k.1)))

/-- The end of the step of a `GO`: an interrupt may be taken (R335) before the thread goes on its way. -/
def State.goEnd (s : State) (g : Mig) : State × Mig :=
  let k : Key := (g.src, g.slot)
  let s := ((s.chargeRun g.src 24).updThr k fun t => { t with pc := g.thr.pc }).intEnd k
  let t := s.thr k
  (s, { g with thr := { t.travel g.thr.origin t.pc with postD := g.thr.postD, postH := g.thr.postH } })

/-- A migration is accepted: the source slot, the origin's AWAY state, and the landing queue (R97); an interrupt without a handler at
the end of a `GO` stops the thread where it is (R333). -/
def State.accept (s : State) (m : Nat) (g : Mig) : State :=
  let k : Key := (g.src, g.slot)
  let o := g.thr.origin
  let (s, g) := if g.home then (s, g) else s.goEnd g
  if !s.migrating m g then { s with migs := tdel s.migs m }.stepEnd k
  else if g.dst = o.1 then
    let s := if k = o then s else s.leaveSlot k
    let t := { g.thr with st := .ready, origin := (0, 0), tint := (s.thr o).tint, next := alignUp (s.cyc (dieOf o.1) + 1) o.2 }
    ({ (s.setThr o t) with migs := tdel s.migs m }).stepEnd k
  else
    let s := if k = o then s.updThr o fun t => { t with st := .away, place := g.dst, pend := none, walked := [] }
      else (s.leaveSlot k).updThr o fun t => { t with place := g.dst }
    let s := s.stepEnd k
    let first := (s.core g.dst).landing.isEmpty
    let s := { s with migs := tput s.migs m g }.updCore g.dst fun c => { c with landing := c.landing ++ [m] }
    if first then s.post 0 (.landingSlotClaim g.dst) else s

/-- Whether a migration's context is being pre-empted. -/
def State.migStops (s : State) (g : Mig) : Bool := (s.ctx (dieOf g.src) g.cid).st == .preempting

/-- A refused migration is given up: the thread stays at its source (R339). -/
def State.giveUp (s : State) (m : Nat) (g : Mig) : State :=
  { s with migs := tdel s.migs m }.updThr (g.src, g.slot) fun t =>
    { t with st := if t.st = TSt.waiting then TSt.ready else t.st, pend := none, waitWas := 10 }

/-- A migrating context arrives: accepted, or refused by a full landing queue (R97). -/
def execMigrationArrival (m : Nat) (s : State) : Host.Outcome State Fault Refusal :=
  .next (match tget s.migs m with
    | some g =>
      if !s.migrating m g then { s with migs := tdel s.migs m }
      else if (s.core g.dst).landing.length < 4 then s.accept m g
      else if s.migStops g then s.giveUp m g
      else s.post (msgTime g.dst g.src 1) (.migrationRetry m)
    | none => s)

/-- The refused thread forfeits a turn and sends again in its next slot (R91, R97). Until it is accepted it is WAITING, WAIT = 10 (R217),
and the turn is that of its first slot after the refusal, in which it sends (notes/assumptions/104, DESIGN CHOICE). -/
def execMigrationRetry (m : Nat) (s : State) : Host.Outcome State Fault Refusal :=
  .next (match tget s.migs m with
    | some g =>
      if !s.migrating m g then { s with migs := tdel s.migs m }
      else if s.migStops g then s.giveUp m g
      else
        let y := s.cyc (dieOf g.src)
        let s := s.updThr (g.src, g.slot) fun t => { t with forfeit := t.forfeit + 1 }
        let f := (s.thr (g.src, g.slot)).forfeit
        let s := { s with migs := tput s.migs m { g with thr := { g.thr with forfeit := f } } }
        s.post (alignUp (y + 1) g.slot - y + msgTime g.src g.dst 29) (.migrationArrival m)
    | none => s)

/-- The head of the landing queue takes the lowest FREE slot as GUEST (R97); `TSTART`, an issue, claims first (R99). A pending
interrupt, which R98 does not list, goes with the thread: to the guest's slot here, back to the origin slot when the guest leaves
(notes/assumptions/87, DESIGN CHOICE). -/
def execLandingSlotClaim (core : Nat) (s : State) : Host.Outcome State Fault Refusal :=
  .next (match (s.core core).landing with
    | [] => s
    | m :: rest =>
      let y := s.cyc (dieOf core)
      let again := s.post 1 (.landingSlotClaim core)
      match tget s.migs m with
      | none =>
        let s := s.updCore core fun c => { c with landing := rest }
        if rest.isEmpty then s else s.post 0 (.landingSlotClaim core)
      | some g =>
        match (s.core core).freeSlot y with
        | none => again
        | some n =>
          let o := g.thr.origin
          let t := { g.thr with st := .guest, tint := (s.thr o).tint, next := alignUp (y + 1) n }
          let s := ((s.claim core n t).updThr o fun x => { x with tint := 0 }).updCore core fun c => { c with landing := rest }
          let s := { s with migs := tdel s.migs m }
          if rest.isEmpty then s else s.post 1 (.landingSlotClaim core))

/-- A guest's exit value reaches its origin core (R105). -/
def execGuestExitMessage (core slot cid : Nat) (v : Word) (s : State) : Host.Outcome State Fault Refusal :=
  .next (
    if (s.core core).run = some cid ∧ (s.thr (core, slot)).st = .away then
      (s.setThr (core, slot) ((s.thr (core, slot)).ended v)).pollReap core slot (s.cyc (dieOf core))
    else s)

end Sys2Proof.Machine
end

