-- ==== Sys2Proof/Machine/Atomics.lean ====
section
/-! DEFINITION. Atomics and `RED`, opcodes 0xA0 to 0xAC (R276 to R281). -/

namespace Sys2Proof.Machine

/-- The end of an atomic on one register (R279). -/
def finAmo (ety : ETy) (d : GReg) (w : MemW) (s : State) : Act :=
  w.fin (.done { g := [(d, placeG ety ((tget w.vals 0).getD 0))], flags := w.flags } s)

/-- The end of `CAS2`: the low 8 bytes go to D, the high 8 to D + 1. -/
def finCas2 (d : GReg) (w : MemW) (s : State) : Act :=
  w.fin (
    let v := (tget w.vals 0).getD 0
    .done { g := [(d, wordOf v), (nextG d, wordOf (v / 2 ^ 64))] } s)

/-- Whether an atomic takes its light thread to the home (R277). -/
def State.amoMoves (s : State) (r : Run) (h : Hit) : Bool :=
  r.t.light && !r.t.isNode && h.home != r.k.1 && (s.goRefusal r.k h.tier h.home).isNone

/-- Every atomic but `RED` (R279): the checks on the source core, the waits, then the request or the migration. -/
def amoBody (x : MemX) (ds : List GReg) (a : GReg) (b : OpB) (kind : MemK) (op : Thread → MemOp) (fin : MemW → State → Act)
    (r : Run) (s : State) : Act :=
  let va := (memAddr r.t a b).toNat
  let n := ds.length * (x.ety.bits / 8)
  if va % n ≠ 0 then .trap .misaligned (wordOf va)
  else match r.t.firstBound ds with
    | some g => .trap .boundWrite (wordOf g.val)
    | none =>
      (s.elemChk (s.who r.k) .atomic x.ety n false 0 va 0).go r s fun hs _ =>
        drain r (1 ||| ordCode x.ord x.obs) s (
          match hs with
          | [h] =>
            if s.amoMoves r h then
              let (s, m) := (s.past r.n).migrate r.k r.t.pc h.home true
              .wait (.landing m) 0 s
            else access r kind (op r.t) hs fin s
          | _ => fin ⟨0, [], none, 0⟩ s)

/-- An atomic with one operand in C. -/
def amo1 (i : Instr) (gd : Guard) (op : AmoOp) (x : MemX) (d a : GReg) (b : OpB) (c : GReg) (s : State) :
    Host.Outcome State Fault Refusal :=
  issue i gd 48 (amoBody x [d] a b (.amo x.ety d)
    (fun t => .amo op x.ety (lowBits x.ety (t.rg c)) (lowBits x.ety (t.rg d)) t.enables) (finAmo x.ety d)) s

def execAmoadd (gd : Guard) (x : MemX) (d a : GReg) (b : OpB) (c : GReg) (s : State) : Host.Outcome State Fault Refusal :=
  amo1 (.amoadd gd x d a b c) gd .add x d a b c s

def execAmoand (gd : Guard) (x : MemX) (d a : GReg) (b : OpB) (c : GReg) (s : State) : Host.Outcome State Fault Refusal :=
  amo1 (.amoand gd x d a b c) gd .and x d a b c s

def execAmoor (gd : Guard) (x : MemX) (d a : GReg) (b : OpB) (c : GReg) (s : State) : Host.Outcome State Fault Refusal :=
  amo1 (.amoor gd x d a b c) gd .or x d a b c s

def execAmoxor (gd : Guard) (x : MemX) (d a : GReg) (b : OpB) (c : GReg) (s : State) : Host.Outcome State Fault Refusal :=
  amo1 (.amoxor gd x d a b c) gd .xor x d a b c s

def execAmoswap (gd : Guard) (x : MemX) (d a : GReg) (b : OpB) (c : GReg) (s : State) : Host.Outcome State Fault Refusal :=
  amo1 (.amoswap gd x d a b c) gd .swap x d a b c s

def execAmomin (gd : Guard) (u : Bool) (x : MemX) (d a : GReg) (b : OpB) (c : GReg) (s : State) :
    Host.Outcome State Fault Refusal :=
  amo1 (.amomin gd u x d a b c) gd (if u then .minu else .min) x d a b c s

def execAmomax (gd : Guard) (u : Bool) (x : MemX) (d a : GReg) (b : OpB) (c : GReg) (s : State) :
    Host.Outcome State Fault Refusal :=
  amo1 (.amomax gd u x d a b c) gd (if u then .maxu else .max) x d a b c s

def execAmofadd (gd : Guard) (x : MemX) (d a : GReg) (b : OpB) (c : GReg) (s : State) : Host.Outcome State Fault Refusal :=
  amo1 (.amofadd gd x d a b c) gd .fadd x d a b c s

def execAmofmin (gd : Guard) (x : MemX) (d a : GReg) (b : OpB) (c : GReg) (s : State) : Host.Outcome State Fault Refusal :=
  amo1 (.amofmin gd x d a b c) gd .fmin x d a b c s

def execAmofmax (gd : Guard) (x : MemX) (d a : GReg) (b : OpB) (c : GReg) (s : State) : Host.Outcome State Fault Refusal :=
  amo1 (.amofmax gd x d a b c) gd .fmax x d a b c s

/-- `CAS`: D holds the expected value, C the new one. -/
def execCas (gd : Guard) (x : MemX) (d a : GReg) (b : OpB) (c : GReg) (s : State) : Host.Outcome State Fault Refusal :=
  amo1 (.cas gd x d a b c) gd .cas x d a b c s

/-- A register pair as 16 bytes, the even register low. -/
def pairOf (t : Thread) (r : GReg) : Nat := (t.rg r).toNat + 2 ^ 64 * (t.rg (nextG r)).toNat

def execCas2 (gd : Guard) (x : MemX) (d a : GReg) (b : OpB) (c : GReg) (s : State) : Host.Outcome State Fault Refusal :=
  issue (.cas2 gd x d a b c) gd 48 (amoBody x [d, nextG d] a b (.cas2 d)
    (fun t => .amo .cas x.ety (pairOf t c) (pairOf t d) t.enables) (finCas2 d)) s

/-- The atomic that a `RED` op performs (R278). -/
def redOp (op : RedOp) (u : Bool) : AmoOp :=
  match op with
  | .add => .add | .and => .and | .or => .or | .xor => .xor | .swap => .swap
  | .min => if u then .minu else .min
  | .max => if u then .maxu else .max
  | .fadd => .fadd | .fmin => .fmin | .fmax => .fmax

/-- `RED` (R281). -/
def execRed (gd : Guard) (op : RedOp) (u : Bool) (ety : ETy) (a : GReg) (b : OpB) (c : GReg) (s : State) :
    Host.Outcome State Fault Refusal :=
  issue (.red gd op u ety a b c) gd 48 (fun r s =>
    let va := (memAddr r.t a b).toNat
    (s.elemChk (s.who r.k) .atomic ety (ety.bits / 8) false 0 va 0).go r s fun hs _ =>
      relaxed r .red (.red (redOp op u) ety (lowBits ety (r.t.rg c))) hs s) s

end Sys2Proof.Machine
end

