-- ==== Sys2Proof/Machine/Barriers.lean ====
section
/-! DEFINITION. Barriers, opcodes 0xC3 to 0xC6 (R286 to R290). -/

namespace Sys2Proof.Machine

def Bar.empty : Bar := ⟨0, 0, false, 0, false, none⟩
def Core.barr (c : Core) (n : Nat) : Bar := vget c.bar n .empty
def Core.setBar (c : Core) (n : Nat) (b : Bar) : Core := { c with bar := vset c.bar n b }
def State.bar (s : State) (core n : Nat) : Bar := (s.core core).barr n
def State.updBar (s : State) (core n : Nat) (f : Bar → Bar) : State := s.updCore core fun c => c.setBar n (f (c.barr n))

/-- Set or clear bit n of a word of per-id bits. -/
def bitPut (w : BitVec 8) (n : Nat) (v : Bool) : BitVec 8 :=
  if v then w ||| (1#8 <<< n) else w &&& ~~~(1#8 <<< n)

/-- The ARRIVED bits cover a nonempty MASK (R288 step 5). -/
def Core.covered (c : Core) (n : Nat) : Bool :=
  (c.barr n).mask != 0 && (List.range 16).all fun t => !(c.barr n).mask.getLsbD t || (c.thr t).arrived.getLsbD n

/-- The participants of a core's id (R288 step 6). -/
def State.barCores (s : State) (core n : Nat) : List Nat :=
  let b := s.bar core n
  match b.scope.toNat with
  | 0 => [core]
  | 1 => (List.range 16).map (coreIn (clusterOf core))
  | 2 => (List.range 256).map (dieOf core * 256 + ·)
  | _ => ((List.range 16).filter (b.cset.getLsbD ·)).map (coreIn (clusterOf core))

/-- Cycles from the last arrival to its latching (R288). -/
def barDelay (scope : Nat) : Nat := if scope = 0 then 2 else if scope = 2 then 24 else 12

/-- The core arrives in its phase, if its threads' bits cover the mask and it has not yet (R288 step 5). -/
def State.barCheck (s : State) (core n : Nat) : State :=
  let c := s.core core
  if c.covered n ∧ !(c.barr n).sent then
    if (c.barr n).scope = 0 then
      (s.updBar core n fun b => { b with sent := true, closing := some core }).post 2 (.barrierPhaseComplete core n)
    else (s.updBar core n fun b => { b with sent := true }).post 0 (.barrierArrival core n)
  else s

/-- Whether a participant with its own configuration counts as arrived. -/
def State.barIn (s : State) (core n : Nat) (b : Bar) (p : Nat) : Bool :=
  let q := s.bar p n
  q.scope == b.scope && (b.scope != 3 || q.cset == b.cset) &&
    (q.mask == 0 ||
      (if b.scope = 2 then (vget (s.die (dieOf core)).wires n []).contains p
       else (vget (s.cluster (clusterOf core)).bunit n 0).getLsbD (coreNo p)))

/-- Note a core's arrival at its cluster's unit or on the die's wires. -/
def State.barNote (s : State) (core n : Nat) : State :=
  if (s.bar core n).mask = 0 then s
  else if (s.bar core n).scope = 2 then
    s.updDie (dieOf core) fun d => { d with wires := vset d.wires n (core :: vget d.wires n []) }
  else s.updCluster (clusterOf core) fun c =>
    { c with bunit := vset c.bunit n (vget c.bunit n 0 ||| (1#16 <<< coreNo core)) }

/-- Forget the arrivals of a completed phase. -/
def State.barForget (s : State) (core n : Nat) (ps : List Nat) : State :=
  if (s.bar core n).scope = 2 then
    s.updDie (dieOf core) fun d => { d with wires := vset d.wires n [] }
  else s.updCluster (clusterOf core) fun c =>
    { c with bunit := vset c.bunit n (ps.foldl (fun w p => w &&& ~~~(1#16 <<< coreNo p)) (vget c.bunit n 0)) }

/-- A core's arrival reaches its unit; the last one completes the phase, 12 or 24 cycles after it was made (R288). Until that is
latched no arrival completes another: several arrivals of one cycle complete one phase. -/
def execBarrierArrival (core id : Nat) (s : State) : Host.Outcome State Fault Refusal :=
  .next (
    let b := s.bar core id
    if b.closing.isSome then s
    else
      let s := s.barNote core id
      let ps := s.barCores core id
      if b.scope ≠ 0 ∧ ps.all (s.barIn core id b) then
        let s := ps.foldl (fun s p => s.updBar p id fun b => { b with closing := some core }) (s.barForget core id ps)
        s.post (barDelay b.scope.toNat) (.barrierPhaseComplete core id)
      else s)

/-- `BARR` sets ARRIVED and clears DONE (R288 step 3). -/
def State.barArrive (s : State) (k : Key) (n : Nat) : State :=
  (s.updThr k fun t => { t with arrived := bitPut t.arrived n true, bdone := bitPut t.bdone n false }).barCheck k.1 n

/-- Completion at one core (R288 step 7), then the waits of its threads (R289, step 2 of R288). -/
def State.barLatch (s : State) (core n : Nat) : State :=
  let s := s.updCore core fun c =>
    let th := c.th.map fun (t : Thread) =>
      if t.arrived.getLsbD n then { t with arrived := bitPut t.arrived n false, bdone := bitPut t.bdone n true } else t
    { (c.setBar n { c.barr n with phase := !(c.barr n).phase, sent := false, closing := none }) with th := th }
  (List.range 16).foldl (fun s t => match (s.thr (core, t)).pend with
    | some ⟨.bwait m d, _, _, _, _⟩ =>
      if m.val = n ∧ (s.thr (core, t)).bdone.getLsbD n then s.resume (core, t) true (.writeG d 0 s) else s
    | some ⟨.barr m, _, _, _, _⟩ =>
      if m.val = n then s.resume (core, t) true (.done {} (s.barArrive (core, t) n)) else s
    | _ => s) s

/-- The cores at which the phase that a core's arrival has completed is still to be latched, whatever has been configured since. -/
def State.barClosing (s : State) (core n : Nat) : List Nat :=
  dedup ((s.cores.filter fun p => dieOf p.1 == dieOf core && (p.2.barr n).closing == some core).map (·.1))

/-- A phase's completion is latched at every participant (R288). -/
def execBarrierPhaseComplete (core id : Nat) (s : State) : Host.Outcome State Fault Refusal :=
  .next ((s.barClosing core id).foldl (fun s p => s.barLatch p id) s)

/-! ### The instructions (R287) -/

/-- `BREG` replaces MASK; the bits set may now cover it, and a core of a wider scope whose mask it empties now counts as arrived
(R288). -/
def State.breg (s : State) (core n : Nat) (mask : BitVec 16) : State :=
  let b := s.bar core n
  let s := s.updBar core n fun b => { b with mask := mask }
  if mask = 0 ∧ b.mask ≠ 0 ∧ b.scope ≠ 0 ∧ !b.sent then s.post 0 (.barrierArrival core n) else s.barCheck core n

def execBreg (gd : Guard) (n : Fin 8) (a : GReg) (s : State) : Host.Outcome State Fault Refusal :=
  issue (.breg gd n a) gd 4 (fun r s =>
    let v := r.t.rg a
    if v.extractLsb' 16 48 ≠ 0 then .trap .illegalOperand (wordOf (0x100 + a.val))
    else .done {} (s.breg r.k.1 n.val (v.extractLsb' 0 16))) s

/-- `BCFG` once its thread may run it (R287, R288). -/
def bcfgBody (n : Nat) (a : GReg) (r : Run) (s : State) : Act :=
  let v := r.t.rg a
  let scope : BitVec 2 := v.extractLsb' 0 2
  let cset : BitVec 16 := v.extractLsb' 32 16
  let core := r.k.1
  let grid := (s.ctx (dieOf core) (s.core core).cid).grid
  if v.extractLsb' 2 30 ≠ 0 ∨ v.extractLsb' 48 16 ≠ 0 ∨ (scope = 2 ∧ grid.length ≠ 16) ∨
      (scope = 3 ∧ !cset.getLsbD (coreNo core)) ∨ (s.core core).th.toList.any (·.arrived.getLsbD n) then
    .trap .illegalOperand (wordOf (0x100 + a.val))
  else
    let b := s.bar core n
    let s := s.updBar core n fun b => { b with scope := scope, cset := cset, phase := false }
    let widened := b.mask = 0 ∧ scope ≠ 0 ∧ (b.scope ≠ scope ∨ b.cset ≠ cset)
    .done {} (if widened then s.post 0 (.barrierArrival core n) else s)

def execBcfg (gd : Guard) (n : Fin 8) (a : GReg) (s : State) : Host.Outcome State Fault Refusal :=
  issue (.bcfg gd n a) gd 4 (fun r s =>
    if !r.t.mode && (r.t.home r.k).2 != 0 then .trap .threadMgmt 0xC4 else bcfgBody n.val a r s) s

def execBarr (gd : Guard) (n : Fin 8) (s : State) : Host.Outcome State Fault Refusal :=
  issue (.barr gd n) gd 4 (fun r s =>
    if !(s.bar r.k.1 n.val).mask.getLsbD r.k.2 then .trap .illegalOperand (wordOf n.val)
    else drain r 1 s (
      if r.t.arrived.getLsbD n.val then .wait (.barr n) 0 s else .done {} (s.barArrive r.k n.val))) s

/-- `BWAIT` (R289). -/
def execBwait (gd : Guard) (n : Fin 8) (d : GReg) (b : OpB) (s : State) : Host.Outcome State Fault Refusal :=
  issue (.bwait gd n d b) gd 4 (fun r s =>
    if !(s.bar r.k.1 n.val).mask.getLsbD r.k.2 then .trap .illegalOperand (wordOf n.val)
    else match r.t.firstBound [d] with
      | some g => .trap .boundWrite (wordOf g.val)
      | none =>
        if r.t.bdone.getLsbD n.val || !r.t.arrived.getLsbD n.val then .writeG d 0 s
        else if r.t.intPending then .writeG d 2 s
        else .wait (.bwait n d) (OpB.zx r.t b).toNat s) s

end Sys2Proof.Machine
end

