-- ==== Sys2Proof/Machine/ClauseIsa.lean ====
section
/-! DEFINITION. The clause instructions, opcodes 0xB0 to 0xB4 (R140, R143, R149 to R152), and the clause part of `ERET`. -/

namespace Sys2Proof.Machine

/-- The clause that `BIND` installs. -/
def BindX.clause (x : BindX) (d a : GReg) (b : OpB) (c : GReg) : Clause :=
  ⟨d, a, b, c, x.form, x.op1, x.op2, false, false⟩

/-- `BIND` (R143): no other clause may bind D, and no source may depend on D; the slot's old clause goes, and the new one is
evaluated with the clauses that depend on D. -/
def execBind (gd : Guard) (x : BindX) (d a : GReg) (b : OpB) (c : GReg) (s : State) : Host.Outcome State Fault Refusal :=
  issue (.bind gd x d a b c) gd 4 (fun r s =>
    let n := x.slot.val
    let cl := BindX.clause x d a b c
    let taken := (List.range 8).any fun i => i != n && (match r.t.clause i with
      | some e => e.dst == d
      | none => false)
    if taken then .trap .illegalOperand (wordOf d.val)
    else if cl.srcs.any ((r.t.reach n 8 [d]).contains ·) then .trap .clauseCycle (wordOf (n * 256 + d.val))
    else
      let t := r.t.setClause n (some cl)
      .done { slots := some (t.closure 8 [n]) } (s.setThr r.k t)) s

/-- `UNBIND` (R151). -/
def execUnbind (gd : Guard) (slot : Fin 8) (s : State) : Host.Outcome State Fault Refusal :=
  issue (.unbind gd slot) gd 4 (fun r s => .done {} (s.updThr r.k (·.setClause slot.val none))) s

def execUnbindAll (gd : Guard) (s : State) : Host.Outcome State Fault Refusal :=
  issue (.unbindAll gd) gd 4 (fun r s =>
    .done {} (s.updThr r.k fun t => { t with cl := Vector.replicate 8 none })) s

/-- `CLST` (R152). -/
def execClst (gd : Guard) (d : GReg) (b : OpB) (s : State) : Host.Outcome State Fault Refusal :=
  issue (.clst gd d b) gd 4 (fun r s =>
    let n := OpB.zx r.t b
    if n.toNat > 7 then .trap .illegalOperand (wordOf (0x200 + OpB.spec b)) else .writeG d (r.t.clst n.toNat) s) s

/-- `CLHOLD` (R150). -/
def execClhold (gd : Guard) (s : State) : Host.Outcome State Fault Refusal :=
  issue (.clhold gd) gd 4 (fun r s => .done {} (s.updThr r.k fun t => { t with hold := true })) s

/-- Slots whose clause satisfies a condition. -/
def Thread.slotsOf (t : Thread) (p : Clause → Bool) : List Nat :=
  (List.range 8).filter fun i => match t.clause i with
    | some c => p c
    | none => false

/-- `CLREL` (R150): in task mode every DIRTY or STALE clause is evaluated. -/
def execClrel (gd : Guard) (s : State) : Host.Outcome State Fault Refusal :=
  issue (.clrel gd) gd 4 (fun r s =>
    let is := if r.t.mode then [] else r.t.slotsOf fun c => c.dirty || c.stale
    .done { slots := some is } (s.updThr r.k fun t => { t with hold := false })) s

/-- The slots that `ERET` evaluates when it returns to task mode with HOLD clear (R149). -/
def Thread.eretSlots (t : Thread) : List Nat :=
  if t.hold || t.pmode then [] else t.slotsOf fun c => c.dirty && !c.stale

end Sys2Proof.Machine
end

