-- ==== Sys2Proof/Machine/Cards.lean ====
section
/-! DEFINITION. Cards: their fields (R222, R223, R234, R235, R237, R247, R261, R267, R268, R273), the checks of `STQ` (R226,
R244, R248, R259, R262) and footprints (R229, R249, R269). -/

namespace Sys2Proof.Machine

abbrev Card := BitVec 512

/-- Bits [hi:lo] of a card. -/
def Card.f (c : Card) (hi lo : Nat) : Nat := c.toNat >>> lo % 2 ^ (hi - lo + 1)
def Card.fs (c : Card) (hi lo : Nat) : Int := Num.sgn (hi - lo + 1) (Card.f c hi lo)
def Card.type (c : Card) : Nat := Card.f c 7 0
def Card.tag (c : Card) : Nat := Card.f c 13 8
def Card.rnd (c : Card) : Nat := Card.f c 16 14
/-- The publish mask's bits d and h (R222). -/
def Card.pubD (c : Card) : Bool := c.getLsbD 20
def Card.pubH (c : Card) : Bool := c.getLsbD 21

def Card.steal (c : Card) : Bool := c.getLsbD 22
def Card.snap (c : Card) : Bool := c.getLsbD 23
def Card.zb (c : Card) : Bool := c.getLsbD 24

/-- The SPACE and the ADDR of an address word at bit lo (R223). -/
def Card.sp (c : Card) (lo : Nat) : Nat := Card.f c (lo + 50) (lo + 48)
def Card.addr (c : Card) (lo : Nat) : Nat := Card.f c (lo + 47) lo

/-- The element type in a field; only checked cards are read. -/
def Card.ty (c : Card) (hi lo : Nat) : ETy := (ETy.ofCode (Card.f c hi lo)).getD .uint8

/-! ### Checks (R226): failures as (bit, reason) -/

/-- A failure at a bit when a condition holds. -/
def failIf (c : Bool) (bit reason : Nat) : List (Nat × Nat) := if c then [(bit, reason)] else []

/-- Reserved bits: the lowest nonzero one fails. -/
def resBad (c : Card) (hi lo : Nat) : List (Nat × Nat) :=
  match (List.range (hi - lo + 1)).find? fun i => c.getLsbD (lo + i) with
  | some i => [(lo + i, 3)]
  | none => []

/-- A type field: reserved codes, then the types the card takes. -/
def typeBad (c : Card) (hi lo : Nat) (ok : ETy → Bool) : List (Nat × Nat) :=
  match ETy.ofCode (Card.f c hi lo) with
  | none => [(lo, 3)]
  | some t => failIf (!ok t) lo 5

def isF32BF (t : ETy) : Bool := t == .fp32 || t == .bf16

/-- Bits of an element, for the field that names it. -/
def Card.wd (c : Card) (hi lo : Nat) : Nat := ((ETy.ofCode (Card.f c hi lo)).map ETy.bits).getD 8

/-- An address word that may name global memory or a buffer, or, as a destination, a FIFO (R223, R226). -/
def wordBad (c : Card) (lo : Nat) (fifo : Bool) : List (Nat × Nat) :=
  let sp := Card.sp c lo
  resBad c (lo + 63) (lo + 51) ++ failIf (sp == 4 || sp == 5) (lo + 48) 3 ++
    failIf (decide (sp ≥ 6) && (!fifo || Card.addr c lo != 0)) (lo + 48) 5 ++
    failIf (Card.steal c && sp != 0 && sp != 4 && sp != 5) (lo + 48) 5

/-- Header checks of every card. -/
def headBad (c : Card) : List (Nat × Nat) := resBad c 31 25 ++ failIf (Card.rnd c == 5 || Card.rnd c == 6) 14 4

/-- No STEAL, SNAP or ZB. -/
def plainBad (c : Card) : List (Nat × Nat) :=
  failIf (Card.steal c) 22 5 ++ failIf (Card.snap c) 23 5 ++ failIf (Card.zb c) 24 5

/-- Checks that copy cards share: types, rows and row length at the given bits, FIFO and ZB rules (R66, R226, R244). -/
def copyBad (c : Card) (fill : Bool) (rows rowsLo rl rlLo stride strideLo : Nat) : List (Nat × Nat) :=
  let w := Card.wd c 41 37
  let six := w == 6 || (!fill && Card.wd c 36 32 == 6)
  let fifo := decide (Card.sp c 128 ≥ 6)
  typeBad c 41 37 (!isBlockTy ·) ++ resBad c 63 43 ++
    failIf (rl == 0 || decide (rl > 2 ^ 24)) rlLo 5 ++ failIf (rows == 0) rowsLo 5 ++ failIf (six && rl % 4 != 0) rlLo 5 ++
    failIf (fifo && stride != 0) strideLo 5 ++
    failIf (fifo && (rows * rl * w % 8 != 0 || (w == 6 && rows * rl % 4 != 0))) rowsLo 5

def copyCardBad (c : Card) (fill : Bool) : List (Nat × Nat) :=
  failIf (Card.snap c) 23 5 ++ failIf (Card.zb c && Card.sp c 128 != 2) 176 5 ++
    copyBad c fill (Card.f c 239 224) 224 (Card.f c 223 192) 192 (Card.f c 319 288) 288 ++
    resBad c 511 320 ++ resBad c 255 240 ++ wordBad c 128 true ++
    (if fill then resBad c 287 256 ++ resBad c 36 32 else wordBad c 64 false ++ typeBad c 36 32 fun _ => true)

def gatherBad (c : Card) (scatter : Bool) : List (Nat × Nat) :=
  (if scatter then failIf (Card.snap c) 23 5 ++ failIf (Card.zb c) 24 5 else failIf (Card.zb c && Card.sp c 128 != 2) 176 5) ++
    copyBad c false (Card.f c 303 288) 288 (Card.f c 287 256) 256 (Card.f c 415 384) 384 ++
    failIf (Card.f c 351 320 == 0) 320 5 ++ resBad c 511 416 ++ resBad c 319 304 ++ wordBad c 64 false ++
    wordBad c 128 (!scatter) ++ wordBad c 192 false ++ typeBad c 36 32 fun _ => true

/-- Run and record bytes of an operand format of the matrix unit (R246). -/
def runBytes (t : ETy) : Nat :=
  32 * t.bits / 8 + (match t with
    | .q16n => 8
    | .q16f | .b8i | .b4i => 4
    | _ => 0)

/-- Formats that an INT32 output takes (R248). -/
def isMmaInt : ETy → Bool
  | .int16 | .int8 | .uint8 | .int4 | .uint4 | .tern | .bin1 => true
  | _ => false

def isMmaTy (t : ETy) : Bool := decide (t.code ≤ 0x13)

def mmaBad (c : Card) : List (Nat × Nat) :=
  let m := Card.f c 71 64
  let n := Card.f c 79 72
  let k := Card.f c 95 80
  let fa := Card.ty c 36 32
  let fb := Card.ty c 41 37
  let cs := Card.f c 223 192
  let sp := Card.sp c 128
  plainBad c ++ typeBad c 36 32 isMmaTy ++ typeBad c 41 37 isMmaTy ++
    failIf (c.getLsbD 42 != (isBlockTy fa || isBlockTy fb)) 42 5 ++
    failIf (c.getLsbD 44 && !(isMmaInt fa && isMmaInt fb)) 44 5 ++ resBad c 63 46 ++
    failIf (m == 0 || decide (m > 32)) 64 5 ++ failIf (n == 0 || decide (n > 64)) 72 5 ++
    failIf (decide (k < 32) || decide (k > 4096) || k % 32 != 0) 80 5 ++ resBad c 127 96 ++
    failIf (Card.addr c 128 % 4 != 0) 128 5 ++ failIf (sp == 4 || sp == 5) 176 3 ++ failIf (sp != 3) 176 5 ++
    resBad c 191 179 ++ failIf (cs % 4 != 0 || decide (cs < 4 * n)) 192 5 ++
    failIf (Card.f c 247 224 != k / 32 * m * runBytes fa) 224 5 ++ resBad c 255 248 ++
    failIf (Card.f c 279 256 != k / 32 * n * runBytes fb) 256 5 ++ resBad c 511 280

/-- Intervals of one card that overlap, an empty one with none: the failure is at the field that lies higher (R226). -/
def overlapBad (ivs : List (Nat × Nat × Nat)) : List (Nat × Nat) :=
  ivs.flatMap fun x => ivs.filterMap fun y =>
    if x.1 < y.1 ∧ 0 < x.2.2 ∧ 0 < y.2.2 ∧ x.2.1 < y.2.1 + y.2.2 ∧ y.2.1 < x.2.1 + x.2.2 then some (y.1, 5) else none

/-- Operand offsets at the given bits must be multiples of 8 (R259). -/
def offsBad (c : Card) (los : List Nat) : List (Nat × Nat) := los.flatMap fun lo => failIf (Card.f c (lo + 31) lo % 8 != 0) lo 5

def ellHead (c : Card) : List (Nat × Nat) :=
  plainBad c ++ failIf (Card.rnd c != 0 && Card.rnd c != 5 && Card.rnd c != 6) 14 5

def dimBad (c : Card) (hi lo : Nat) : List (Nat × Nat) :=
  let d := Card.f c hi lo
  failIf (decide (d < 64) || decide (d > 8192) || d % 64 != 0) lo 5

/-- The intervals of a MERGE: the field's bit, offset, bytes (R261). -/
def mergeIvs (c : Card) : List (Nat × Nat × Nat) :=
  let n := Card.f c 79 64
  let d := Card.f c 95 80
  let left := n - Card.f c 143 128
  [(192, Card.f c 223 192, n * d * (Card.wd c 36 32 / 8)), (224, Card.f c 255 224, n * Card.f c 111 96 * (Card.wd c 41 37 / 8)),
   (256, Card.f c 287 256, 4 * n), (288, Card.f c 319 288, left * d * (Card.wd c 46 42 / 8)),
   (320, Card.f c 351 320, 4 * left), (352, Card.f c 383 352, 2 * n), (384, Card.f c 415 384, 8)]

def mergeBad (c : Card) : List (Nat × Nat) :=
  let n := Card.f c 79 64
  let u := n - Card.f c 127 112
  let r := Card.f c 143 128
  ellHead c ++ typeBad c 36 32 isF32BF ++ typeBad c 41 37 isF32BF ++ typeBad c 46 42 isF32BF ++ resBad c 63 47 ++
    failIf (n == 0) 64 5 ++ dimBad c 95 80 ++ dimBad c 111 96 ++ failIf (decide (Card.f c 127 112 > n)) 112 5 ++
    failIf (decide (r > (u + 1) / 2) || (r != 0 && decide (u < 2))) 128 5 ++
    failIf (c.getLsbD 149 && Card.f c 148 144 != 0) 149 5 ++ resBad c 191 150 ++
    offsBad c [192, 224, 256, 288, 320, 352, 384] ++ overlapBad (mergeIvs c) ++ resBad c 511 416

def unmergeBad (c : Card) : List (Nat × Nat) :=
  ellHead c ++ typeBad c 36 32 isF32BF ++ resBad c 63 38 ++ resBad c 79 69 ++ dimBad c 95 80 ++ resBad c 127 96 ++
    offsBad c [128, 160] ++ resBad c 511 192

/-- The intervals of a ROUTE (R273). -/
def routeIvs (c : Card) : List (Nat × Nat × Nat) :=
  let t := Card.f c 79 64
  let e := Card.f c 95 80
  let tk := t * (Card.f c 39 37 + 1)
  [(128, Card.f c 159 128, t * e * (Card.wd c 36 32 / 8)), (160, Card.f c 191 160, 4 * tk), (192, Card.f c 223 192, 2 * tk),
   (224, Card.f c 255 224, 4 * e), (256, Card.f c 287 256, 4 * e), (288, Card.f c 319 288, 4 * tk),
   (320, Card.f c 351 320, 4 * Card.f c 127 112), (352, Card.f c 383 352, 8)]

def routeBad (c : Card) : List (Nat × Nat) :=
  let e := Card.f c 95 80
  ellHead c ++ typeBad c 36 32 isF32BF ++ resBad c 63 40 ++ failIf (Card.f c 79 64 == 0) 64 5 ++
    failIf (decide (e < 2) || decide (e > 256) || decide (Card.f c 39 37 + 1 > e)) 80 5 ++
    offsBad c [128, 160, 192, 224, 256, 288, 320, 352] ++ overlapBad (routeIvs c) ++ resBad c 511 384

def mapfreeBad (c : Card) : List (Nat × Nat) :=
  ellHead c ++ resBad c 63 32 ++ failIf (c.getLsbD 69 && Card.f c 68 64 != 0) 69 5 ++ resBad c 511 70

/-- Types of a collective (R237). -/
def isCollTy (t : ETy) : Bool := t == .fp32 || t == .fp16 || t == .bf16 || t == .int32

/-- The failures of a collective card (R237); the SOURCE of a `BCAST` card whose RANK is not ROOT is ignored, so not tested. -/
def collBad (c : Card) : List (Nat × Nat) :=
  let ty := Card.type c
  let np := Card.f c 279 272
  let glob (lo : Nat) : List (Nat × Nat) :=
    let sp := Card.sp c lo
    resBad c (lo + 63) (lo + 51) ++ failIf (sp == 4 || sp == 5) (lo + 48) 3 ++ failIf (sp != 0) (lo + 48) 5
  plainBad c ++ typeBad c 36 32 isCollTy ++
    failIf (decide (Card.f c 39 37 > (if ty == 0x30 || ty == 0x32 then 2 else 0))) 37 5 ++
    (if ty = 0x33 then failIf (decide (Card.f c 47 40 ≥ np)) 272 5 else failIf (Card.f c 47 40 != 0) 40 5) ++
    resBad c 63 48 ++ (if ty = 0x33 ∧ Card.f c 47 40 ≠ Card.f c 287 280 then [] else glob 64) ++ glob 128 ++ failIf (Card.f c 223 192 == 0) 192 5 ++ resBad c 255 224 ++
    failIf (decide (np < 2)) 272 5 ++ failIf (decide (Card.f c 287 280 ≥ np)) 280 5 ++ resBad c 511 288

/-- Whether a queue of R221 takes a card type. -/
def queueTakes (q ty : Nat) : Bool :=
  match q with
  | 0 => decide (1 ≤ ty) && decide (ty ≤ 4)
  | 1 => ty == 0x10
  | 2 => decide (0x20 ≤ ty) && decide (ty ≤ 0x23)
  | _ => decide (0x30 ≤ ty) && decide (ty ≤ 0x33)

/-- All failures of a card, by type. -/
def cardBad (c : Card) : List (Nat × Nat) :=
  headBad c ++ (match Card.type c with
    | 0x01 => copyCardBad c false
    | 0x04 => copyCardBad c true
    | 0x02 => gatherBad c false
    | 0x03 => gatherBad c true
    | 0x10 => mmaBad c
    | 0x20 => mergeBad c
    | 0x21 => unmergeBad c
    | 0x22 => routeBad c
    | 0x23 => mapfreeBad c
    | _ => collBad c)

/-- `check_card` (R226): the byte offset and the reason of the first failure. -/
def checkCard (c : Card) (q : Nat) : Option (Nat × Nat) :=
  if !queueTakes q (Card.type c) then some (0, 2)
  else match cardBad c with
    | [] => none
    | f :: fs =>
      let b := fs.foldl (fun b g => if g.1 < b.1 then g else b) f
      some (b.1 / 8, b.2)

/-! ### Footprints (R229) -/

/-- A bounding interval of n rows of rb bytes at an address word; FIFOs have none. -/
def rowsIv (q : QCard) (lo : Nat) (stride : Int) (n rb : Nat) : List Interval :=
  let sp := Card.sp q.card lo
  if sp ≥ 6 then []
  else
    let a : Int := Card.addr q.card lo
    let span : Int := ((n : Int) - 1) * stride
    [⟨sp, if sp = 0 then 0 else q.core, a + (if span < 0 then span else 0), a + (if span < 0 then 0 else span) + rb⟩]

/-- An interval in the A space of the posting core. -/
def ivA (q : QCard) (p : Nat × Nat × Nat) : Interval := ⟨2, q.core, p.2.1, p.2.1 + p.2.2⟩

/-- The whole A space of the posting core. -/
def wholeA (q : QCard) : Interval := ⟨2, q.core, -(2 ^ 63), 2 ^ 63⟩

/-- The C interval of an MMA card (R249). -/
def mmaIv (c : Card) : Nat × Nat :=
  (Card.addr c 128, (Card.f c 71 64 - 1) * Card.f c 223 192 + 4 * Card.f c 79 72)

/-- Read and write footprints. -/
def footprint (q : QCard) : List Interval × List Interval :=
  let c := q.card
  let rowB (rl w : Nat) : Nat := (rl * w + 7) / 8
  let ob (rl : Nat) : Nat := rowB rl (Card.wd c 41 37)
  let ib (rl : Nat) : Nat := rowB rl (Card.wd c 36 32)
  match Card.type c with
  | 0x01 =>
    let rl := Card.f c 223 192
    (rowsIv q 64 (Card.fs c 287 256) (Card.f c 239 224) (ib rl), rowsIv q 128 (Card.fs c 319 288) (Card.f c 239 224) (ob rl))
  | 0x04 => ([], rowsIv q 128 (Card.fs c 319 288) (Card.f c 239 224) (ob (Card.f c 223 192)))
  | 0x02 | 0x03 =>
    let rl := Card.f c 287 256
    let n := Card.f c 303 288
    let tab (lo rb : Nat) : List Interval :=
      (rowsIv q lo (Card.f c 383 352) (Card.f c 351 320) rb).map fun i =>
        { i with hi := max i.hi (i.lo + Card.f c 351 320 * Card.f c 383 352) }
    let ix := rowsIv q 192 4 n 4
    if Card.type c = 0x02 then (tab 64 (ib rl) ++ ix, rowsIv q 128 (Card.fs c 415 384) n (ob rl))
    else (rowsIv q 64 (Card.fs c 415 384) n (ib rl) ++ ix, tab 128 (ob rl))
  | 0x10 =>
    let (a, n) := mmaIv c
    let i : Interval := ⟨3, q.core, a, a + n⟩
    (if c.getLsbD 43 then [i] else [], [i])
  | 0x20 => (((mergeIvs c).take 3).map (ivA q), ((mergeIvs c).drop 3).map (ivA q))
  | 0x21 => ([wholeA q], [wholeA q])
  | 0x22 => (((routeIvs c).take 1).map (ivA q), ((routeIvs c).drop 1).map (ivA q))
  | _ => ([], [])

/-- Whether two intervals share a byte; one of no bytes shares none. -/
def Interval.meets (a b : Interval) : Bool :=
  a.space == b.space && a.core == b.core && decide (max a.lo b.lo < min a.hi b.hi)

def meet (as bs : List Interval) : Bool := as.any fun a => bs.any a.meets

/-- The map cards (R269). -/
def isMapCard (c : Card) : Bool := Card.type c == 0x20 || Card.type c == 0x21 || Card.type c == 0x23

/-- Whether a card n waits for a card p admitted before it (R229, R249, R269). -/
def depends (n p : WinEnt) : Bool :=
  n.card.cid == p.card.cid &&
    ((isMapCard n.card.card && isMapCard p.card.card) ||
      (!(n.kind == 1 && p.kind == 1 && n.card.core == p.card.core) &&
        (meet p.wr n.rd || meet p.rd n.wr || meet p.wr n.wr)))

end Sys2Proof.Machine
end

