-- ==== Sys2Proof/Machine/Queues.lean ====
section
/-! DEFINITION. Tags (R218, R219), queues (R221), the footprint window (R228, R229), `STQ` (R224, R225) and the tag
instructions (R239 to R241). -/

namespace Sys2Proof.Machine

/-! ### Tags -/

def Core.tagAt (c : Core) (n : Nat) : Tag := vget c.tags n ⟨0, false, false, 0⟩
def Core.setTag (c : Core) (n : Nat) (t : Tag) : Core := { c with tags := vset c.tags n t }

/-- Posting a job that names a tag (R218). -/
def Tag.post (t : Tag) : Tag :=
  let t := if t.count = 0 then ⟨0, false, false, 0⟩ else t
  { t with count := t.count + 1 }

/-- The end of a job: SAT and the class in normal phase, the first fault in error phase (R218, R219). -/
def Tag.done' (t : Tag) (cls : Nat) (sat : Bool) (fault : Option (Nat × Nat)) : Tag :=
  let clean := t.status.extractLsb' 0 8 == 0#8
  let t := match fault with
    | none =>
      if clean then
        { t with status := wordOf ((t.status.getLsbD 16 || sat).toNat * 2 ^ 16 + cls * 2 ^ 8) }
      else t
    | some (code, addr) =>
      { t with
        err := true
        status := if clean then wordOf (addr % 2 ^ 52 / 16 * 2 ^ 16 + cls * 2 ^ 8 + code) else t.status }
  let n := t.count - 1
  { t with count := n, done := t.done || n == 0 }

/-- Whether the condition of `TWANY` or `TWALL` holds (R240). -/
def twHolds (all : Bool) (tags m : Word) : Bool := if all then tags &&& m == m else tags &&& m != 0

/-- Wake the threads of a core that wait on tags. -/
def State.pollTags (s : State) (core : Nat) : State :=
  (List.range 16).foldl (fun s t => match (s.thr (core, t)).pend with
    | some ⟨.twany d m, _, _, _, _⟩ =>
      if twHolds false (s.core core).tagsMask m then s.resume (core, t) true (.writeG d 1 s) else s
    | some ⟨.twall d m, _, _, _, _⟩ =>
      if twHolds true (s.core core).tagsMask m then s.resume (core, t) true (.writeG d 1 s) else s
    | _ => s) s

/-- A job completes to a tag of its posting core; a launch whose threads have exited may then be complete (R88, R218). -/
def State.tagDone (s : State) (core cid n cls : Nat) (sat : Bool) (fault : Option (Nat × Nat)) : State :=
  let s := s.hurt (dieOf core) cid (fault.map (·.1))
  if (s.core core).run ≠ some cid then s
  else
    let s := s.updCore core fun c => c.setTag n ((c.tagAt n).done' cls sat fault)
    let s := s.pollTags core
    if (s.thr (core, 0)).st = .exited then s.post 0 (.launchComplete (s.ctx (dieOf core) cid).launch) else s

/-! ### Queues -/

/-- The queue at a window offset's number, as a core reaches it (R221). -/
def State.queue (s : State) (core q : Nat) : Queue :=
  match q with
  | 0 => (s.core core).cq
  | 1 => (s.core core).mq
  | 2 => (s.cluster (clusterOf core)).eq
  | _ => (s.die (dieOf core)).colq

def State.setQueue (s : State) (core q : Nat) (x : Queue) : State :=
  match q with
  | 0 => s.updCore core fun c => { c with cq := x }
  | 1 => s.updCore core fun c => { c with mq := x }
  | 2 => s.updCluster (clusterOf core) fun c => { c with eq := x }
  | _ => s.updDie (dieOf core) fun d => { d with colq := x }

/-- A card enters a queue, before those of the same cycle that a higher core posted (R221). -/
def Queue.push (x : Queue) (c : QCard) : Queue :=
  let later := (x.cards.reverse.takeWhile fun p => p.at' == c.at' && decide (c.core < p.core)).length
  let n := x.cards.length - later
  { x with cards := x.cards.take n ++ c :: x.cards.drop n, prod := x.prod + 1 }

/-- The queue without the cards enqueued in a cycle, as an issue of that cycle reads it (R113, R240). -/
def Queue.before (x : Queue) (now : Nat) : Queue :=
  let n := (x.cards.filter (·.at' == now)).length
  { x with prod := x.prod - BitVec.ofNat 6 n }

/-- The consumer pointer passes the released cards at the head. -/
def Queue.trim (x : Queue) : Queue :=
  let rest := x.cards.dropWhile (·.released)
  { x with cards := rest, cons := x.cons + BitVec.ofNat 6 (x.cards.length - rest.length) }

def Queue.release (x : Queue) (id : Nat) : Queue :=
  let mark (c : QCard) : QCard := if c.id = id then { c with released := true } else c
  ({ x with cards := x.cards.map mark }).trim

def Queue.room (x : Queue) : Bool := decide (x.cards.length < 32)

/-- The `QSTAT` word (R241). -/
def Queue.word (x : Queue) : Word :=
  wordOf ((x.prod - x.cons).toNat * 2 ^ 16 + x.cons.toNat * 2 ^ 8 + x.prod.toNat)

/-- Cores that share a queue with a core. -/
def sharers (core q : Nat) : List Nat :=
  match q with
  | 0 | 1 => [core]
  | 2 => (List.range 16).map (coreIn (clusterOf core))
  | _ => (List.range 256).map (dieOf core * 256 + ·)

/-! ### The footprint window (R228) -/

def Cluster.entry (c : Cluster) (id : Nat) : Option WinEnt := c.win.find? (·.card.id == id)

/-- The cards of the three kinds of queue of a cluster that are held and not admitted, with their kinds. -/
def State.waitingCards (s : State) (cl : Nat) : List (QCard × Nat) :=
  let c := s.cluster cl
  let of (q : Queue) (kind : Nat) : List (QCard × Nat) :=
    (q.cards.filter fun x => !x.released && (c.entry x.id).isNone).map (·, kind)
  ((List.range 16).flatMap fun n => of (s.core (coreIn cl n)).cq 0 ++ of (s.core (coreIn cl n)).mq 1) ++ of c.eq 2

/-- The heads of the copy and matrix queues. -/
def State.heads (s : State) (cl : Nat) : List Nat :=
  (List.range 16).flatMap fun n =>
    let c := s.core (coreIn cl n)
    let h (q : Queue) : List Nat := ((q.cards.find? (!·.released)).map (·.id)).toList
    h c.cq ++ h c.mq

/-- Queue-entry order: by cycle, then by core (R221). -/
def QCard.first (a b : QCard) : Bool :=
  a.at' < b.at' || (a.at' == b.at' && (a.core < b.core || (a.core == b.core && a.id < b.id)))

/-- The card to take in next: the earliest in queue-entry order that a reserved or a shared entry can take. -/
def State.nextAdmit (s : State) (cl : Nat) : Option (QCard × Nat) :=
  let hs := s.heads cl
  let used := ((s.cluster cl).win.filter fun w => !hs.contains w.card.id).length
  let cs := (s.waitingCards cl).filter fun c => hs.contains c.1.id || decide (used < 32)
  cs.foldl (fun b c => match b with
    | some x => if c.1.first x.1 then some c else b
    | none => some c) none

/-- Admit cards while entries are free; each gains its edges (R229). -/
def State.takeIn (s : State) (cl : Nat) : Nat → State
  | 0 => s
  | n + 1 =>
    match s.nextAdmit cl with
    | none => s
    | some (q, kind) =>
      let (rd, wr) := footprint q
      let e : WinEnt := ⟨q, kind, rd, wr, [], s.now + 1⟩
      let ps := ((s.cluster cl).win.filter (depends e)).map (·.card.id)
      (s.updCluster cl fun c => { c with win := c.win ++ [{ e with deps := ps }] }).takeIn cl n

/-- Let the engines of a cluster look for work in the next cycle (R260, R388), and idle copy engines for work to steal (R232). -/
def State.kickCluster (s : State) (cl : Nat) : State :=
  let s := (List.range 16).foldl (fun s n =>
    let k := coreIn cl n
    let c := s.core k
    let s := if c.copy.job.isNone && (!c.cq.cards.isEmpty || c.copy.parkA.isSome || c.copy.parkB.isSome) then
        s.post 1 (.copyJobStart k) else s
    let s := if c.mat.run.isNone && !c.mq.cards.isEmpty then s.post 0 (.mmaFire k) else s
    if c.copy.job.isNone && c.run.isSome then s.post (Nat.max 1 (c.copy.idle + 256 - s.now)) (.copySteal k) else s) s
  let c := s.cluster cl
  if c.ejob.isNone && !c.eq.cards.isEmpty then s.post 1 (.ellipsisJobStart cl) else s

/-- Queued cards enter the window (R228). -/
def execCardAdmission (cluster : Nat) (s : State) : Host.Outcome State Fault Refusal :=
  .next ((s.takeIn cluster 64).kickCluster cluster)

/-- Whether a card is admitted with no incomplete predecessor (R229, R230). -/
def Cluster.fireable (c : Cluster) (id : Nat) : Bool := match c.entry id with
  | some w => w.deps.isEmpty
  | none => false

/-! ### Collectives join by group (R238) -/

/-- The group of a card, as its die holds it. -/
def State.groupOf (s : State) (q : QCard) : Option Group := tget s.groups (dieOf q.core * 2 ^ 16 + Card.f q.card 271 256)

/-- The members of a group that are dies of this package. -/
def State.localDies (s : State) (g : Group) : List Nat :=
  (g.members.filter fun m => s.parts.any fun p => p.2.dev == m.1 && p.2.dies.contains m.2).map (·.2)

/-- Whether two cards name one group: the dies of both hold the same definition of it, and are among its members (R357). -/
def State.oneGroup (s : State) (a b : QCard) : Bool :=
  match s.groupOf a, s.groupOf b with
  | some g, some h =>
    g.npart == h.npart && g.members.all h.members.contains && h.members.all g.members.contains &&
      (s.localDies g).contains (dieOf a.core) && (s.localDies g).contains (dieOf b.core)
  | _, _ => false

/-- A collective card joins the first collective of its group that its die has not joined. -/
def State.collJoin (s : State) (q : QCard) : State :=
  let g := Card.f q.card 271 256
  match s.colls.find? fun x => x.2.group == g && x.2.left.isEmpty && x.2.cards.all (s.oneGroup q) &&
      !x.2.cards.any fun c => dieOf c.core == dieOf q.core with
  | some (id, x) => ({ s with colls := tput s.colls id { x with cards := x.cards ++ [q] } }).post 0 (.collectivePhaseEnd id)
  | none =>
    let (id, s) := s.fresh
    ({ s with colls := tput s.colls id ⟨g, [q], 0, false, [], [], [], false⟩ }).post 0 (.collectivePhaseEnd id)

/-! ### `STQ` -/

/-- The commit of `STQ`: the tag is posted and the card enqueued (R225). -/
def State.stqCommit (s : State) (k : Key) (q : Nat) (card : Card) : State :=
  let (id, s) := s.fresh
  let x : QCard := ⟨id, k.1, (s.core k.1).cid, card, false, s.now⟩
  let s := s.updCore k.1 fun c => c.setTag (Card.tag card) (c.tagAt (Card.tag card)).post
  let s := s.setQueue k.1 q ((s.queue k.1 q).push x)
  if q = 3 then s.collJoin x else s.post 0 (.cardAdmission (clusterOf k.1))

/-- Threads that wait for room in a queue post their cards (R225, R90). -/
def State.pollQueue (s : State) (core q : Nat) : State :=
  (sharers core q).foldl (fun s c => (List.range 16).foldl (fun s t => match (s.thr (c, t)).pend with
    | some ⟨.stq p card, _, _, _, _⟩ =>
      if p = q ∧ (s.queue c q).room then s.resume (c, t) true (.done {} (s.stqCommit (c, t) q card)) else s
    | _ => s) s) s

/-- A card is released: its window entry and the edges on it go, its queue entry may be passed (R221, R229). -/
def State.release (s : State) (q : Nat) (c : QCard) : State :=
  let s := s.setQueue c.core q ((s.queue c.core q).release c.id)
  let s := if q = 3 then s else
    (s.updCluster (clusterOf c.core) fun x =>
      let drop (w : WinEnt) : WinEnt :=
        if w.deps.contains c.id then { w with deps := w.deps.filter (· != c.id), since := s.now + 1 } else w
      { x with win := (x.win.filter (·.card.id != c.id)).map drop }).post 0 (.cardAdmission (clusterOf c.core))
  s.pollQueue c.core q

/-- Whether the tag of a card is still to wait for acknowledgements of its posted writes (R220). -/
def State.pubWaits (s : State) (q : QCard) : Bool :=
  s.reqs.any fun p => p.2.slot == 16 && p.2.serial == q.id && p.2.cid == q.cid &&
    ((p.2.tier == 2 && Card.pubD q.card) || (p.2.tier == 3 && Card.pubH q.card))

/-- A card's job ends: the tag, then the release. -/
def State.endCard (s : State) (q : Nat) (c : QCard) (cls : Nat) (sat : Bool) (fault : Option (Nat × Nat)) : State :=
  (s.tagDone c.core c.cid (Card.tag c.card) cls sat fault).release q c

/-- The queue number of a window offset. -/
def queueAt (a : Nat) : Option Nat := if a < 256 then some (a / 64) else none

/-- `STQ` (R222). The card of a light thread, which has no vector registers (R96), is what its register reads as in the model, 0 from its
start on (notes/assumptions/106, DESIGN CHOICE). -/
def execStq (gd : Guard) (a : GReg) (b : OpB) (c : VReg) (s : State) : Host.Outcome State Fault Refusal :=
  issue (.stq gd a b c) gd 320 (fun r s => noStreams r [(3, c)] s (
    let va := (memAddr r.t a b).toNat
    let card : Card := (r.t.rv c).extractLsb' 0 512
    if r.t.light ∧ Card.type card = 0x10 then .trap .illegalInstruction (wordVal r.i)
    else if va % 64 ≠ 0 then .trap .misaligned (wordOf va)
    else match queueAt va with
    | none => .trap .cardRejected 1
    | some q =>
      if s.early ∧ (q = 1 ∨ q = 2) then .trap .cardRejected 1
      else match checkCard card q with
      | some (off, reason) => .trap .cardRejected (wordOf (off * 256 + reason))
      | none =>
        let card : Card := if Card.rnd card = 7 then
            (card &&& ~~~(7#512 <<< 14)) ||| (BitVec.ofNat 512 r.t.rm <<< 14) else card
        drain r 17 s (
          if (s.queue r.k.1 q).room then .done {} ((s.past r.n).stqCommit r.k q card)
          else .wait (.stq q card) 0 s))) s

/-! ### Waiting on and reading tags (R240) -/

/-- `TWANY` and `TWALL`; an empty mask ends them at once. -/
def tagWait (i : Instr) (gd : Guard) (all : Bool) (d a : GReg) (b : OpB) (s : State) : Host.Outcome State Fault Refusal :=
  issue i gd 4 (fun r s =>
    match r.t.firstBound [d] with
    | some g => .trap .boundWrite (wordOf g.val)
    | none =>
      let m := r.t.rg a
      if m = 0 then .writeG d (if all then 1 else 2) s
      else if twHolds all (s.core r.k.1).tagsMask m then .writeG d 1 s
      else if r.t.intPending then .writeG d 3 s
      else .wait (if all then .twall d m else .twany d m) (OpB.zx r.t b).toNat s) s

def execTwany (gd : Guard) (d a : GReg) (b : OpB) (s : State) : Host.Outcome State Fault Refusal :=
  tagWait (.twany gd d a b) gd false d a b s

def execTwall (gd : Guard) (d a : GReg) (b : OpB) (s : State) : Host.Outcome State Fault Refusal :=
  tagWait (.twall gd d a b) gd true d a b s

def execTffr (gd : Guard) (d a : GReg) (s : State) : Host.Outcome State Fault Refusal :=
  issueSeen (.tffr gd d a) gd 4 (fun s => [(s.core s.cur.1).tagsMask]) (fun l r s =>
    let m := l.headD 0 &&& r.t.rg a
    .writeG d (wordOf (((List.range 64).find? (m.getLsbD ·)).getD 64)) s) s

/-- The tags of a core whose count is not 0. -/
def Core.tagsBusy (c : Core) : Word := wordOf (maskNat ((List.range 64).map fun n => (c.tagAt n).count != 0))

/-- `TCLR`: a tag busy in the issue cycle, or busy again when it is executed, stays as it is (notes/assumptions/103, DESIGN CHOICE
where the two differ). -/
def execTclr (gd : Guard) (d : GReg) (b : OpB) (s : State) : Host.Outcome State Fault Refusal :=
  issueSeen (.tclr gd d b) gd 4 (fun s => [(s.core s.cur.1).tagsBusy]) (fun l r s =>
    let m := OpB.zx r.t b
    let c := s.core r.k.1
    let busy := l.headD 0
    let tags := c.tags.mapFinIdx fun n t _ =>
      if m.getLsbD n && !busy.getLsbD n && t.count == 0 then ⟨0, false, false, 0⟩ else t
    .writeG d (m &&& busy) (s.setCore r.k.1 { c with tags := tags })) s

def execTstatus (gd : Guard) (d : GReg) (b : OpB) (s : State) : Host.Outcome State Fault Refusal :=
  issueSeen (.tstatus gd d b) gd 4 (fun s => (List.range 64).map fun n => ((s.core s.cur.1).tagAt n).status) (fun l r s =>
    let n := (OpB.zx r.t b).toNat
    if n > 63 then .trap .illegalOperand (wordOf (0x200 + OpB.spec b))
    else .writeG d (l.getD n 0) s) s

def execQstat (gd : Guard) (d : GReg) (b : OpB) (s : State) : Host.Outcome State Fault Refusal :=
  issueSeen (.qstat gd d b) gd 4 (fun s => (List.range 4).map fun q => ((s.queue s.cur.1 q).before s.now).word) (fun l r s =>
    let q := (OpB.zx r.t b).toNat
    if q > 3 then .trap .illegalOperand (wordOf (0x200 + OpB.spec b)) else .writeG d (l.getD q 0) s) s

end Sys2Proof.Machine
end

