-- ==== Sys2Proof/Machine/Copy.lean ====
section
/-! DEFINITION. The copy engines (R230 to R236, R243 to R245, R388): elements, chunks, parking, stealing, and the abort of
the matrix FIFOs (R256). -/

namespace Sys2Proof.Machine

/-! ### The shape of a job -/

def isRows (c : Card) : Bool := Card.type c == 1 || Card.type c == 4
def jobRows (c : Card) : Nat := if isRows c then Card.f c 239 224 else Card.f c 303 288
def jobLen (c : Card) : Nat := if isRows c then Card.f c 223 192 else Card.f c 287 256
def jobTotal (c : Card) : Nat := jobRows c * jobLen c
def jobOut (c : Card) : ETy := Card.ty c 41 37
def jobIn (c : Card) : ETy := if Card.type c = 4 then jobOut c else Card.ty c 36 32

/-- Elements of a chunk of 4 KiB of destination; a 6-bit format in whole groups of 4. -/
def chunkEls (t : ETy) : Nat := if t.bits = 6 then 5460 else 32768 / t.bits

/-- Elements of chunk i of a job. -/
def chunkCount (c : Card) (i : Nat) : Nat := min (chunkEls (jobOut c)) (jobTotal c - i * chunkEls (jobOut c))

/-- The FIFO a card fills: 6 or 7. -/
def fifoOf (c : Card) : Option Nat := if Card.type c ≤ 4 ∧ Card.sp c 128 ≥ 6 then some (Card.sp c 128) else none

/-! ### One element (R230) -/

/-- A place for a row: its space and first byte. -/
abbrev RowAt := Nat × Int

/-- A fault of an engine: code and address (R209). -/
abbrev EFault := Nat × Nat

def rowAt (c : Card) (lo : Nat) (off : Int) : RowAt :=
  let a : Int := Card.addr c lo + off
  (Card.sp c lo, if Card.sp c lo = 0 then a % 2 ^ 48 else a)

/-- The byte offset, bit offset and bytes of element e of width w (R66). -/
def packAt (w e : Nat) : Nat × Nat × Nat := (e * w / 8, e * w % 8, (e * w % 8 + w + 7) / 8)

/-- The leaf of a byte for an engine, task mode (R204, R209). -/
def State.engLeaf (s : State) (q : QCard) (acc : AccK) (va : Nat) : Except EFault Entry :=
  match s.transEng q.core q.cid va with
  | .absent => .error (0x40, va)
  | .leaf e => if permitted (s.partOf (dieOf q.core) q.cid).keys acc true e then .ok e else .error (0x41, va)

/-- The leaves of the n ≤ 8 bytes at va, with the bytes in each: one part, or two at a page boundary. -/
def State.engParts (s : State) (q : QCard) (acc : AccK) (va n : Nat) : Except EFault (List (Entry × Nat × Nat)) :=
  let n1 := min n (2 ^ 16 - va % 2 ^ 16)
  match s.engLeaf q acc va with
  | .error f => .error f
  | .ok e =>
    if n1 = n then .ok [(e, va, n)]
    else
      let v2 := (va + n1) % 2 ^ 48
      match s.engLeaf q acc v2 with
      | .error f => .error f
      | .ok e2 => .ok [(e, va, n1), (e2, v2, n - n1)]

/-- Read the parts, little-endian; step 7 of R208. -/
def State.readParts (s : State) : List (Entry × Nat × Nat) → Except EFault Nat
  | [] => .ok 0
  | (e, va, n) :: ps =>
    match s.badAt (Entry.loc e va) n with
    | some c => .error (c, va)
    | none => (s.readParts ps).map fun r => s.mem.read (Entry.loc e va) n + 2 ^ (8 * n) * r

/-- An engine's write to tier 2 or 3 that the link or the endpoint has accepted; it is performed at its location after the earlier
ones of its job (R220, R317, R388). -/
def State.enginePost (s : State) (q : QCard) (op : MemOp) (h : Hit) : State :=
  let (id, s) := s.fresh
  let r : Req := ⟨q.core, 16, q.id, q.cid, h.home, h.tier, op, [h.el], [], none, 0, true, false, false⟩
  { s with reqs := tput s.reqs id r }.postFree 1 (.postedStoreAck id)

/-- The parts of a write, its number i, with their data: bits v of mask m, both from the first byte on; whole bytes where the mask is
none (R66). -/
def partHits (i : Nat) : List (Entry × Nat × Nat) → Nat → Option Nat → List Hit
  | [], _, _ => []
  | (e, va, n) :: ps, v, m =>
    let k := 2 ^ (8 * n)
    let data := v % k + k * ((m.getD 0) % k)
    ⟨Entry.homeCore e va, Entry.tier e, ⟨i, va, Entry.loc e va, n, data⟩⟩ :: partHits i ps (v / k) (m.map (· / k))

/-- What an engine does with an element of a type at its home: a merge if it is narrower than a byte, or not of whole bytes. -/
def storeOp (t : ETy) : MemOp := if t.bits % 8 = 0 then .store else .merge

/-- An engine's own event performs a write at once: at a home of the own device, or posted (R317). -/
def State.putHit (s : State) (q : QCard) (op : MemOp) (h : Hit) : Except EFault State :=
  if 2 ≤ h.tier then .ok (s.enginePost q op h)
  else match s.storeBad true [h.el] h.el with
    | some c => .error (c, h.el.va)
    | none => .ok (s.serveEl ⟨q.core, 16, q.id, q.cid, h.home, h.tier, op, [h.el], [], none, 0, false, false, false⟩ h.el 0).1

def State.putHits (s : State) (q : QCard) (op : MemOp) : List Hit → Except EFault State
  | [] => .ok s
  | h :: hs => match s.putHit q op h with
    | .ok s => s.putHits q op hs
    | .error f => .error f

/-- The first part whose page does not meet the type raw. -/
def rawBad (t : ETy) (store : Bool) (ps : List (Entry × Nat × Nat)) : Option Nat :=
  (ps.find? fun p => pageMeets p.1 t store != .raw).map (·.2.1)

/-- The sidecar reads of a block of a format (R71) with their leaves (R208 step 6, R209): the scale, then the super-scale. -/
def State.engSides (s : State) (q : QCard) (sidx : Nat) (f : ETy) (blk : Nat) : Except EFault (List (Entry × Nat × Nat)) :=
  let scb := (s.ctx (dieOf q.core) q.cid).scb
  let (x, n) := scaleAt scb sidx f blk
  let at' := [(x % 2 ^ 48, n)] ++ if f = .q16n then [(superAt scb sidx blk % 2 ^ 48, 4)] else []
  at'.mapM fun p => (s.engLeaf q .load p.1).map (·, p.1, p.2)

/-- The lower of the faults of some reads of one step (R208), if any. -/
def lowFault (rs : List (Except EFault Nat)) : Option EFault :=
  (rs.filterMap fun r => match r with
    | .error f => some f
    | .ok _ => none).foldl (fun b f => minFault b (some f)) none

/-- The block of element e of a row at va0 in a page (R70): the format's, by the element's place in the page. -/
def blockOf (f : ETy) (va0 e : Nat) : Nat :=
  let (off, sh, _) := packAt f.bits e
  ((va0 + off) % 2 ^ 48 % 2 ^ 16 * 8 + sh) / f.bits / blockSize f

/-- Element e, of type t, of a global row at va0 whose first page decodes with format f and leaf l (R230, R206). -/
def State.decodedEl (s : State) (q : QCard) (l : Entry) (f t : ETy) (va0 e : Nat) : Except EFault Nat :=
  let (off, sh, n) := packAt f.bits e
  let va := (va0 + off) % 2 ^ 48
  match s.engParts q .load va n with
  | .error x => .error x
  | .ok ps =>
    match ps.find? fun p => Entry.fmt p.1 != Entry.fmt l || Entry.geo p.1 != Entry.geo l || !Entry.pairOk p.1 with
    | some p => .error (0x48, max va0 (p.2.1 / 2 ^ 16 * 2 ^ 16))
    | none =>
      let sidx := Entry.sidx ((ps.head?.map (·.1)).getD l)
      match (if isBlockTy f then s.engSides q sidx f (blockOf f va0 e) else .ok []) with
      | .error x => .error x
      | .ok side =>
        let rs := s.readParts ps :: side.map fun p => s.readParts [p]
        match lowFault rs with
        | some x => .error x
        | none =>
          let v (i : Nat) : Nat := match rs[i]? with
            | some (.ok v) => v
            | _ => 0
          .ok (Num.decodeEl f t (v 0 >>> sh % 2 ^ f.bits) (v 1) (v 2)).r

/-- The engine reads element e of a row as type t (R230). -/
def State.copyRead (s : State) (q : QCard) (row : RowAt) (t : ETy) (e : Nat) : Except EFault Nat :=
  let (off, sh, n) := packAt t.bits e
  if row.1 = 0 then
    let va0 := row.2.toNat
    let raw : Except EFault Nat :=
      match s.engParts q .load ((va0 + off) % 2 ^ 48) n with
      | .error x => .error x
      | .ok ps =>
        match rawBad t false ps with
        | some va => .error (0x48, va)
        | none => (s.readParts ps).map fun v => v >>> sh % 2 ^ t.bits
    match s.engLeaf q .load va0 with
    | .error x => .error x
    | .ok l =>
      match pageMeets l t false, ETy.ofCode (Entry.fmt l) with
      | .decoded, some f => s.decodedEl q l f t va0 e
      | _, _ => raw
  else
    let x := (s.core q.core).ctx q.cid
    let o := row.2 + off
    if agentOk .copy row.1 false && x.inside row.1 o n then .ok ((x.buf row.1).read o.toNat n >>> sh % 2 ^ t.bits)
    else .error (0x41, addr52 o)

/-- v with the w bits at bit sh replaced. -/
def putBits (old sh w v : Nat) : Nat := old - (old >>> sh % 2 ^ w) * 2 ^ sh + v % 2 ^ w * 2 ^ sh

/-- The writes of element e of a global row, number i (R230, R222). -/
def State.copyStore (s : State) (q : QCard) (row : RowAt) (t : ETy) (i e v : Nat) : Except EFault (List Hit) :=
  let (off, sh, n) := packAt t.bits e
  match s.engParts q .store ((row.2.toNat + off) % 2 ^ 48) n with
  | .error x => .error x
  | .ok ps =>
    match rawBad t true ps with
    | some va => .error (0x48, va)
    | none =>
      .ok (partHits i ps (v % 2 ^ t.bits * 2 ^ sh) (if t.bits % 8 = 0 then none else some ((2 ^ t.bits - 1) * 2 ^ sh)))

/-- The engine writes element e of a row of a typed buffer (R230, R222). -/
def State.copyBuf (s : State) (q : QCard) (row : RowAt) (t : ETy) (e v : Nat) : Except EFault State :=
    let (off, sh, n) := packAt t.bits e
    let x := (s.core q.core).ctx q.cid
    let o := row.2 + off
    if agentOk .copy row.1 true && x.inside row.1 o n then
      let old := (x.buf row.1).read o.toNat n
      let s := s.bufWrite q.core q.cid row.1 o.toNat (leBytes n (putBits old sh t.bits v))
      .ok (if Card.zb q.card ∧ row.1 = 2 then s.bufZb q.core q.cid o.toNat n else s)
    else .error (0x41, addr52 o)

/-- An engine's own event writes element e of a row at once. -/
def State.copyWrite (s : State) (q : QCard) (row : RowAt) (t : ETy) (e v : Nat) : Except EFault State :=
  if row.1 = 0 then
    match s.copyStore q row t 0 e v with
    | .error x => .error x
    | .ok hs => s.putHits q (storeOp t) hs
  else s.copyBuf q row t e v

/-- Conversion from ITYPE to OTYPE (R230, R75); the value of a block code that is not decoded is free. Equal types
move raw (R230), FL19 with its bits [12:0] too, against R63 (notes/assumptions/88, DEDUCED). -/
def State.copyConv (s : State) (c : Card) (v : Nat) : State × Nat :=
  let it := jobIn c
  let ot := jobOut c
  if it = ot then (s, v)
  else if isBlockTy it then
    let (w, s) := s.freeWord
    (s, w.toNat % 2 ^ ot.bits)
  else (s, (Num.cvt it ot ⟨Card.rnd c, false, false, c.getLsbD 42⟩ v).r)

/-- The index of row j of a GATHER or SCATTER; one of TROWS or above is a fault at its entry (R235). -/
def State.rowIndex (s : State) (q : QCard) (j : Nat) : Except EFault Nat :=
  let row := rowAt q.card 192 (4 * j)
  match s.copyRead q row .int32 0 with
  | .error x => .error x
  | .ok i => if i < Card.f q.card 351 320 then .ok i else .error (0x48, addr52 row.2)

/-- Source and destination rows of row j, with its index (R234, R235). -/
def State.jobRow (s : State) (q : QCard) (j : Nat) : Except EFault (RowAt × RowAt × Nat) :=
  let c := q.card
  let at' (lo : Nat) (st : Int) (k : Nat) : RowAt := rowAt c lo (st * k)
  match Card.type c with
  | 1 => .ok (at' 64 (Card.fs c 287 256) j, at' 128 (Card.fs c 319 288) j, 0)
  | 4 => .ok ((0, 0), at' 128 (Card.fs c 319 288) j, 0)
  | 2 => (s.rowIndex q j).map fun i => (at' 64 (Card.f c 383 352) i, at' 128 (Card.fs c 415 384) j, i)
  | _ => (s.rowIndex q j).map fun i => (at' 64 (Card.fs c 415 384) j, at' 128 (Card.f c 383 352) i, i)

/-- The key of a reading of a SNAP window (R236). -/
def snapKey (j i e : Nat) : Nat := j / 64 * 2 ^ 57 + i * 2 ^ 25 + e

/-- The value of element n of a job, read, in a machine as its homes have read it for the engine, and converted; it keeps the readings of
a SNAP window. A FILL has its pattern as it is (R234), for FL19 with bits [12:0] too (notes/assumptions/88, DEDUCED). -/
def State.copyElem (seen s : State) (j : CJob) (n : Nat) : Except EFault (State × CJob × Nat) :=
  let q := j.card
  let c := q.card
  let row := n / jobLen c
  let e := n % jobLen c
  match seen.jobRow q row with
  | .error x => .error x
  | .ok (src, _, i) =>
    let key := snapKey row i e
    if Card.type c = 4 then .ok (s, j, Card.f c 127 64 % 2 ^ (jobOut c).bits)
    else match (if Card.snap c then tget j.snap key else none) with
      | some v => .ok (s, j, v)
      | none =>
        match seen.copyRead q src (jobIn c) e with
        | .error x => .error x
        | .ok r =>
          let (s, v) := s.copyConv c r
          let keep := j.snap.filter fun p => p.1 / 2 ^ 57 == row / 64
          .ok (s, if Card.snap c then { j with snap := tput keep key v } else j, v)

/-- The values of elements from n on, in job order, until one faults (R231). The reads of a GATHER without SNAP, in no defined order, are
made part by part in job order, those of one part in their homes' turns (R236; notes/assumptions/99, DESIGN CHOICE). -/
def State.copyGo (seen : State) : Nat → Nat → State → CJob → State × CJob × List Nat
  | 0, _, s, j => (s, j, [])
  | m + 1, n, s, j =>
    match State.copyElem seen s j n with
    | .error x => (s, { j with fault := some x }, [])
    | .ok (s, j, v) =>
      let (s, j, l) := State.copyGo seen m (n + 1) s j
      (s, j, v :: l)

/-- What an engine's writes of some values come to: the state with what stands in a typed buffer, the writes to be sent to homes, in
order, the elements that they are, and the fault that ends them (R231). -/
structure Puts where
  s    : State
  outs : List Hit
  n    : Nat
  bad  : Option EFault

/-- The writes of values of a type, k of them done: value k goes to the element of the row that `at'` names. -/
def copyPuts (q : QCard) (t : ETy) (at' : Nat → Except EFault (RowAt × Nat)) : List Nat → State → Nat → Puts
  | [], s, k => ⟨s, [], k, none⟩
  | v :: vs, s, k =>
    match at' k with
    | .error x => ⟨s, [], k, some x⟩
    | .ok (dst, e) =>
      if dst.1 = 0 then
        match s.copyStore q dst t k e v with
        | .error x => ⟨s, [], k, some x⟩
        | .ok hs =>
          let p := copyPuts q t at' vs s (k + 1)
          { p with outs := hs ++ p.outs }
      else match s.copyBuf q dst t e v with
        | .error x => ⟨s, [], k, some x⟩
        | .ok s => copyPuts q t at' vs s (k + 1)

/-- The destination of element n of a job. -/
def State.destAt (s : State) (q : QCard) (n : Nat) : Except EFault (RowAt × Nat) :=
  (s.jobRow q (n / jobLen q.card)).map fun r => (r.2.1, n % jobLen q.card)

/-! ### The ports and links of a chunk (R15 to R18, R181, R388) -/

def partHit (e : Nat) (p : Entry × Nat × Nat) : Hit := ⟨Entry.homeCore p.1 p.2.1, Entry.tier p.1, ⟨e, p.2.1, Entry.loc p.1 p.2.1, p.2.2, 0⟩⟩

/-- The bytes of global memory that element e of a row of type t is the first to touch, or, the first of its part, touches, by home;
with the scales of its block where the page decodes and the block has not been read with the element before. -/
def State.elHits (s : State) (q : QCard) (acc : AccK) (row : RowAt) (t : ETy) (e : Nat) (first : Bool) : List Hit :=
  let va0 := row.2.toNat
  let l := (s.engLeaf q acc va0).toOption
  let dec : Option (Entry × ETy) := l.bind fun l => match pageMeets l t (acc == .store), ETy.ofCode (Entry.fmt l) with
    | .decoded, some f => some (l, f)
    | _, _ => none
  let w := (dec.map (·.2.bits)).getD t.bits
  let lo := if first then e * w / 8 else (e * w + 7) / 8
  let n := ((e + 1) * w + 7) / 8 - lo
  if row.1 ≠ 0 then []
  else
    let own := if n = 0 then [] else match s.engParts q acc ((va0 + lo) % 2 ^ 48) n with
      | .ok ps => ps.map (partHit e)
      | .error _ => []
    let side := match dec with
      | some (l, f) =>
        if isBlockTy f && (first || e == 0 || blockOf f va0 e != blockOf f va0 (e - 1)) then
          match s.engSides q (Entry.sidx (((s.engLeaf q acc ((va0 + e * w / 8) % 2 ^ 48)).toOption).getD l)) f (blockOf f va0 e) with
          | .ok ps => ps.map (partHit e)
          | .error _ => []
        else []
      | none => []
    own ++ side

/-- The read of the index of row r of a GATHER or SCATTER. -/
def State.indexHits (s : State) (q : QCard) (r : Nat) : List Hit :=
  if Card.type q.card = 2 ∨ Card.type q.card = 3 then s.elHits q .load (rowAt q.card 192 (4 * r)) .int32 0 true else []

/-- The reads of global memory of elements n to n + m - 1 of a job, an index before the row that it names; what has been read already is
`got`. -/
def State.jobReads (s : State) (j : CJob) (got : List Got) (n m : Nat) : List Hit :=
  let c := j.card.card
  (List.range m).flatMap fun i =>
    let row := (n + i) / jobLen c
    let e := (n + i) % jobLen c
    let first := i == 0 || e == 0
    let ix := s.indexHits j.card row
    if !(unread got ix).isEmpty then (if first then ix else [])
    else match s.jobRow j.card row with
      | .ok (src, _, k) =>
        if Card.type c = 4 ∨ (Card.snap c ∧ (tget j.snap (snapKey row k e)).isSome) then []
        else s.elHits j.card .load src (jobIn c) e first
      | .error _ => []

/-- The reads and the writes of global memory of elements n to n + m - 1 of a job. -/
def State.jobHits (s : State) (j : CJob) (n m : Nat) : List Hit × List Hit :=
  let c := j.card.card
  let one (i : Nat) : List Hit × List Hit :=
    let e := (n + i) % jobLen c
    let row := (n + i) / jobLen c
    let first := i == 0 || e == 0
    match s.jobRow j.card row with
    | .ok (src, dst, _) =>
      ((if first then s.indexHits j.card row else []) ++ if Card.type c = 4 then [] else s.elHits j.card .load src (jobIn c) e first,
        if (fifoOf c).isSome then [] else s.elHits j.card .store dst (jobOut c) e first)
    | .error _ => ([], [])
  let l := (List.range m).map one
  (l.flatMap (·.1), l.flatMap (·.2))

/-- The bytes of some accesses. -/
def hitBytes (l : List Hit) : Nat := (l.map (·.el.n)).sum

/-- The fewest cycles of the next chunk of a job on the engine of a core (R388): at the own home port and at each typed-buffer port, which
serve reads and writes one at a time (R17, R184), and at one flit a cycle, of at most 16 bytes (R15), on the links by which data come in
through the core's router from other homes, tiers 2 and 3 among them, and go out. -/
def State.copyLeast (s : State) (core : Nat) (j : CJob) : Nat :=
  let c := j.card.card
  let m := chunkCount c j.chunk
  let (rd, wr) := s.jobHits j (j.chunk * chunkEls (jobOut c)) m
  let own (h : Hit) : Bool := decide (h.tier ≤ 1) && h.home == core
  let up (a b : Nat) : Nat := (a + b - 1) / b
  let rows := if m = 0 then 0 else (j.chunk * chunkEls (jobOut c) + m - 1) / jobLen c - j.chunk * chunkEls (jobOut c) / jobLen c + 1
  let src := if Card.type c = 4 then [] else [(Card.sp c 64, up (m * (jobIn c).bits) 8)]
  let idx := if Card.type c = 2 ∨ Card.type c = 3 then [(Card.sp c 192, 4 * rows)] else []
  let uses := src ++ idx ++ [(Card.sp c 128, up (m * (jobOut c).bits) 8)]
  let buf (sp : Nat) : Nat := up ((uses.filter (·.1 == sp)).map (·.2)).sum (portWidth sp)
  ([up (hitBytes (rd.filter own) + hitBytes (wr.filter own)) 128, up (hitBytes (rd.filter (!own ·))) 16,
    up (hitBytes (wr.filter (!own ·))) 16, buf 1, buf 2, buf 3]).foldl Nat.max 1

/-! ### FIFOs -/

def MatUnit.fifo (m : MatUnit) (x : Nat) : List Byte := if x = 6 then m.fa else m.fb
def MatUnit.setFifo (m : MatUnit) (x : Nat) (b : List Byte) : MatUnit := if x = 6 then { m with fa := b } else { m with fb := b }
def fifoSize (x : Nat) : Nat := if x = 6 then 16384 else 32768

/-- Whether chunk i of a card can go: a FIFO needs room for it (R245). -/
def Core.canGo (k : Core) (c : Card) (i : Nat) : Bool :=
  match fifoOf c with
  | some x => decide ((k.mat.fifo x).length + chunkCount c i * (jobOut c).bits / 8 ≤ fifoSize x)
  | none => true

/-- eu of a matrix command after k K values (R255). -/
def mmaEu (c : Card) (k : Nat) : Nat :=
  let w (t : ETy) : Nat := match t with
    | .fp32 => 120
    | .fl19 | .int16 => 60
    | .fp16 | .bf16 => 40
    | .f8e4 | .f8e5 | .f6e3 | .f6e2 | .int8 | .uint8 | .b8i => 24
    | .bin1 => 8
    | _ => 14
  ceilDiv' (Card.f c 71 64 * Card.f c 79 72 * k * max (w (Card.ty c 36 32)) (w (Card.ty c 41 37))) 1024
where
  ceilDiv' (a b : Nat) : Nat := (a + b - 1) / b

/-- MACs per cycle of a format (R252). -/
def mmaRate : ETy → Nat
  | .fp32 => 256
  | .fl19 | .int16 => 1024
  | .fp16 | .bf16 => 2048
  | .f8e4 | .f8e5 | .f6e3 | .f6e2 | .int8 | .uint8 | .b8i => 4096
  | .bin1 => 16384
  | _ => 8192

def pairRate (c : Card) : Nat := min (mmaRate (Card.ty c 36 32)) (mmaRate (Card.ty c 41 37))

/-- The K values whose steps a command has run (R255): of those begun, not the ones still under way; the read of C, which the steps do
not wait for, is none of them (R253). -/
def MRun.ran (r : MRun) (now : Nat) : Nat := 32 * r.step + (r.k - ((r.ends - now) * pairRate r.card.card + 2047) / 2048)

/-- The free engine goes idle: work to take, or to steal 256 cycles on (R232). -/
def State.copyFree (s : State) (core : Nat) : State :=
  ((s.updCore core fun k => { k with copy := { k.copy with job := none, idle := s.now } }).post 1 (.copyJobStart core)).post 256
    (.copySteal core)

/-- The abort of R256 on a core: every MMA card but `but`, and every copy card but `but` that names a FIFO, ends with
FIFO_ABORT; both FIFOs are empty. -/
def State.fifoAbort (s : State) (core but : Nat) : State :=
  let c := s.core core
  let names (q : QCard) : Bool := (fifoOf q.card).isSome && q.id != but
  let s := match c.mat.run with
    | some r => s.charge core r.card.cid (mmaEu r.card.card (r.ran s.now))
    | none => s
  let s := c.mat.wrs.foldl (fun s w => s.charge core w.card.cid (mmaEu w.card.card (Card.f w.card.card 95 80))) s
  let e := c.copy
  let drop (j : Option CJob) : Option CJob := match j with
    | some j => if names j.card then none else some j
    | none => none
  let s := s.updCore core fun c => { c with
    mat := { c.mat with fa := [], fb := [], run := none, wrs := [], valid := false }
    copy := { e with job := e.job, parkA := drop e.parkA, parkB := drop e.parkB } }
  let s := if e.job.isSome && (drop e.job).isNone then s.copyFree core else s
  let s := (c.mq.cards.filter fun q => !q.released && q.id != but).foldl
    (fun s q => s.endCard 1 q 2 false (some (0x42, 0))) s
  (c.cq.cards.filter fun q => !q.released && names q).foldl (fun s q => s.endCard 0 q 1 false (some (0x42, 0))) s

/-! ### What the engine does next (R230, R232, R245) -/

/-- Whether the context of a core runs and is not being stopped. -/
def State.goes (s : State) (core : Nat) : Bool :=
  match (s.core core).run with
  | some cid => (s.ctx (dieOf core) cid).st == .running
  | none => false

/-- Cards that an engine of the cluster runs or has parked. -/
def State.taken (s : State) (cl : Nat) : List Nat :=
  (List.range 16).flatMap fun n =>
    let e := (s.core (coreIn cl n)).copy
    (e.job.toList ++ e.parkA.toList ++ e.parkB.toList).map (·.card.id)

/-- The oldest card of a core's copy queue that R230 and R245 let an engine take. -/
def State.eligible (s : State) (core : Nat) (ok : Card → Bool) : Option QCard :=
  let c := s.core core
  let cl := s.cluster (clusterOf core)
  let tk := s.taken (clusterOf core)
  let held := c.cq.cards.filter (!·.released)
  held.find? fun q =>
    ok q.card && cl.fireable q.id && !tk.contains q.id && c.canGo q.card 0 &&
      (match fifoOf q.card with
       | some x =>
         (if x = 6 then c.copy.parkA.isNone else c.copy.parkB.isNone) &&
           !(held.takeWhile (·.id != q.id)).any (fun p => fifoOf p.card == some x)
       | none => true)

/-- The engine of a core starts a chunk of a job; its time is not fixed, but at least what its bytes need (R388). A chunk to memory
or a buffer goes in parts of free size, each at a free time, so that another agent may see some elements new and others old; a
chunk to a FIFO goes as one. -/
def State.copyRun (s : State) (core : Nat) (j : CJob) : State :=
  let c := j.card.card
  let (n, s) := s.freeNat
  let least := s.copyLeast core j
  let d := (if (fifoOf c).isSome then least else 1) + n
  (s.updCore core fun k => { k with copy := { k.copy with job := some j, due := s.now + d, least := s.now + least } }).post d
    (.copyChunk core)

/-- How many of the elements left of a chunk the engine moves now: at least one once the chunk may end, before that not all. -/
def State.copyPart (s : State) (core left : Nat) : Nat × State :=
  let (x, s) := s.freeNat
  (Nat.min left (if s.now < (s.core core).copy.least then x % left else 1 + x % left), s)

/-- A parked job that can go, the A FIFO's first. -/
def Core.unpark (c : Core) : Option (CJob × CopyEng) :=
  let can (j : Option CJob) : Option CJob := match j with
    | some j => if c.canGo j.card.card j.chunk then some j else none
    | none => none
  match can c.copy.parkA, can c.copy.parkB with
  | some j, _ => some (j, { c.copy with parkA := none })
  | none, some j => some (j, { c.copy with parkB := none })
  | none, none => none

/-- The job of a card: new, or stopped at a chunk by a switch (R233). -/
def State.jobOf (s : State) (q : QCard) : CJob :=
  (((s.core q.core).ctx q.cid).jobs.find? (·.card.id == q.id)).getD { card := q, chunk := 0, fault := none, snap := [], part := 0 }

/-- Start on a card. -/
def State.copyTake (s : State) (core : Nat) (q : QCard) : State :=
  let j := s.jobOf q
  (s.updCore q.core fun k => k.updCtx q.cid fun x => { x with jobs := x.jobs.filter (·.card.id != q.id) }).copyRun core j

/-- Whether a copy engine goes on: its context runs, or is being stopped while a command of the core's matrix unit, which is to
complete, may wait for bytes (R258). -/
def State.copyGoes (s : State) (core : Nat) : Bool :=
  s.goes core || ((s.core core).mat.run.isSome && (match (s.core core).run with
    | some cid => (s.ctx (dieOf core) cid).st == .preempting
    | none => false))

/-- A free engine takes its next work: a parked job with room, else the oldest card it may take. -/
def State.copyNext (s : State) (core : Nat) : State :=
  if (s.core core).copy.job.isSome || !s.copyGoes core then s
  else match (s.core core).unpark with
    | some (j, e) => (s.updCore core fun k => { k with copy := e }).copyRun core j
    | none =>
      match s.eligible core (fun _ => true) with
      | some q => s.copyTake core q
      | none => s

def execCopyJobStart (core : Nat) (s : State) : Host.Outcome State Fault Refusal := .next (s.copyNext core)

/-- The engine's job, to go on d cycles from now. -/
def State.copyAt (s : State) (core d : Nat) (j : CJob) : State :=
  (s.updCore core fun m => { m with copy := { m.copy with job := some j, due := s.now + d } }).post d (.copyChunk core)

/-- The engine's job waits for its homes' turns. -/
def State.copyWait (s : State) (core : Nat) (j : CJob) : State := s.updCore core fun m => { m with copy := { m.copy with job := some j } }

/-- The bits of elements packed at width w. -/
def packVals (w : Nat) : List Nat → Nat
  | [] => 0
  | v :: vs => v % 2 ^ w + 2 ^ w * packVals w vs

/-- A part of a chunk has been moved, `vals` the values of one that goes to a FIFO. The next part comes at a free time. At the chunk's end
its charge, 20 eu per 64 bytes, rounded up for the chunk, a fault's or a 6-bit format's too (notes/assumptions/109, DESIGN CHOICE: R230
does not say how it rounds), and the bytes for a FIFO; then the job's end, its next chunk, or its parking (R245), from which the engine
is idle (R232). A context being stopped goes no further than the chunk (R233). -/
def State.copyPartEnd (s : State) (core : Nat) (j : CJob) (vals : List Nat) : State :=
  let c := j.card.card
  let w := (jobOut c).bits
  let k := j.part + j.want
  let j := { j with part := k, want := 0, got := [], wrote := false, outs := [] }
  if j.fault.isNone && decide (k < chunkCount c j.chunk) then
    let (n, s) := s.freeNat
    s.copyAt core (1 + n) j
  else
    let s := s.charge j.card.core j.card.cid (20 * ((k * w / 8 + 63) / 64))
    let j := { j with chunk := j.chunk + 1, part := 0 }
    let s := match fifoOf c with
      | some x =>
        if j.fault.isNone then
          (s.updCore core fun m => { m with mat := m.mat.setFifo x (m.mat.fifo x ++ leBytes (k * w / 8) (packVals w vals)) }).post 0
            (.mmaFire core)
        else s
      | none => s
    let s := s.copyWait core j
    if j.fault.isSome || decide (jobTotal c ≤ j.chunk * chunkEls (jobOut c)) then s.post 0 (.copyJobComplete core)
    else if !s.copyGoes core then s
    else if (s.core core).canGo c j.chunk then s.copyRun core j
    else
      ((s.updCore core fun k => { k with copy := { k.copy with
        job := none
        idle := s.now
        parkA := if fifoOf c = some 6 then some j else k.copy.parkA
        parkB := if fifoOf c = some 7 then some j else k.copy.parkB } }).copyNext core).post 256 (.copySteal core)

/-- The writes of a part go out in job order (R388): those to one home as one access, once the job's earlier posted ones have been
performed; those of tier 2 and 3 posted. -/
def State.copySend (s : State) (core : Nat) (j : CJob) : State :=
  match j.outs with
  | [] => s.copyPartEnd core j []
  | h :: hs =>
    let op := storeOp (jobOut j.card.card)
    match s.offHit [h] with
    | some d =>
      let (n, s) := s.dieExit d
      s.copyAt core n j
    | none =>
      if 2 ≤ h.tier then (s.enginePost j.card op h).copyAt core 0 { j with outs := hs }
      else if s.reqs.any fun p => p.2.slot == 16 && p.2.serial == j.card.id && p.2.cid == j.card.cid then s.copyAt core 1 j
      else
        let here (x : Hit) : Bool := decide (x.tier ≤ 1) && x.home == h.home
        let (s, ids) := s.askPort core j.card.cid 2 op (j.outs.takeWhile here) (.copy core)
        s.copyWait core { j with turns := ids, outs := j.outs.dropWhile here }

/-- A part of a chunk is read: its homes read for it in their turns, an index before the row that it names; then its values are written
into the typed buffer, or are to be sent. -/
def State.copyTakeIn (s : State) (core : Nat) (j : CJob) : State :=
  let c := j.card.card
  let first := j.chunk * chunkEls (jobOut c) + j.part
  let seen := s.seeing j.got
  let hs := seen.jobReads j j.got first j.want
  match s.offHit hs, unread j.got hs with
  | some d, _ =>
    let (n, s) := s.dieExit d
    s.copyAt core n j
  | none, h :: hs =>
    let (s, ids) := s.askPort core j.card.cid 2 .load (h :: hs) (.copy core)
    s.copyWait core { j with turns := ids }
  | none, [] =>
    let (s, j, vals) := State.copyGo seen j.want first s j
    if (fifoOf c).isSome then s.copyPartEnd core { j with want := vals.length } vals
    else
      let p := copyPuts j.card (jobOut c) (fun k => seen.destAt j.card (first + k)) vals s 0
      let bad := match p.bad with
        | some x => some x
        | none => j.fault
      p.s.copyAt core 0 { j with want := p.n, outs := p.outs, wrote := true, fault := bad }

/-- The copy engine goes on with its chunk (R230): it chooses a part of it, reads it, sends its writes. -/
def execCopyChunk (core : Nat) (s : State) : Host.Outcome State Fault Refusal :=
  .next (match (s.core core).copy.job with
    | some j =>
      if (s.core core).copy.due ≠ s.now ∨ j.turns ≠ [] then s
      else if j.wrote then s.copySend core j
      else if j.want ≠ 0 then s.copyTakeIn core j
      else
        let left := chunkCount j.card.card j.chunk - j.part
        let (m, s) := if (fifoOf j.card.card).isSome then (left, s) else s.copyPart core left
        if m = 0 then s.copyPartEnd core j [] else s.copyTakeIn core { j with want := m }
    | none => s)

/-- The job's tag completes, in normal or error phase, once the acknowledgements that PUB asks for are there (R220); an error at a
FIFO aborts both (R231, R256). -/
def execCopyJobComplete (core : Nat) (s : State) : Host.Outcome State Fault Refusal :=
  .next (match (s.core core).copy.job with
    | some j =>
      let c := j.card.card
      if j.fault.isNone && decide (j.chunk * chunkEls (jobOut c) < jobTotal c) then s
      else if s.pubWaits j.card then s.post 1 (.copyJobComplete core)
      else
        let s := s.copyFree core
        let s := s.endCard 0 j.card 1 false j.fault
        if j.fault.isSome && (fifoOf c).isSome then s.fifoAbort j.card.core j.card.id else s
    | none => s)

/-- An engine that has had nothing to take for 256 cycles takes the oldest stealable card of the next core that has one
(R232). -/
def execCopySteal (core : Nat) (s : State) : Host.Outcome State Fault Refusal :=
  .next (
    let e := (s.core core).copy
    if e.job.isSome || !s.goes core || decide (s.now < e.idle + 256) || (s.eligible core fun _ => true).isSome ||
        (s.core core).unpark.isSome then s
    else
      let cl := clusterOf core
      match (List.range 15).findSome? fun i =>
          let o := coreIn cl ((coreNo core + 1 + i) % 16)
          if (s.core o).run == (s.core core).run then s.eligible o Card.steal else none with
      | some q => s.copyTake core q
      | none => s)

end Sys2Proof.Machine
end

