-- ==== Sys2Proof/Machine/Matrix.lean ====
section
/-! DEFINITION. The matrix unit (R242 to R258): operand runs, the exact group sum and its promotion, firing, K steps, and the
C write. A group's bytes leave the FIFOs at once, when its K steps have ended. -/

namespace Sys2Proof.Machine

/-! ### Operands (R246) -/

/-- Bytes of a scale record. -/
def recBytes (t : ETy) : Nat := runBytes t - 32 * t.bits / 8

/-- The 32 values of a run with its record before it. -/
def decodeRun (t : ETy) (bs : List Byte) : List Num.Val :=
  let rec' := leNat (bs.take (recBytes t))
  let body := leNat (bs.drop (recBytes t))
  (List.range 32).map fun k =>
    let b := body >>> (k * t.bits) % 2 ^ t.bits
    if isBlockTy t then
      (Num.valOf .fp32 (if t = .q16n then Num.decodeBlock t b (rec' % 256) (rec' / 2 ^ 32) else Num.decodeBlock t b rec' 0)).1
    else (Num.valOf t b).1

/-- The n runs at the head of a FIFO. -/
def runsOf (t : ETy) (bs : List Byte) : Nat → List (List Num.Val)
  | 0 => []
  | n + 1 => decodeRun t (bs.take (runBytes t)) :: runsOf t (bs.drop (runBytes t)) n

/-! ### The group sum and its promotion (R250) -/

/-- An exact product: NaN for a NaN or 0 × ∞. -/
def mulExact (a b : Num.Val) : Num.Val :=
  match a, b with
  | .num n m e, .num n' m' e' => .num (n != n') (m * m') (e + e')
  | .inf n, .inf n' => .inf (n != n')
  | .inf n, .num n' m _ => if m = 0 then .nan false else .inf (n != n')
  | .num n m _, .inf n' => if m = 0 then .nan false else .inf (n != n')
  | _, _ => .nan false

/-- An exact sum; both infinities give NaN, an exact zero its IEEE sign. -/
def addExact (rm : Nat) (a b : Num.Val) : Num.Val :=
  match a, b with
  | .num n m e, .num n' m' e' => let (s, k, x) := Num.sumEx rm n m e n' m' e'; .num s k x
  | .inf n, .inf n' => if n = n' then .inf n else .nan false
  | .inf n, .num .. => .inf n
  | .num .., .inf n => .inf n
  | _, _ => .nan false

def sumExact (rm : Nat) : List Num.Val → Num.Val
  | [] => .num false 0 0
  | p :: ps => ps.foldl (addExact rm) p

/-- The integer that an exact value with no fraction is. -/
def intOf : Num.Val → Int
  | .num n m e => if n then -((m : Int) * 2 ^ e.toNat) else (m : Int) * 2 ^ e.toNat
  | _ => 0

/-- A product of two integer operands: a zero has no sign. -/
def unsignZero : Num.Val → Num.Val
  | .num n m e => .num (n && m != 0) m e
  | v => v

/-- One promotion: the accumulator (none before the first group of an overwriting command) and the exact group sum give the
new accumulator, and whether an integer result was clamped (R250). -/
def promote (c : Card) (acc : Option (BitVec 32)) (g : Num.Val) : BitVec 32 × Bool :=
  let sat := c.getLsbD 45
  let env : Num.Env := ⟨Card.rnd c, false, false, sat⟩
  if c.getLsbD 44 then
    let x := intOf g + (match acc with
      | some a => a.toInt
      | none => 0)
    let out := decide (x < -(2 ^ 31)) || decide (2 ^ 31 - 1 < x)
    (BitVec.ofNat 32 (Num.finInt 32 sat x), out && sat)
  else
    let v := match g with
      | .num n m e => (Num.roundTo .fp32 env n m e).r
      | .inf n => Num.infOf .fp32 n
      | .nan _ => Num.canonNan .fp32
    match acc with
    | none => (BitVec.ofNat 32 v, false)
    | some a => (BitVec.ofNat 32 (Num.addV .fp32 env (Num.valOf .fp32 a.toNat).1 (Num.valOf .fp32 v).1).r, false)

/-- The tile after one K-group: its elements row by row; whether a clamp happened. -/
def groupTile (c : Card) (fresh : Bool) (tile : List (BitVec 32)) (as bs : List (List Num.Val)) : List (BitVec 32) × Bool :=
  let ints := isMmaInt (Card.ty c 36 32) && isMmaInt (Card.ty c 41 37)
  let n := Card.f c 79 72
  let out := as.zipIdx.flatMap fun a => bs.zipIdx.map fun b =>
    let ps := (a.1.zip b.1).map fun p => if ints then unsignZero (mulExact p.1 p.2) else mulExact p.1 p.2
    promote c (if fresh then none else some (tile.getD (a.2 * n + b.2) 0)) (sumExact (Card.rnd c) ps)
  (out.map (·.1), out.any (·.2))

/-! ### Timing (R252, R253) -/

/-- Cycles of the steps of n K values, and of one group (R252). -/
def kCycles (c : Card) (n : Nat) : Nat := n * 2048 / pairRate c
def groupCycles (c : Card) : Nat := kCycles c 32

/-- C port cycles of a C read or write. -/
def cCycles (c : Card) : Nat := Card.f c 71 64 * ((4 * Card.f c 79 72 + 255) / 256)

def mmaGroups (c : Card) : Nat := Card.f c 95 80 / 32

/-- Bytes of one group in the A and the B FIFO. -/
def groupBytes (c : Card) : Nat × Nat :=
  (Card.f c 71 64 * runBytes (Card.ty c 36 32), Card.f c 79 72 * runBytes (Card.ty c 41 37))

/-- Whether both FIFOs hold the bytes of a group. -/
def MatUnit.fed (m : MatUnit) (c : Card) : Bool :=
  decide ((groupBytes c).1 ≤ m.fa.length) && decide ((groupBytes c).2 ≤ m.fb.length)

/-- Bytes that the first k values of a group's m runs take: the steps need every run up to there (R246). -/
def kBytes (t : ETy) (m k : Nat) : Nat := if k = 0 then 0 else (m - 1) * runBytes t + recBytes t + (k * t.bits + 7) / 8

/-- The most K values of the group at the heads of the FIFOs, in whole steps, whose bytes both FIFOs hold (R253). -/
def MatUnit.kAvail (m : MatUnit) (c : Card) : Nat :=
  let v := Nat.max 1 (pairRate c / 2048)
  (((List.range (32 / v + 1)).map (· * v)).filter fun k =>
    decide (kBytes (Card.ty c 36 32) (Card.f c 71 64) k ≤ m.fa.length) &&
      decide (kBytes (Card.ty c 41 37) (Card.f c 79 72) k ≤ m.fb.length)).foldl Nat.max 0

/-! ### The C tile -/

/-- The accumulators of a command, row by row, in the unit's 32 × 64; and these with a command's laid over them. -/
def subTile (c : Card) (tile : List (BitVec 32)) : List (BitVec 32) :=
  (List.range (Card.f c 71 64)).flatMap fun i => (List.range (Card.f c 79 72)).map fun j => tile.getD (64 * i + j) 0

def layAcc (c : Card) (tile l : List (BitVec 32)) : List (BitVec 32) :=
  (List.range 2048).map fun p =>
    if p / 64 < Card.f c 71 64 ∧ p % 64 < Card.f c 79 72 then l.getD (p / 64 * Card.f c 79 72 + p % 64) 0 else tile.getD p 0

/-- The offset of element (row, col) of C (R247). -/
def cAt (c : Card) (row col : Nat) : Nat := Card.addr c 128 + row * Card.f c 223 192 + 4 * col

/-- The C tile of a command with the C writes still to come laid over it (R254). -/
def cTile (m : Mem) (wrs : List MWr) (c : Card) : List (BitVec 32) :=
  let m := wrs.foldl (fun m w => layTile m w.card.card w.tile) m
  (List.range (Card.f c 71 64)).flatMap fun i => (List.range (Card.f c 79 72)).map fun j => BitVec.ofNat 32 (m.read (cAt c i j) 4)
where
  layTile (m : Mem) (c : Card) (tile : List (BitVec 32)) : Mem :=
    tile.zipIdx.foldl (fun m x => m.write (cAt c (x.2 / Card.f c 79 72) (x.2 % Card.f c 79 72)) 4 x.1.toNat) m

/-- The first offset of C outside the grant, row by row (R256). -/
def cOutside (x : CCtx) (c : Card) : Option Nat :=
  (List.range (Card.f c 71 64)).findSome? fun i =>
    if cAt c i 0 + 4 * Card.f c 79 72 ≤ x.size 3 then none else some (Nat.max (cAt c i 0) (x.size 3))

/-- Whether the held tile is the C tile of a command (R253). -/
def MatUnit.holds (m : MatUnit) (c : Card) : Bool :=
  m.valid && m.caddr == Card.addr c 128 && m.cstride == Card.f c 223 192 && m.tm == Card.f c 71 64 && m.tn == Card.f c 79 72

/-! ### The unit -/

/-- The steps of every K value whose bytes are there begin; where none is, the unit stalls until bytes come (R253). The first
promotion of a command waits for the C read. -/
def State.mmaSteps (s : State) (core : Nat) (r : MRun) (wait : Nat) : State :=
  let m := (s.core core).mat
  let c := r.card.card
  let k := m.kAvail c
  if r.k < k then
    let n := kCycles c (k - r.k)
    let r := { r with k := k, due := s.now + (n + wait), ends := s.now + n }
    (s.updCore core fun x => { x with mat := { m with run := some r } }).post (n + wait) (.mmaFire core)
  else s

/-- The steps of a group have ended: its promotion (R250), its bytes leave the FIFOs, where room may let a copy job go (R245). -/
def State.mmaPromote (s : State) (core : Nat) (r : MRun) : State × MRun :=
  let m := (s.core core).mat
  let c := r.card.card
  let (na, nb) := groupBytes c
  let as := runsOf (Card.ty c 36 32) m.fa (Card.f c 71 64)
  let bs := runsOf (Card.ty c 41 37) m.fb (Card.f c 79 72)
  let (l, sat) := groupTile c (r.step == 0 && !c.getLsbD 43) (subTile c m.tile) as bs
  let r : MRun := { r with step := r.step + 1, sat := r.sat || sat, k := 0 }
  let m : MatUnit := { m with fa := m.fa.drop na, fb := m.fb.drop nb, tile := layAcc c m.tile l, run := some r }
  ((s.updCore core fun k => { k with mat := m }).post 1 (.copyJobStart core), r)

/-- The next command: the oldest card that has not ended its K steps. -/
def Core.nextMma (c : Core) : Option QCard :=
  c.mq.cards.find? fun q => !q.released && !c.mat.wrs.any fun w => w.card.id == q.id

/-- A command fires (R253), or its C interval lies outside the grant and the FIFOs are aborted (R256). -/
def State.mmaStart (s : State) (core : Nat) : State :=
  let k := s.core core
  match k.nextMma with
  | some q =>
    let c := q.card
    if (s.cluster (clusterOf core)).fireable q.id && s.goes core && k.mat.fed c then
      match cOutside (k.ctx q.cid) c with
      | some off => (s.endCard 1 q 2 false (some (0x41, off))).fifoAbort core q.id
      | none =>
        let held := k.mat.holds c
        let passed (w : MWr) : Bool :=
          let (a, n) := mmaIv c
          let (b, l) := mmaIv w.card.card
          decide (a < b + l) && decide (b < a + n)
        let rd := (k.mat.wrs.filter passed).foldl (fun t w => Nat.max t w.due) s.now
        let wait := if c.getLsbD 43 && !held then rd + cCycles c - (s.now + groupCycles c) else 0
        let tile := if held then k.mat.tile else layAcc c k.mat.tile (cTile (k.ctx q.cid).c k.mat.wrs c)
        let m : MatUnit := { k.mat with tile := tile, valid := false }
        (s.updCore core fun k => { k with mat := m }).mmaSteps core ⟨q, 0, s.now, false, 0, s.now⟩ wait
    else s
  | none => s

/-- The K steps have ended: the tile is held, its C write follows the final promotion and the writes before it. -/
def State.mmaEndK (s : State) (core : Nat) (r : MRun) : State :=
  let m := (s.core core).mat
  let c := r.card.card
  let due := (m.wrs.foldl (fun t w => Nat.max t w.due) (s.now + 4)) + cCycles c
  let wrs := m.wrs ++ [⟨r.card, subTile c m.tile, due, r.sat⟩]
  let m : MatUnit := { m with
    run := none
    wrs := wrs
    caddr := Card.addr c 128
    cstride := Card.f c 223 192
    tm := Card.f c 71 64
    tn := Card.f c 79 72
    valid := true }
  ((s.updCore core fun k => { k with mat := m }).post (due - s.now) (.mmaComplete core)).post 0 (.mmaFire core)

/-- The matrix unit of a core looks for its next step: K steps, the end of a group's, the end of all, or a command that fires
(R253). -/
def execMmaFire (core : Nat) (s : State) : Host.Outcome State Fault Refusal :=
  .next (match (s.core core).mat.run with
    | some r =>
      if s.now < r.due then s
      else
        let (s, r) := if r.k = 32 then s.mmaPromote core r else (s, r)
        if r.step < mmaGroups r.card.card then s.mmaSteps core r 0 else s.mmaEndK core r
    | none => s.mmaStart core)

/-- The C write of a command is performed, and its tag completes (R253 steps 4 and 5, R255). -/
def execMmaComplete (core : Nat) (s : State) : Host.Outcome State Fault Refusal :=
  .next (match (s.core core).mat.wrs with
    | w :: rest =>
      if s.now < w.due then s
      else
        let c := w.card.card
        let s := s.updCore core fun k =>
          let k := k.updCtx w.card.cid fun x => { x with c := cTile.layTile x.c c w.tile }
          { k with mat := { k.mat with wrs := rest } }
        let s := s.charge core w.card.cid (mmaEu c (Card.f c 95 80))
        s.endCard 1 w.card 2 w.sat none
    | [] => s)

end Sys2Proof.Machine
end

