-- ==== Sys2Proof/Machine/Ellipsis.lean ====
section
/-! DEFINITION. The Ellipsis engine and the map store (R259 to R275). A job reads its inputs and writes its outputs at its
end, which R275 allows; an aborted one has written a free part of them. -/

namespace Sys2Proof.Machine

/-! ### Arithmetic of the engine (R83, R259, R263): FP32 bits, RNE -/

def ellAdd (a b : Nat) : Nat := (Num.fadd .fp32 Num.Env.plain a b).r
def ellMul (a b : Nat) : Nat := (Num.fmul .fp32 Num.Env.plain a b).r
def f32 (a : Nat) : Num.Val := (Num.valOf .fp32 a).1

/-- Halving tree over a list of a power of two terms: term i with term i + half. -/
def treeSum : Nat → List Nat → Nat
  | 0, l => l.headD 0
  | n + 1, l => treeSum n (List.zipWith ellAdd (l.take (2 ^ n)) (l.drop (2 ^ n)))

/-- The sums of g groups of 64 terms, groups added in ascending order (R83). -/
def groupSum (g : Nat) (l : List Nat) : Nat :=
  match (List.range g).map fun i => treeSum 6 ((l.drop (64 * i)).take 64) with
  | [] => 0
  | t :: ts => ts.foldl ellAdd t

/-- `norm` (R263). -/
def ellNorm (dk : Nat) (k : List Nat) : List Nat :=
  let ss := groupSum (dk / 64) (k.map fun x => ellMul x x)
  if ss % 2 ^ 31 = 0 then k.map fun _ => 0
  else
    let root := (Num.fsqrt .fp32 Num.Env.plain ss).r
    let inv := (Num.fdiv .fp32 Num.Env.plain 0x3F800000 root).r
    k.map fun x => ellMul x inv

def ellSim (dk : Nat) (a b : List Nat) : Nat := groupSum (dk / 64) (List.zipWith ellMul a b)

/-- x before every lower one, after every equal one (R263). -/
def insDesc (x : Nat × Nat) : List (Nat × Nat) → List (Nat × Nat)
  | [] => [x]
  | y :: ys => if Num.rankLess (f32 y.2) (f32 x.2) then x :: y :: ys else y :: insDesc x ys

/-- Indices by descending value, ties to the lower index. -/
def sortDesc (l : List (Nat × Nat)) : List (Nat × Nat) := l.foldl (fun acc x => insDesc x acc) []

/-- The i-th element of a row as FP32 bits; BF16 widens exactly. -/
def rowEl (m : Mem) (t : ETy) (off i : Nat) : Nat :=
  if t = .bf16 then m.read (off + 2 * i) 2 * 2 ^ 16 else m.read (off + 4 * i) 4

def rowEls (m : Mem) (t : ETy) (off n : Nat) : List Nat := (List.range n).map (rowEl m t off)

/-- An FP32 value rounded to an output type. -/
def ellOut (t : ETy) (x : Nat) : Nat := (Num.addV t Num.Env.plain (f32 x) (.num ((f32 x).neg) 0 0)).r

/-- The exact quotient, rounded once (R264). -/
def ellQuo (t : ETy) (n d : Nat) : Nat := (Num.divV t Num.Env.plain (f32 n) (f32 d)).r

def elSize (t : ETy) : Nat := t.bits / 8

/-- Writes of a job: offset and bytes. -/
abbrev AWrite := Nat × List Byte

/-! ### MERGE (R263, R264) -/

/-- The chosen tokens with their destinations. -/
def mergeChoice (m : Mem) (c : Card) : List (Nat × Nat) :=
  let n := Card.f c 79 64
  let p := Card.f c 127 112
  let dk := Card.f c 111 96
  let kt := Card.ty c 41 37
  let hat (t : Nat) : List Nat := ellNorm dk (rowEls m kt (Card.f c 255 224 + t * dk * elSize kt) dk)
  let src := (List.range ((n - p + 1) / 2)).map (p + 2 * ·)
  let dst := ((List.range ((n - p) / 2)).map fun i => p + 2 * i + 1).map fun b => (b, hat b)
  let best := src.map fun a =>
    let ka := hat a
    let sims := dst.map fun b => (b.1, ellSim dk ka b.2)
    (a, (sortDesc sims).headD (0, 0))
  ((sortDesc (best.map fun x => (x.1, x.2.2))).take (Card.f c 143 128)).map fun x =>
    (x.1, ((best.find? (·.1 == x.1)).map (·.2.1)).getD 0)

/-- The result word. -/
def mergeRes (c : Card) (handle depth : Nat) : Nat :=
  handle + depth % 256 * 2 ^ 8 + (Card.f c 79 64 - Card.f c 143 128) % 2 ^ 16 * 2 ^ 16

/-- The outputs of a MERGE. -/
def mergeOut (m : Mem) (c : Card) (handle depth : Nat) : List AWrite :=
  let n := Card.f c 79 64
  let d := Card.f c 95 80
  let xt := Card.ty c 36 32
  let ot := Card.ty c 46 42
  let ch := if Card.f c 143 128 = 0 then [] else mergeChoice m c
  let kept := (List.range n).filter fun t => !ch.any (·.1 == t)
  let pos (t : Nat) : Nat := (kept.takeWhile (· != t)).length
  let size (t : Nat) : Nat := m.read (Card.f c 287 256 + 4 * t) 4
  let x (t : Nat) : List Nat := rowEls m xt (Card.f c 223 192 + t * d * elSize xt) d
  let rows := kept.zipIdx.flatMap fun k =>
    let t := k.1
    let from' := (List.range n).filter fun a => ch.any fun p => p.1 == a && p.2 == t
    let (row, sz) :=
      if from'.isEmpty then ((x t).map (ellOut ot), size t)
      else
        let nd := from'.foldl (fun nd a =>
          (List.zipWith (fun u v => ellAdd u (ellMul (size a) v)) nd.1 (x a), ellAdd nd.2 (size a)))
          ((x t).map (ellMul (size t)), size t)
        (nd.1.map fun v => ellQuo ot v nd.2, nd.2)
    [(Card.f c 319 288 + k.2 * d * elSize ot, row.flatMap (leBytes (elSize ot))),
     (Card.f c 351 320 + 4 * k.2, leBytes 4 sz)]
  let map := (List.range n).flatMap fun t => leBytes 2 (pos (((ch.find? (·.1 == t)).map (·.2)).getD t))
  rows ++ [(Card.f c 383 352, map), (Card.f c 415 384, leBytes 8 (mergeRes c handle depth))]

/-! ### The map store (R265 to R268) -/

def MapRec.free : MapRec := ⟨0, 0, false, 0, 0, false, 0, 0, 0⟩
def Cluster.map (c : Cluster) (h : Nat) : MapRec := c.maps.getD h .free

/-- Set a handle; a map store has 32. -/
def Cluster.setMap (c : Cluster) (h : Nat) (r : MapRec) : Cluster :=
  { c with maps := (List.range 32).map fun i => if i = h then r else c.map i }

/-- A handle becomes FREE; its parent loses its child. -/
def Cluster.freeMap (c : Cluster) (h : Nat) : Cluster :=
  let r := c.map h
  let c := c.setMap h .free
  if r.nopar then c else c.setMap r.parent { c.map r.parent with child := false }

/-- Depth of the handle that a MERGE makes. -/
def Cluster.newDepth (c : Cluster) (card : Card) : Nat :=
  if card.getLsbD 149 then 1 else (c.map (Card.f card 148 144)).depth + 1

/-- The handle of a MERGE, LIVE or LOST; its parent's CHILD is set. -/
def Cluster.takeMap (c : Cluster) (q : QCard) (h st : Nat) : Cluster :=
  let card := q.card
  let par := Card.f card 148 144
  let r : MapRec := ⟨st, coreNo q.core, card.getLsbD 149, par, c.newDepth card, false, Card.f card 79 64,
    Card.f card 79 64 - Card.f card 143 128, Card.f card 383 352⟩
  let c := c.setMap h r
  if card.getLsbD 149 then c else c.setMap par { c.map par with child := true }

/-- The checks of the store at the start of a MERGE (R266): a code, or the handle it takes. -/
def mergeStore (cl : Cluster) (c : Card) : Except Nat Nat :=
  let p := cl.map (Card.f c 148 144)
  let par := !c.getLsbD 149
  if par && (p.st == 0 || p.child) then .error 0x43
  else if par && p.st == 2 then .error 0x45
  else if par && Card.f c 79 64 != p.m then .error 0x48
  else match (List.range 32).find? fun h => (cl.map h).st == 0 with
    | some h => .ok h
    | none => .error 0x44

/-- The first interval outside the A grant: its offset (R259). -/
def grantBad (x : CCtx) (ivs : List (Nat × Nat × Nat)) : Option Nat :=
  (ivs.find? fun i => i.2.2 != 0 && !x.inside 2 i.2.1 i.2.2).map (·.2.1)

/-- YIN, YOUT and MAP of an UNMERGE (R267). -/
def unmergeIvs (c : Card) (r : MapRec) : List (Nat × Nat × Nat) :=
  let rb := Card.f c 95 80 * (Card.wd c 36 32 / 8)
  [(0, Card.f c 159 128, r.m * rb), (1, Card.f c 191 160, r.n * rb), (2, r.mapoff, 2 * r.n)]

/-- The merged row that map entry i names; none if it names none. -/
def mapEntry (m : Mem) (r : MapRec) (i : Nat) : Option Nat :=
  let e := m.read (r.mapoff + 2 * i) 2
  if e < r.m then some e else none

/-- The copy of merged row e to row i (R267). -/
def unmergeRow (m : Mem) (c : Card) (i e : Nat) : AWrite :=
  let rb := Card.f c 95 80 * (Card.wd c 36 32 / 8)
  (Card.f c 191 160 + i * rb, m.bytes (Card.f c 159 128 + e * rb) rb)

/-! ### ROUTE (R274) -/

/-- An entry: expert, rank, token. -/
def routeEntry (x : Nat × Nat × Nat) : Nat := x.1 * 2 ^ 24 + x.2.1 * 2 ^ 16 + x.2.2

/-- Choices (expert, rank, token) in (token, rank) order, each with its logit. -/
def routeChoices (m : Mem) (c : Card) : List ((Nat × Nat × Nat) × Nat) :=
  let e := Card.f c 95 80
  let lt := Card.ty c 36 32
  (List.range (Card.f c 79 64)).flatMap fun t =>
    let ls := (rowEls m lt (Card.f c 159 128 + t * e * elSize lt) e).zipIdx.map fun p => (p.2, p.1)
    ((sortDesc ls).take (Card.f c 39 37 + 1)).zipIdx.map fun p => ((p.1.1, p.2, t), p.1.2)

/-- Accepted and refused choices, both in order. -/
def routeSplit (cap : Nat) : List (Nat × Nat × Nat) → List (Nat × Nat × Nat) → List (Nat × Nat × Nat) →
    List (Nat × Nat × Nat) × List (Nat × Nat × Nat)
  | [], acc, ref => (acc, ref)
  | x :: xs, acc, ref =>
    if cap = 0 ∨ (acc.filter (·.1 == x.1)).length < cap then routeSplit cap xs (acc ++ [x]) ref
    else routeSplit cap xs acc (ref ++ [x])

/-- The outputs of a ROUTE, and whether the drop list overflows. -/
def routeOut (m : Mem) (c : Card) : List AWrite × Bool :=
  let cs := routeChoices m c
  let (acc, ref) := routeSplit (Card.f c 111 96) (cs.map (·.1)) [] []
  let es := List.range (Card.f c 95 80)
  let count (e : Nat) : Nat := (acc.filter (·.1 == e)).length
  let offs (e : Nat) : Nat := ((List.range e).map count).sum
  let perm := es.flatMap fun e => acc.filter (·.1 == e)
  let dm := Card.f c 127 112
  ([(Card.f c 223 192, cs.flatMap fun x => leBytes 2 x.1.1), (Card.f c 191 160, cs.flatMap fun x => leBytes 4 (ellOut .fp32 x.2)),
    (Card.f c 255 224, es.flatMap fun e => leBytes 4 (count e)), (Card.f c 287 256, es.flatMap fun e => leBytes 4 (offs e)),
    (Card.f c 319 288, perm.flatMap fun x => leBytes 4 (routeEntry x)),
    (Card.f c 351 320, (ref.take dm).flatMap fun x => leBytes 4 (routeEntry x)),
    (Card.f c 383 352, leBytes 8 (ref.length * 2 ^ 32 + acc.length))],
   decide (dm < ref.length))

/-! ### Jobs (R259, R260) -/

/-- What the start of a job finds: a fault with its model cycles, or the cycles and the handle taken. -/
structure EStart where
  cycles : Nat
  handle : Nat
  code   : Nat
  addr   : Nat
  deriving DecidableEq, Repr

/-- The checks at the start of a job and its model cycles (R260). -/
def ellCheck (x : CCtx) (cl : Cluster) (q : QCard) : EStart :=
  let c := q.card
  let h := (Card.f c 95 80 + 63) / 64
  match Card.type c with
  | 0x20 =>
    let n := Card.f c 79 64
    let g := (Card.f c 111 96 + 63) / 64
    let u := n - Card.f c 127 112
    (match mergeStore cl c with
     | .error code => ⟨16, 0, code, 0⟩
     | .ok hd =>
       match grantBad x (mergeIvs c) with
       | some a => ⟨16, 0, 0x41, a⟩
       | none => ⟨16 + 2 * n * g + (u + 1) / 2 * (u / 2) * g + (u + 1) / 2 + 2 * n * h, hd, 0, 0⟩)
  | 0x21 =>
    let hd := Card.f c 68 64
    let r := cl.map hd
    let ivs := unmergeIvs c r
    if r.st = 0 ∨ r.child then ⟨16, hd, 0x43, 0⟩
    else if r.st = 2 then ⟨16, hd, 0x45, 0⟩
    else if r.core ≠ coreNo q.core then ⟨16, hd, 0x41, 0⟩
    else match grantBad x ivs with
    | some a => ⟨16, hd, 0x41, a⟩
    | none =>
      if !(overlapBad ivs).isEmpty then ⟨16, hd, 0x48, Card.f c 191 160⟩
      else ⟨16 + 2 * r.n * h, hd, 0, 0⟩
  | 0x22 =>
    let e := Card.f c 95 80
    (match grantBad x (routeIvs c) with
     | some a => ⟨16, 0, 0x41, a⟩
     | none => ⟨16 + Card.f c 79 64 * ((e + 63) / 64) * (Card.f c 39 37 + 1) + e, 0, 0, 0⟩)
  | _ =>
    let hd := Card.f c 68 64
    let r := cl.map hd
    ⟨4, hd, if !c.getLsbD 69 ∧ (r.st = 0 ∨ r.child) then 0x43 else 0, 0⟩

/-- The event that ends a job. -/
def ellEnd (cl : Nat) (c : Card) : Instr :=
  match Card.type c with
  | 0x20 => .mergeJob cl
  | 0x21 => .unmergeJob cl
  | 0x22 => .routeJob cl
  | _ => .mapfreeJob cl

/-- The free engine takes the oldest card whose predecessors are complete (R259, R260). -/
def execEllipsisJobStart (cluster : Nat) (s : State) : Host.Outcome State Fault Refusal :=
  .next (
    let c := s.cluster cluster
    let ready (q : QCard) : Bool := !q.released && s.goes q.core && (match c.entry q.id with
      | some w => w.deps.isEmpty && decide (w.since ≤ s.now)
      | none => false)
    match c.ejob, c.eq.cards.find? ready with
    | none, some q =>
      let e := ellCheck ((s.core q.core).ctx q.cid) c q
      let first := if Card.type q.card = 0x21 then 16 else e.cycles
      (s.updCluster cluster fun c => { c with ejob := some ⟨q, s.now, e.cycles, e.handle, e.code, e.addr, 0⟩ }).post first
        (ellEnd cluster q.card)
    | _, _ => s)

/-- The job of a cluster if it is of a type and its cycles are over. -/
def State.ellDue (s : State) (cl ty : Nat) : Option EJob :=
  match (s.cluster cl).ejob with
  | some j => if Card.type j.card.card = ty ∧ j.start + j.cycles ≤ s.now then some j else none
  | none => none

/-- The engine writes into the posting core's A buffer (R189: no bitmap bits). -/
def State.ellWrite (s : State) (q : QCard) (ws : List AWrite) : State :=
  ws.foldl (fun s w => s.bufWrite q.core q.cid 2 w.1 w.2) s

/-- The end of a job: its charge, its tag, the next job. -/
def State.ellFinish (s : State) (cl : Nat) (j : EJob) (fault : Option (Nat × Nat)) : State :=
  let s := (s.charge j.card.core j.card.cid (160 * j.cycles)).updCluster cl fun c => { c with ejob := none }
  (s.endCard 2 j.card 3 false fault).post 0 (.ellipsisJobStart cl)

/-- The fault that the start found. -/
def EJob.fault (j : EJob) : Option (Nat × Nat) := if j.code = 0 then none else some (j.code, j.addr)

def State.ellA (s : State) (q : QCard) : Mem := ((s.core q.core).ctx q.cid).a

/-- MERGE (R263, R264, R266). -/
def execMergeJob (cluster : Nat) (s : State) : Host.Outcome State Fault Refusal :=
  .next (match s.ellDue cluster 0x20 with
    | some j =>
      if j.code ≠ 0 then s.ellFinish cluster j j.fault
      else
        let out := mergeOut (s.ellA j.card) j.card.card j.handle ((s.cluster cluster).newDepth j.card.card)
        ((s.ellWrite j.card out).updCluster cluster (·.takeMap j.card j.handle 1)).ellFinish cluster j none
    | none => s)

/-- UNMERGE (R267), row by row, each in its 2·h cycles (R260): a map entry that is bad when its row comes stops it. -/
def execUnmergeJob (cluster : Nat) (s : State) : Host.Outcome State Fault Refusal :=
  .next (match (s.cluster cluster).ejob with
    | some j =>
      let c := j.card.card
      let r := (s.cluster cluster).map j.handle
      let step := 2 * ((Card.f c 95 80 + 63) / 64)
      let upTo : EJob := { j with cycles := 16 + j.row * step }
      if Card.type c ≠ 0x21 ∨ s.now < j.start + upTo.cycles then s
      else if j.code ≠ 0 then s.ellFinish cluster j j.fault
      else if r.n ≤ j.row then
        (if c.getLsbD 37 then s.updCluster cluster (·.freeMap j.handle) else s).ellFinish cluster upTo none
      else match mapEntry (s.ellA j.card) r j.row with
      | none => s.ellFinish cluster upTo (some (0x48, r.mapoff + 2 * j.row))
      | some e =>
        let s := s.ellWrite j.card [unmergeRow (s.ellA j.card) c j.row e]
        (s.updCluster cluster fun x => { x with ejob := some { j with row := j.row + 1 } }).post (j.start + upTo.cycles + step - s.now)
          (.unmergeJob cluster)
    | none => s)

/-- ROUTE (R274). -/
def execRouteJob (cluster : Nat) (s : State) : Host.Outcome State Fault Refusal :=
  .next (match s.ellDue cluster 0x22 with
    | some j =>
      if j.code ≠ 0 then s.ellFinish cluster j j.fault
      else
        let (out, passed) := routeOut (s.ellA j.card) j.card.card
        (s.ellWrite j.card out).ellFinish cluster j
          (if passed then some (0x47, Card.f j.card.card 351 320) else none)
    | none => s)

/-- MAPFREE (R268). -/
def execMapfreeJob (cluster : Nat) (s : State) : Host.Outcome State Fault Refusal :=
  .next (match s.ellDue cluster 0x23 with
    | some j =>
      if j.code ≠ 0 then s.ellFinish cluster j j.fault
      else
        (s.updCluster cluster fun c => if j.card.card.getLsbD 69 then { c with maps := [] } else c.freeMap j.handle).ellFinish
          cluster j none
    | none => s)

/-! ### Pre-emption (R271) -/

/-- A part of a list of writes, its length not fixed by the manual. -/
def State.ellPart (s : State) (q : QCard) (ws : List AWrite) : State :=
  let (n, s) := s.freeNat
  s.ellWrite q (ws.take (n % (ws.length + 1)))

/-- A pre-emption request reaches the engine: a job with more than 20,000 model cycles to go is aborted. -/
def State.ellPreempt (s : State) (cl : Nat) : State :=
  match (s.cluster cl).ejob with
  | some j =>
    let done := s.now - j.start
    if j.cycles ≤ done + 20000 then s
    else
      let c := j.card.card
      let m := s.ellA j.card
      let j' : EJob := { j with cycles := done }
      match Card.type c with
      | 0x20 =>
        let depth := (s.cluster cl).newDepth c
        let s := s.ellPart j.card ((mergeOut m c j.handle depth).dropLast)
        let s := s.ellWrite j.card [(Card.f c 415 384, leBytes 8 (mergeRes c j.handle depth))]
        (s.updCluster cl (·.takeMap j.card j.handle 2)).ellFinish cl j' (some (0x45, Card.f c 415 384))
      | ty =>
        let s := if ty = 0x21 then s else s.ellPart j.card (routeOut m c).1
        (s.charge j.card.core j.card.cid (160 * done)).updCluster cl fun c => { c with ejob := none }
  | none => s

end Sys2Proof.Machine
end

