-- ==== Sys2Proof/Machine/Collective.lean ====
section
/-! DEFINITION. Collectives (R237, R238): members of this package take part with their cards; the data and the cards of
participants in other packages are free values. At the end of the last phase the sources are read, at their homes' ports (R18), then
the destinations written there. -/

namespace Sys2Proof.Machine

/-- A value of a participant in another package: element e of rank r. -/
def remoteEl (base r e : Nat) : Nat := (Config.freeWord (base + r * 2 ^ 40 + e)).toNat

/-- The fields on which participants must agree: TYPE, element type, OP, ROOT, COUNT, NPART. -/
def collKey (c : Card) : Nat × Nat × Nat × Nat × Nat :=
  (Card.type c, Card.f c 39 32, Card.f c 47 40, Card.f c 223 192, Card.f c 279 272)

def Card.rank (c : Card) : Nat := Card.f c 287 280

/-- Whether every member in this package has posted its card. -/
def State.collJoined (s : State) (x : Coll) : Bool :=
  match x.cards.head?.bind s.groupOf with
  | some g => (s.localDies g).all fun d => x.cards.any fun q => dieOf q.core == d
  | none => false

/-- A phase ends: with every card of this package posted, and no context of theirs being stopped, the next begins, or the
collective completes (R238). Phases and their times are not fixed. -/
def execCollectivePhaseEnd (coll : Nat) (s : State) : Host.Outcome State Fault Refusal :=
  .next (match tget s.colls coll with
    | some x =>
      if !s.collJoined x || x.cards.any (fun q => !s.goes q.core) then s
      else if !x.left.isEmpty then s.post 0 (.collectiveComplete coll)
      else
        let (n, s) := s.freeNat
        let left := if x.ready then x.phase else n % 8 + 1
        let s := { s with colls := tput s.colls coll { x with ready := true, phase := left - 1 } }
        if left ≤ 1 then s.postFree 1 (.collectiveComplete coll) else s.postFree 1 (.collectivePhaseEnd coll)
    | none => s)

/-- One combination (R238, R78, R83). -/
def collOp (c : Card) (a b : Nat) : Nat :=
  let t := Card.ty c 36 32
  let env : Num.Env := ⟨Card.rnd c, false, false, false⟩
  match Card.f c 39 37, t with
  | 0, .int32 => (a + b) % 2 ^ 32
  | 0, _ => (Num.fadd t env a b).r
  | 1, .int32 => if Num.sgn 32 a ≤ Num.sgn 32 b then a else b
  | 1, _ => (Num.fminmax t env false a b).r
  | _, .int32 => if Num.sgn 32 a ≥ Num.sgn 32 b then a else b
  | _, _ => (Num.fminmax t env true a b).r

/-- What the engine reads of each rank: its own card's source, or free values of a remote rank or a faulted source. -/
abbrev Sources := List (Nat × Option (List Nat))

def srcEl (base : Nat) (src : Sources) (r e : Nat) : Nat :=
  match (src.find? (·.1 == r)).bind (·.2) with
  | some l => l.getD e 0
  | none => remoteEl base r e

/-- Elements that a participant's source holds (R238). -/
def collSrcLen (c : Card) : Nat :=
  let n := Card.f c 223 192
  match Card.type c with
  | 0x32 => Card.f c 279 272 * n
  | 0x33 => if Card.f c 47 40 = Card.rank c then n else 0
  | _ => n

/-- Read a source (R230's reads): its elements, or the fault. -/
def State.collRead (s : State) (q : QCard) : Except EFault (List Nat) :=
  (List.range (collSrcLen q.card)).foldlM (fun acc e => (s.copyRead q (rowAt q.card 64 0) (Card.ty q.card 36 32) e).map (acc ++ [·])) []

/-- The elements that a participant's destination receives (R238). -/
def collDest (base : Nat) (src : Sources) (c : Card) : List Nat :=
  let n := Card.f c 223 192
  let np := Card.f c 279 272
  let comb (e : Nat) : Nat := match (List.range np).map fun r => srcEl base src r e with
    | [] => 0
    | x :: xs => xs.foldl (collOp c) x
  match Card.type c with
  | 0x30 => (List.range n).map comb
  | 0x31 => (List.range np).flatMap fun r => (List.range n).map (srcEl base src r)
  | 0x32 => (List.range n).map fun e => comb (Card.rank c * n + e)
  | _ => (List.range n).map (srcEl base src (Card.f c 47 40))

/-- The bytes of global memory that a source is read from. -/
def State.collHits (s : State) (q : QCard) : List Hit :=
  (List.range (collSrcLen q.card)).flatMap fun e => s.elHits q .load (rowAt q.card 64 0) (Card.ty q.card 36 32) e (e == 0)

/-- What the writes of a destination come to. -/
def State.collPuts (s : State) (q : QCard) (vals : List Nat) : Puts :=
  copyPuts q (Card.ty q.card 36 32) (fun k => .ok (rowAt q.card 128 0, k)) vals s 0

/-- The writes of a destination go out: to the ports of their homes, or posted (R317). -/
def State.collSend (s : State) (coll : Nat) (q : QCard) (hs : List Hit) : State × List Nat :=
  let op := storeOp (Card.ty q.card 36 32)
  let s := (hs.filter fun h => decide (2 ≤ h.tier)).foldl (fun s h => s.enginePost q op h) s
  s.askPort q.core q.cid 5 op hs (.coll coll q.id)

/-- The cards whose jobs end, with their faults, the writes to be sent, and the state with what stands in typed buffers. -/
structure CollOut where
  s    : State
  left : List (QCard × Option EFault)
  outs : List (QCard × List Hit)

/-- Every participant of this package receives its destination, from the sources as their homes have read them; a fault of a source or
of a destination ends that participant's job. -/
def State.collOuts (s : State) (x : Coll) : CollOut :=
  let seen := s.seeing x.got
  let base := s.free
  let reads := x.cards.map fun q => (q, seen.collRead q)
  let src : Sources := reads.map fun r => (Card.rank r.1.card, r.2.toOption)
  reads.foldl (fun a r => match r.2 with
    | .error f => { a with left := a.left ++ [(r.1, some f)] }
    | .ok _ =>
      let p := a.s.collPuts r.1 (collDest base src r.1.card)
      ⟨p.s, a.left ++ [(r.1, p.bad)], a.outs ++ [(r.1, p.outs)]⟩) ⟨{ s with free := s.free + 2 ^ 48 }, [], []⟩

/-- The data of a collective move: what homes have still to read is asked for; then the destinations are written. A die that is off is
waited for (R364). -/
def State.collMove (s : State) (coll : Nat) (x : Coll) : State :=
  let seen := s.seeing x.got
  let asks := x.cards.map fun q => (q, seen.collHits q)
  match s.offHit (asks.flatMap (·.2)) with
  | some d => s.awaitDie d (.collectiveComplete coll)
  | none =>
    let (s, ids) := asks.foldl (fun (p : State × List Nat) a =>
      let (s, ids) := p.1.askPort a.1.core a.1.cid 5 .load (unread x.got a.2) (.coll coll a.1.id)
      (s, p.2 ++ ids)) (s, [])
    if !ids.isEmpty then { s with colls := tput s.colls coll { x with turns := ids } }
    else
      let o := s.collOuts x
      match s.offHit (o.outs.flatMap (·.2)) with
      | some d => s.awaitDie d (.collectiveComplete coll)
      | none =>
        let (s, ids) := o.outs.foldl (fun (p : State × List Nat) a =>
          let (s, ids) := p.1.collSend coll a.1 a.2
          (s, p.2 ++ ids)) (o.s, [])
        { s with colls := tput s.colls coll { x with turns := ids, got := [], wrote := true, left := o.left } }.post 0
          (.collectiveComplete coll)

/-- The jobs of a collective whose destinations are written end, each once the acknowledgements that its PUB asks for are there
(R220). -/
def State.collEnd (s : State) (coll : Nat) (x : Coll) (l : List (QCard × Option EFault)) : State :=
  let waits := l.filter fun r => s.pubWaits r.1
  let s := (l.filter fun r => !s.pubWaits r.1).foldl (fun s r => s.endCard 3 r.1 4 false r.2) s
  if waits.isEmpty then { s with colls := tdel s.colls coll }
  else ({ s with colls := tput s.colls coll { x with left := waits } }).post 1 (.collectiveComplete coll)

/-- The end of a collective (R238): the cards must agree; each participant of this package receives its destination, and its
tag completes with CLASS 4. A fault of a source or a destination ends that participant's job. -/
def execCollectiveComplete (coll : Nat) (s : State) : Host.Outcome State Fault Refusal :=
  .next (match tget s.colls coll with
    | some x =>
      if !x.ready || x.phase != 0 || !s.collJoined x || x.cards.any (fun q => !s.goes q.core) then s
      else if !x.turns.isEmpty then s
      else if x.wrote then s.collEnd coll x x.left
      else if !x.got.isEmpty then s.collMove coll x
      else
        let (remoteBad, s) := s.freeBool
        let keys := x.cards.map fun q => collKey q.card
        let ranks := x.cards.map fun q => Card.rank q.card
        let np := (x.cards.head?.map fun q => Card.f q.card 279 272).getD 0
        let bad := keys.any (fun k => some k != keys.head?) || (dedup ranks).length != ranks.length ||
          (remoteBad && decide (x.cards.length < np))
        if bad then
          x.cards.foldl (fun s q =>
            let (a, s) := s.freeNat
            s.endCard 3 q 4 false (some (0x48, a))) { s with colls := tdel s.colls coll }
        else s.collMove coll x
    | none => s)

end Sys2Proof.Machine
end

