-- ==== Sys2Proof/Machine/Monitors.lean ====
section
/-! DEFINITION. Address monitors, opcodes 0xC0 to 0xC2 (R282 to R285). -/

namespace Sys2Proof.Machine

def Thread.monE (t : Thread) (k : Nat) : Option Mon := vget t.mon k none
def Thread.setMon (t : Thread) (k : Nat) (m : Option Mon) : Thread := { t with mon := vset t.mon k m }

/-- The thread's entry of a line. -/
def Thread.monOf (t : Thread) (line : Nat) : Option (Nat × Mon) :=
  (List.range 4).findSome? fun k => match t.monE k with
    | some m => if m.line = line then some (k, m) else none
    | none => none

/-- The entries with a property, as a mask. -/
def Thread.monMask (t : Thread) (p : Mon → Bool) : Nat :=
  maskNat (t.mon.toList.map fun m => match m with
    | some e => p e
    | none => false)

/-- Send an arm or disarm request of one flit to an entry's home (R283). -/
def State.monSend (s : State) (r : Run) (i : Nat) (op : MemOp) (m : Mon) : State :=
  s.sendReq i { core := r.k.1, slot := r.k.2, serial := r.n, cid := (s.core r.k.1).cid, home := m.home, tier := 0, op := op,
                els := [⟨0, m.line, m.loc, 64, 0⟩], vals := [], fault := none, flags := 0 }

/-- `MARM` (R283). -/
def execMarm (gd : Guard) (a : GReg) (b : OpB) (s : State) : Host.Outcome State Fault Refusal :=
  issue (.marm gd a b) gd 24 (fun r s =>
    let va := (memAddr r.t a b).toNat
    let w := s.who r.k
    let line := va % 2 ^ 48 / 64 * 64
    match s.trans r.k (va % 2 ^ 48) with
    | .walk => .wait .walk 0 (s.startWalk r.k (va % 2 ^ 48))
    | .absent => .trap .pageAbsent (wordOf va)
    | .leaf e =>
      if !permitted w.keys .load w.task e || decide (Entry.tier e ≥ 2) then .trap .permission (wordOf va)
      else
        let go (k : Nat) : Act :=
          let m : Mon := ⟨r.n + 1, line, Entry.loc e line, Entry.homeCore e line, false, false, false⟩
          let s := ((s.past r.n).updThr r.k (·.setMon k (some m))).monSend r 0 (.arm k) m
          .wait (.arm k) 0 s
        match r.t.monOf line with
        | some (k, m) => if m.armed then .done {} s else go k
        | none =>
          match (List.range 4).find? fun k => (r.t.monE k).isNone with
          | some k => go k
          | none => .trap .monitorOverflow (wordOf va)) s

/-- Free entries of a thread: the LOST ones at once, a disarm request for each armed one (R283). -/
def disarm (r : Run) (es : List (Nat × Mon)) (s : State) : Act :=
  let armed := es.filter (·.2.armed)
  let s := s.updThr r.k fun t => es.foldl (fun t e => if e.2.armed then t else t.setMon e.1 none) t
  if armed.isEmpty then .done {} s
  else
    let s := (armed.mapIdx fun i e => (i, e)).foldl (fun s p => s.monSend r p.1 (.disarm p.2.1) p.2.2) (s.past r.n)
    .wait (.disarm armed.length) 0 s

def execMdis (gd : Guard) (a : GReg) (b : OpB) (s : State) : Host.Outcome State Fault Refusal :=
  issue (.mdis gd a b) gd 24 (fun r s =>
    disarm r (r.t.monOf ((memAddr r.t a b).toNat % 2 ^ 48 / 64 * 64)).toList s) s

def execMdisAll (gd : Guard) (s : State) : Host.Outcome State Fault Refusal :=
  issue (.mdisAll gd) gd 24 (fun r s =>
    disarm r ((List.range 4).filterMap fun k => (r.t.monE k).map (k, ·)) s) s

/-! ### At the home -/

/-- The acknowledgement leaves in the cycle after the home port's (R283). -/
def State.monAck (s : State) (core slot home : Nat) : State :=
  match (s.thr (core, slot)).pend with
  | some p => s.post (1 + msgTime home core 1) (.monitorAck core slot p.serial)
  | none => s

/-- The home registers an entry, removing the one registered earliest where its table is full (R283 steps 7, 8). -/
def execMonitorArmRequest (core slot k : Nat) (s : State) : Host.Outcome State Fault Refusal :=
  .next (match (s.thr (core, slot)).monE k, (s.thr (core, slot)).pend with
    | some m, some ⟨.arm j, _, _, _, _⟩ =>
      if j ≠ k then s
      else
        let tab := (s.core m.home).mons
        let (s, tab) := match tab with
          | old :: rest =>
            if tab.length < 64 then (s, tab)
            else (s.post (noticeTime m.home old.core) (.monitorLostNotice old.core old.slot old.k old.arm), rest)
          | [] => (s, [])
        let s := s.updCore m.home fun c => { c with mons := tab ++ [⟨m.arm, m.loc, core, slot, k⟩] }
        let s := s.updThr (core, slot) fun t => t.setMon k (some { m with armed := true })
        s.monAck core slot m.home
    | _, _ => s)

/-- The home removes an entry (R283). -/
def execMonitorDisarmRequest (core slot k : Nat) (s : State) : Host.Outcome State Fault Refusal :=
  .next (match (s.thr (core, slot)).monE k, (s.thr (core, slot)).pend with
    | some m, some ⟨.disarm _, _, _, _, _⟩ =>
      let own (x : MonEnt) : Bool := x.core == core && x.slot == slot && x.k == k
      let s := s.updCore m.home fun c => { c with mons := c.mons.filter (!own ·) }
      let s := s.updThr (core, slot) (·.setMon k none)
      s.monAck core slot m.home
    | _, _ => s)

/-- An arm or disarm is acknowledged; the instruction ends with the last (R283). -/
def execMonitorAck (core slot serial : Nat) (s : State) : Host.Outcome State Fault Refusal :=
  let k : Key := (core, slot)
  let fin (t0 : Nat) : State := s.resume k false (.done { lat := s.cyc (dieOf core) - t0 } s)
  .next (match (s.thr k).pend with
    | some ⟨.arm _, t0, _, n, _⟩ => if n = serial then fin t0 else s
    | some ⟨.disarm left, t0, eu, n, due⟩ =>
      if n ≠ serial then s
      else if left ≤ 1 then fin t0
      else s.updThr k fun t => { t with pend := some ⟨.disarm (left - 1), t0, eu, n, due⟩ }
    | _ => s)

/-! ### `MWAIT` (R284) -/

/-- Whether the wait of `MWAIT` is over without a timeout. -/
def Thread.mwaitOver (t : Thread) : Bool := t.monMask (fun m => m.fired || m.lost) != 0 || t.intPending

/-- `MWAIT` completes: the word, the FIRED bits cleared, the LOST entries freed. -/
def mwaitDone (k : Key) (d : GReg) (s : State) : Act :=
  let t := s.thr k
  let f := t.monMask (·.fired)
  let l := t.monMask (·.lost)
  let reason := if f ≠ 0 then 1 else if l ≠ 0 then 4 else if t.intPending then 3 else 2
  let mon := t.mon.map fun m => match m with
    | some e => if e.lost then none else some { e with fired := false }
    | none => none
  .writeG d (wordOf (l * 2 ^ 12 + f * 2 ^ 8 + reason)) (s.setThr k { t with mon := mon })

def execMwait (gd : Guard) (d : GReg) (b : OpB) (s : State) : Host.Outcome State Fault Refusal :=
  issue (.mwait gd d b) gd 4 (fun r s =>
    match r.t.firstBound [d] with
    | some g => .trap .boundWrite (wordOf g.val)
    | none =>
      if r.t.mwaitOver || r.t.monMask (·.armed) == 0 then mwaitDone r.k d s
      else .wait (.mwait d) (OpB.zx r.t b).toNat s) s

/-- Whether another notice for the thread arrives in this cycle: `MWAIT` reports them together. -/
def State.noticeDue (s : State) (core slot : Nat) : Bool :=
  s.agenda.any fun e => decide (e.1 ≤ s.now) && (match e.2 with
    | .fireNoticeArrival c t _ _ | .monitorLostNotice c t _ _ => c == core && t == slot
    | _ => false)

/-- A notice changes the entry of the arming it was sent for, be it armed or LOST by now, and may end an `MWAIT` (R282). -/
def State.notice (s : State) (core slot k arm : Nat) (f : Mon → Mon) : State :=
  let key : Key := (core, slot)
  let s := match (s.thr key).monE k with
    | some m => if m.arm = arm then s.updThr key (·.setMon k (some (f m))) else s
    | none => s
  match (s.thr key).pend with
  | some ⟨.mwait d, _, _, _, _⟩ =>
    if (s.thr key).mwaitOver ∧ !s.noticeDue core slot then s.resume key true (mwaitDone key d s) else s
  | _ => s

def execFireNoticeArrival (core slot k arm : Nat) (s : State) : Host.Outcome State Fault Refusal :=
  .next (s.notice core slot k arm fun m => { m with fired := true })

def execMonitorLostNotice (core slot k arm : Nat) (s : State) : Host.Outcome State Fault Refusal :=
  .next (s.notice core slot k arm fun m => { m with armed := false, lost := true })

end Sys2Proof.Machine
end

