-- ==== Sys2Proof/Machine/System.lean ====
section
/-! DEFINITION. System instructions, opcodes 0x0F to 0x14 and 0x16 (R332, R336 to R338), debug halt (R346), and `VCOPYB`
(R195 to R197). -/

namespace Sys2Proof.Machine

/-! ### Traps and system registers -/

def execTrap (gd : Guard) (b : OpB) (s : State) : Host.Outcome State Fault Refusal :=
  issue (.trap gd b) gd 4 (fun r _ => .trap .softwareTrap (OpB.zx r.t b)) s

/-- `ERET` (R337): MODE, IE and PC in one step, then the DIRTY clauses (R149). -/
def execEret (gd : Guard) (s : State) : Host.Outcome State Fault Refusal :=
  issueSys (.eret gd) gd 4 (fun r s =>
    if r.t.tepc.toNat % 4 ≠ 0 then .trap .misaligned (r.t.tepc.zeroExtend 64)
    else .done { pc := some r.t.tepc, slots := some r.t.eretSlots } (s.updThr r.k (·.eret))) s

def badSysreg : Act := .trap .illegalOperand 0x200

def execSysr (gd : Guard) (d : GReg) (num : BitVec 32) (s : State) : Host.Outcome State Fault Refusal :=
  issueSys (.sysr gd d num) gd 4 (fun r s =>
    match s.sysreg r.k num.toNat with
    | some v => .writeG d v s
    | none => badSysreg) s

/-- `SYSW` (R332): the RW registers; a write to a barrier configuration is a `BCFG`. -/
def execSysw (gd : Guard) (a : GReg) (num : BitVec 32) (s : State) : Host.Outcome State Fault Refusal :=
  issueSys (.sysw gd a num) gd 4 (fun r s =>
    let v := r.t.rg a
    let n := num.toNat
    let thr (f : Thread → Thread) : Act := .done {} (s.updThr r.k f)
    let addrOk : Bool := v.extractLsb' 48 16 == 0 && decide (v.toNat % 4 = 0)
    if n = 0x00 then
      (if addrOk then
        .done {} (s.updCore r.k.1 fun c => c.updCtx c.cid fun x => { x with tvec := v.extractLsb' 0 48 })
      else badSysreg)
    else if n = 0x01 then
      (if v.extractLsb' 8 56 = 0 then thr fun t => { t with tcause := v.extractLsb' 0 8 } else badSysreg)
    else if n = 0x02 then thr fun t => { t with tval := v }
    else if n = 0x03 then (if addrOk then thr fun t => { t with tepc := v.extractLsb' 0 48 } else badSysreg)
    else if n = 0x04 then
      (if v.extractLsb' 9 55 = 0 ∧ v.extractLsb' 4 4 = 0 then
        thr fun t => { t with tstat := packStat (v.getLsbD 3) (v.getLsbD 2) (v.getLsbD 1) t.mode }
      else badSysreg)
    else if n = 0x05 then (if v.extractLsb' 32 31 = 0 then thr fun t => { t with tint := v } else badSysreg)
    else if 0x20 ≤ n ∧ n ≤ 0x27 then bcfgBody (n - 0x20) a r s
    else badSysreg) s

/-! ### Debug halt (R346) -/

/-- A core enters debug halt; the timeouts of its context pause. -/
def State.haltCore (s : State) (core : Nat) : State :=
  let c := s.core core
  if c.halted then s
  else
    let die := dieOf core
    (s.setCore core { c with halted := true }).updCtx die c.cid fun x =>
      { x with halts := x.halts + 1, haltAt := if x.halts = 0 then s.cyc die else x.haltAt }

/-- A timeout that has paused from cycle h to now runs on (R346). -/
def State.shiftDue (s : State) (k : Key) (h : Nat) : State :=
  match (s.thr k).pend with
  | some ⟨kind, t0, eu, n, some d⟩ =>
    if kind = .iflush then s
    else
      let d' := d + (s.cyc (dieOf k.1) - Nat.max h t0)
      let s := s.updThr k fun t => { t with pend := some ⟨kind, t0, eu, n, some d'⟩ }
      { s with agenda := agendaAdd s.agenda d' (.waitTimeout k.1 k.2 n) }
  | _ => s

/-- A core leaves debug halt; with the last of its context the timeouts go on. -/
def State.unhaltCore (s : State) (core : Nat) : State :=
  let c := s.core core
  if !c.halted then s
  else
    let die := dieOf core
    let x := s.ctx die c.cid
    let s := (s.setCore core { c with halted := false, dstep := none }).updCtx die c.cid fun x => { x with halts := x.halts - 1 }
    if x.halts ≤ 1 then
      x.cores.foldl (fun s k => (List.range 16).foldl (fun s t => s.shiftDue (k, t) x.haltAt) s) s
    else s

def execBkpt (gd : Guard) (b : OpB) (s : State) : Host.Outcome State Fault Refusal :=
  issue (.bkpt gd b) gd 4 (fun r s =>
    if (s.ctx (dieOf r.k.1) (s.core r.k.1).cid).debug then
      let s := (s.chargeIn r.k.1 1 4).updThr r.k fun t => { t with next := alignUp (s.cyc (dieOf r.k.1) + 1) r.k.2, walked := [] }
      .raw ((s.haltCore r.k.1).stepEnd r.k)
    else .trap .breakpoint (OpB.zx r.t b)) s

/-- `IFLUSH` (R337): the thread waits 32 cycles; when the wait ends, fetches see no word replaced before its issue (R322). -/
def execIflush (gd : Guard) (s : State) : Host.Outcome State Fault Refusal :=
  issue (.iflush gd) gd 4 (fun r s =>
    drain r 1 s (.wait .iflush 32 s)) s

/-! ### `HCALL` (R338) -/

/-- `HCALL`: the copy of g1 to g6 at a free address of application-core memory (notes/assumptions/2), the event, the wait. -/
def execHcall (gd : Guard) (b : OpB) (s : State) : Host.Outcome State Fault Refusal :=
  issue (.hcall gd b) gd 4 (fun r s =>
    match r.t.firstBound [1, 2] with
    | some g => .trap .boundWrite (wordOf g.val)
    | none => drain r 1 s (
        let (n, s) := s.freeNat
        let buf := n % 2 ^ 40 * 64
        let args := (List.finRange 6).flatMap fun i => leBytes 8 (r.t.rg ⟨i.val + 1, by omega⟩).toNat
        let o := r.t.home r.k
        let s := { s with appMem := s.appMem.writeBytes buf args }
        .wait .hcall 0 (s.postEvent {
          type := 8, die := dieOf r.k.1, cid := (s.core r.k.1).cid
          w1 := wordOf (idxOf o.1 * 16 + o.2)
          w2 := OpB.zx r.t b
          w3 := wordOf buf
          kill := none
          call := r.n }))) s

/-- Where the thread of an origin slot runs: the slot itself, or the GUEST slot of an AWAY thread. -/
def State.whereIs (s : State) (o : Key) : Key :=
  if (s.thr o).st = .away then
    let c := (s.thr o).place
    match (List.range 16).find? fun n => (s.thr (c, n)).st == .guest && (s.thr (c, n)).origin == o with
    | some n => (c, n)
    | none => o
  else o

/-- What the reply does to the waiting thread (R338). -/
def hcallEnd (status : Nat) (r1 r2 : Word) (s : State) : Act :=
  if status = 0 then .done { g := [(1, r1), (2, r2)] } s else .trap .hcallError (wordOf status)

/-- A reply held with a thread is committed before the thread issues (R338, R341). -/
def State.heldReply (s : State) (k : Key) : State :=
  match (s.thr k).hreply with
  | some (st, r1, r2) =>
    let s := s.updThr k fun t => { t with hreply := none }
    s.resume k true (hcallEnd st r1 r2 s)
  | none => s

/-! ### `VCOPYB` (R195 to R197) -/

/-- The parts of n bytes at va that lie in one 64-byte line each: number, address, size. -/
def lineParts (va n : Nat) : List (Nat × Nat × Nat) :=
  let n0 := min n (64 - va % 64)
  if n0 = n then [(0, va, n)] else [(0, va, n0), (1, (va + n0) % 2 ^ 64, n - n0)]

/-- A raw byte access of any alignment whatever the page's format (R196); FMT and GEO must form a pair (R70). -/
def State.byteChk (s : State) (w : Who) (acc : AccK) (idx va n data : Nat) : Chk :=
  match s.trans w.k (va % 2 ^ 48) with
  | .walk => .walk (va % 2 ^ 48)
  | .absent => .fault 3 .pageAbsent va
  | .leaf e =>
    if !permitted w.keys acc w.task e then .fault 4 .permission va
    else if !Entry.pairOk e then .fault 5 .formatMismatch va
    else .ok [⟨Entry.homeCore e (va % 2 ^ 48), Entry.tier e, ⟨idx, va, Entry.loc e (va % 2 ^ 48), n, data⟩⟩] []

/-- The first byte of n at va that a buffer does not grant, for a thread. -/
def bufByteBad (x : CCtx) (sp : Nat) (store : Bool) (va n : Nat) : Option Nat :=
  let e := Num.sgn 64 va
  if agentOk .thread sp store && x.inside sp e n then none
  else if agentOk .thread sp store && x.inside sp e 1 then some (x.size sp)
  else some va

/-- The values of the parts put together. -/
def joinParts (vals : Tab Nat) (ps : List (Nat × Nat × Nat)) : Nat :=
  (ps.foldl (fun (acc : Nat × Nat) p => (acc.1 + 2 ^ (8 * acc.2) * ((tget vals p.1).getD 0), acc.2 + p.2.2)) (0, 0)).1

/-- The one commit of a step. -/
def vcopyCommit (d a c : GReg) (n : Nat) (t : Thread) (lat : Nat) : Commit :=
  let left := t.rg c - wordOf n
  { g := [(d, t.rg d + wordOf n), (a, t.rg a + wordOf n), (c, left)], pc := if left = 0 then none else some t.pc, lat := lat }

/-- The end of a step's store. -/
def finVcopyStore (k : Key) (d a c : GReg) (n : Nat) (w : MemW) (s : State) : Act :=
  w.fin (.done (vcopyCommit d a c n (s.thr k) 0) s)

/-- The store of a step, `lat` cycles after its issue. -/
def vcopyStore (r : Run) (dest : Fin 4) (d a c : GReg) (n v lat : Nat) (s : State) : Act :=
  let dst := (r.t.rg d).toNat
  if dest = 0 then
    (s.byteChk (s.who r.k) .store 0 dst n v).go r s fun hs _ =>
      if s.localHit r.k hs then
        (access r (.vcopyStore d a c n) .store hs (finVcopyStore r.k d a c n) s).withLat lat
      else
        let (s, m) := (s.past r.n).sendAll r.k r.n .store hs lat
        .wait (.mem (.vcopyStore d a c n) ⟨m, [], none, 0⟩) 0 s
  else
    let x := (s.core r.k.1).ctx (s.core r.k.1).cid
    match bufByteBad x dest.val true dst n with
    | some b => .trap .bufferPermission (wordOf b)
    | none =>
      .done (vcopyCommit d a c n r.t (lat + bufLat dest.val n))
        (s.bufWrite r.k.1 (s.core r.k.1).cid dest.val dst (leBytes n v))

/-- The end of a step's load from global memory. -/
def finVcopyLoad (k : Key) (serial : Nat) (dest : Fin 4) (d a c : GReg) (n : Nat) (w : MemW) (s : State) : Act :=
  let t := s.thr k
  w.fin (vcopyStore ⟨k, t, serial, .nop ⟨false, 0⟩⟩ dest d a c n (joinParts w.vals (lineParts (t.rg a).toNat n)) 0 s)

/-- A register operand of `VCOPYB` that is g0 or repeats an earlier one (R195). The check is made before the guard, with the eu of
R57 (notes/assumptions/84, DEDUCED). -/
def vcopyBad (d a c : GReg) : Option Nat :=
  if d = 0 then some 0
  else if a = 0 ∨ a = d then some (0x100 + a.val)
  else if c = 0 ∨ c = d ∨ c = a then some (0x300 + c.val)
  else none

def execVcopyb (gd : Guard) (dest frm : Fin 4) (d a c : GReg) (s : State) : Host.Outcome State Fault Refusal :=
  issueWith (·.guardOn gd) (fun _ => (vcopyBad d a c).map fun v => (.illegalOperand, wordOf v)) (.vcopyb gd dest frm d a c) 640
    (heavyOnly fun r s =>
      match r.t.firstBound [d, a, c] with
      | some g => .trap .boundWrite (wordOf g.val)
      | none =>
        let cnt := (r.t.rg c).toNat
        let dst := (r.t.rg d).toNat
        let src := (r.t.rg a).toNat
        drain r 1 s (if cnt = 0 then .done {} s else
          let n := min cnt (64 - dst % 64)
          let w := s.who r.k
          let x := (s.core r.k.1).ctx (s.core r.k.1).cid
          let dstWalk := if dest = 0 then (match s.byteChk w .store 0 dst n 0 with
            | .walk va => some va
            | _ => none) else none
          let walk (va : Nat) : Act := .wait .walk 0 (s.startWalk r.k va)
          if frm = 0 then
            let ps := lineParts src n
            (Chk.all false (ps.map fun p => s.byteChk w .load p.1 p.2.1 p.2.2 0)).go r s fun hs _ =>
              match dstWalk with
              | some va => walk va
              | none =>
                if s.localHit r.k hs then
                  let (q, s, l) := localServe r .load (hs.map (·.el)) s
                  q.fin (vcopyStore r dest d a c n (joinParts q.vals ps) l s)
                else
                  let (s, m) := (s.past r.n).sendAll r.k r.n .load hs
                  .wait (.mem (.vcopyLoad dest d a c n) ⟨m, [], none, 0⟩) 0 s
          else
            match bufByteBad x frm.val false src n, dstWalk with
            | some b, _ => .trap .bufferPermission (wordOf b)
            | none, some va => walk va
            | none, none => vcopyStore r dest d a c n ((x.buf frm.val).read src n) (bufLat frm.val n) s)) s

end Sys2Proof.Machine
end

