-- ==== Sys2Proof/Machine/Instants.lean ====
section
/-! DEFINITION. Reactive regions (R295 to R311): `GINVOKE`, the signal, delay and channel instructions, and the instant
controller. The controller's answers take their 6 cycles as latency of the node that waits. -/

namespace Sys2Proof.Machine

/-! ### Graphs -/

def Graph.empty : Graph := ⟨[], [], Vector.replicate 8 none, [], 0, false, false, 0, 0, 0, [], none⟩
def State.graph (s : State) (cl g : Nat) : Graph := (tget (s.cluster cl).graphs g).getD .empty
def State.updGraph (s : State) (cl g : Nat) (f : Graph → Graph) : State :=
  s.updCluster cl fun c => match tget c.graphs g with
    | some x => { c with graphs := tput c.graphs g (f x) }
    | none => c

def Sig.empty : Sig := ⟨0, 0, 0, 0, false, false, none, 0⟩
def Node.empty : Node := ⟨0, 0, 0, 0, .empty, 0, 0, 0, 0, 0⟩
def Graph.sig (g : Graph) (i : Nat) : Sig := g.sigs.getD i .empty
def Graph.node (g : Graph) (i : Nat) : Node := g.nodes.getD i .empty
def Graph.updSig (g : Graph) (i : Nat) (f : Sig → Sig) : Graph := { g with sigs := g.sigs.modify i f }
def Graph.updNode (g : Graph) (i : Nat) (f : Node → Node) : Graph := { g with nodes := g.nodes.modify i f }

/-- The bit of a number in a mask. -/
def bitOf (i : Nat) : Word := 1#64 <<< i

/-- The nodes with a property, as a mask. -/
def Graph.nodeMask (g : Graph) (p : Node → Bool) : Word := wordOf (maskNat (g.nodes.map p))

/-- The signals with a property, as a mask. -/
def Graph.sigMask (g : Graph) (p : Nat → Bool) : Word := wordOf (maskNat ((List.range g.sigs.length).map p))

/-- The declared potential emitters of a signal (R296). -/
def Graph.emitters (g : Graph) (i : Nat) : Word := g.nodeMask fun n => n.emask.getLsbD i

/-- Whether every declared potential emitter is done with a signal (R302). -/
def Graph.allDone (g : Graph) (i : Nat) : Bool := g.emitters i &&& ~~~(g.sig i).done == 0

/-- Whether a signal's value is final (R302). -/
def Graph.final (g : Graph) (i : Nat) : Bool := (g.sig i).st == 2 || ((g.sig i).st == 1 && g.allDone i)

/-- The combination of two contributions (R297). -/
def sigCombine (op : Nat) (x y : Word) : Word :=
  match op with
  | 0 => x + y
  | 1 => if x.toInt ≤ y.toInt then x else y
  | 2 => if x.toInt ≥ y.toInt then x else y
  | 3 => x ||| y
  | _ => x &&& y

/-- A contribution of node n (R302). -/
def Sig.emit (x : Sig) (n : Nat) (v : Word) : Sig :=
  if x.st = 0 then { x with st := 1, val := v, seen := true, first := some (some n) }
  else if x.op = 5 then
    match x.first with
    | some (some m) => if n < m then { x with val := v, first := some (some n) } else x
    | _ => x
  else { x with val := sigCombine x.op x.val v, seen := true }

/-- A node is done with the signals of a mask; a signal with no emitter left becomes absent (R302). -/
def Graph.markDone (g : Graph) (n : Nat) (mask : Word) : Graph :=
  (List.range g.sigs.length).foldl (fun g i =>
    if mask.getLsbD i then
      let g := g.updSig i fun x => { x with done := x.done ||| bitOf n }
      if (g.sig i).st = 0 ∧ g.allDone i then g.updSig i fun x => { x with st := 2 } else g
    else g) g

/-- A deadlocked graph: every node has paused, terminated or waits at the controller, and one does (R310). -/
def Graph.stuck (g : Graph) : Bool :=
  g.busy && g.nodes.any (·.st == 3) && g.nodes.all fun n => n.st == 1 || n.st == 2 || n.st == 3

/-- Whether every node has paused or terminated (R304). -/
def Graph.over (g : Graph) : Bool := g.nodes.all fun n => n.st == 1 || n.st == 2

/-! ### Where nodes are (R297, R301, R303) -/

/-- The slot of a running node. -/
def State.nodeKey (s : State) (cl g n : Nat) : Option Key :=
  let core := coreIn cl ((s.graph cl g).node n).core
  ((List.range 16).find? fun i => (s.thr (core, i)).st == .node && (s.thr (core, i)).node == some (cl, g, n)).map (core, ·)

/-- A thread as the node store holds it: its monitors are disarmed as at a switch (R285); the wait of an `HCALL` is kept (R338). -/
def Thread.parked (t : Thread) : Thread :=
  let lose (m : Option Mon) : Option Mon := m.map fun e => if e.armed then { e with armed := false, lost := true } else e
  { t with st := .node, pend := t.pend.filter (·.kind == .hcall), walked := [], seen := none, next := 0, mon := t.mon.map lose, dfault := unmark t.dfault }

/-- Park the node that runs in slot k with PC := pc; the slot is free from cycle y on (R303). -/
def State.parkNode (s : State) (k : Key) (pc : Addr) (y : Nat) (f : Node → Node) : State :=
  match (s.thr k).node with
  | some (cl, g, n) =>
    let s := s.dropMons k
    let t := (s.thr k).parked
    (s.setThr k (.freed y)).updGraph cl g (·.updNode n fun x => f { x with ctx := { t with pc := pc } })
  | none => s

/-- A node as after load or reset (R301). -/
def Node.fresh (cl g n : Nat) (x : Node) : Node :=
  { x with
    st := 0, emitted := 0, retr := 0, reason := 0, index := 0, flight := 0
    ctx := { Thread.empty with st := .node, light := true, pc := BitVec.ofNat 48 x.entry, node := some (cl, g, n) } }

/-! ### Messages to the controller (R298) -/

/-- Before: by arrival, core number, slot. -/
def CtlMsg.before (a b : CtlMsg) : Bool :=
  a.due < b.due || (a.due == b.due && (a.core < b.core || (a.core == b.core && a.slot < b.slot)))

def ctlInsert (m : CtlMsg) : List CtlMsg → List CtlMsg
  | [] => [m]
  | x :: l => if m.before x then m :: x :: l else x :: ctlInsert m l

/-- Send a message of thread k to the controller of a cluster. -/
def State.ctlSend (s : State) (cl : Nat) (k : Key) (delay : Nat) (ev : Instr) : State :=
  (s.updCluster cl fun c => { c with inbox := ctlInsert ⟨s.now + delay, coreNo k.1, k.2, ev⟩ c.inbox }).post delay ev

/-- The controller handles a message when its turn comes: one per cycle, in order of arrival. -/
def State.ctlTurn (s : State) (cl : Nat) (ev : Instr) (f : State → State) : State :=
  let c := s.cluster cl
  match c.inbox with
  | m :: rest =>
    if m.ev = ev ∧ m.due ≤ s.now ∧ c.cfree ≤ s.now then
      f (s.updCluster cl fun c => { c with inbox := rest, cfree := s.now + 1 })
    else if c.inbox.any (·.ev == ev) then s.post 1 ev
    else s
  | [] => s

/-! ### `GINVOKE` (R299, R300) -/

/-- Bits [hi:lo] of an invocation block. -/
def blkF (b : BitVec 704) (hi lo : Nat) : Nat := b.toNat >>> lo % 2 ^ (hi - lo + 1)

/-- Send the block to the controller of its grid cluster; 6 flits over the mesh to another cluster (R298). -/
def ginvokeSend (k : Key) (serial : Nat) (d : PReg) (a : GReg) (blk : BitVec 704) (d0 : Nat) (s : State) : Act :=
  let grid := (s.ctx (dieOf k.1) (s.core k.1).cid).grid
  match grid[blkF blk 27 24]? with
  | none => .trap .illegalOperand (wordOf (0x100 + a.val))
  | some cl =>
    let (m, s) := s.fresh
    let far := if cl = clusterOf k.1 then 0 else msgTime k.1 (coreIn cl 0) 6
    let s := { s with invs := tput s.invs m ⟨k.1, k.2, serial, cl, blk, 0⟩ }
    .wait (.ginvoke d a) 0 (s.ctlSend cl k (d0 + 6 + far) (.invocationMessage m))

/-- The block has been read. -/
def finGinvoke (k : Key) (serial : Nat) (d : PReg) (a : GReg) (d0 : Nat) (w : MemW) (s : State) : Act :=
  w.fin (ginvokeSend k serial d a
    (BitVec.ofNat 704 ((List.range 11).foldr (fun i n => (tget w.vals i).getD 0 + 2 ^ 64 * n) 0)) d0 s)

def execGinvoke (gd : Guard) (d : PReg) (a : GReg) (b : OpB) (s : State) : Host.Outcome State Fault Refusal :=
  issue (.ginvoke gd d a b) gd 24 (fun r s =>
    let va := (memAddr r.t a b).toNat
    if va % 8 ≠ 0 then .trap .misaligned (wordOf va)
    else (s.runChk (s.who r.k) .load .int64 8 11 va (List.range 11) (fun _ => 0)).go r s fun hs _ =>
      drain r 1 s (
        if s.localHit r.k hs then
          let (w, s, l) := localServe r .load (hs.map (·.el)) s
          finGinvoke r.k r.n d a l w (s.past r.n)
        else access r (.ginvoke d a) .load hs (finGinvoke r.k r.n d a 0) s)) s

/-- bad(blk) of R300. -/
def blkBad (g : Option Graph) (b : BitVec 704) : Bool :=
  let nin := blkF b 19 16
  let byte (i : Nat) : Nat := blkF b (8 * i + 135) (8 * i + 128)
  let used := (List.range nin).map byte
  blkF b 7 3 != 0 || blkF b 15 14 != 0 || blkF b 23 20 != 0 || blkF b 30 28 != 0 || blkF b 63 32 != 0 ||
    blkF b 127 112 != 0 || decide (nin > 8) || blkF b 111 64 % 8 != 0 ||
    (List.range 8).any (fun i => decide (nin ≤ i) && byte i != 0) || (dedup used).length != used.length ||
    (match g with
     | some g => used.any fun x => decide (g.sigs.length ≤ x)
     | none => true)

/-- The controller handles an invocation (R300). -/
def execInvocationMessage (m : Nat) (s : State) : Host.Outcome State Fault Refusal :=
  .next (match tget s.invs m with
    | some v => s.ctlTurn v.cluster (.invocationMessage m) fun s =>
        let gi := blkF v.blk 2 0
        let g := tget (s.cluster v.cluster).graphs gi
        let reply := if blkBad g v.blk then 3 else if (s.graph v.cluster gi).store.length ≥ 16 then 2 else 1
        let s := if reply = 1 then s.updGraph v.cluster gi fun g => { g with store := g.store ++ [⟨m, v.blk, v.core, false⟩] } else s
        let far := if v.cluster = clusterOf v.core then 0 else msgTime (coreIn v.cluster 0) v.core 1
        { s with invs := tput s.invs m { v with reply := reply } }.post (6 + far) (.invocationReply m)
    | none => s)

/-- The reply reaches the invoking core: on OK the tag is posted and the invocation may start an instant (R300). -/
def execInvocationReply (m : Nat) (s : State) : Host.Outcome State Fault Refusal :=
  .next (match tget s.invs m with
    | some v =>
      let k : Key := (v.core, v.slot)
      let s := { s with invs := tdel s.invs m }
      match (s.thr k).pend with
      | some ⟨.ginvoke d a, t0, _, n, _⟩ =>
        if n ≠ v.serial then s
        else
          let lat := s.cyc (dieOf v.core) - t0
          match v.reply with
          | 1 =>
            let gi := blkF v.blk 2 0
            let tag := blkF v.blk 13 8
            let ok (x : Inv) : Inv := if x.id = m then { x with ok := true } else x
            let s := (s.updCore v.core fun c => c.setTag tag (c.tagAt tag).post).updGraph v.cluster gi
              fun g => { g with store := g.store.map ok }
            let s := s.post 0 (.instantBegin v.cluster gi)
            s.resume k false (.done { p := [(d, ones64)], lat := lat } s)
          | 2 => s.resume k false (.done { p := [(d, 0)], lat := lat } s)
          | _ => s.resume k false (.trap .illegalOperand (wordOf (0x100 + a.val)))
      | _ => s
    | none => s)

/-! ### Signal, delay and channel instructions (R305 to R308) -/

/-- A body for nodes alone (R297). -/
def nodeOnly (body : Nat → Nat → Nat → Run → State → Act) (r : Run) (s : State) : Act :=
  match r.t.node with
  | some (cl, g, n) => body cl g n r s
  | none => .trap .illegalInstruction (wordVal r.i)

/-- A signal index from B (R305). -/
def withSig (g : Graph) (b : OpB) (r : Run) (f : Nat → Act) : Act :=
  let i := (OpB.zx r.t b).toNat
  if i < g.sigs.length then f i else .trap .illegalOperand (wordOf (0x200 + OpB.spec b))

def execEmit (gd : Guard) (a : GReg) (b : OpB) (s : State) : Host.Outcome State Fault Refusal :=
  issue (.emit gd a b) gd 4 (nodeOnly fun cl gi n r s =>
    let g := s.graph cl gi
    withSig g b r fun i =>
      let x := g.node n
      if !x.emask.getLsbD i then .trap .signalUndeclared (wordOf i)
      else if x.retr.getLsbD i then .trap .signalUndeclared (wordOf (0x100 + i))
      else drain r 1 s (
        let s := s.updGraph cl gi (·.updNode n fun x => { x with emitted := x.emitted ||| bitOf i })
        .done {} (s.ctlSend cl r.k 6 (.emitMessage cl gi n i (r.t.rg a))))) s

/-- `SIGT`, `SIGQ`, `SIGV`: kinds 1, 0 and 2. -/
def sigAsk (i : Instr) (gd : Guard) (kind : Nat) (dp : PReg) (dg : GReg) (b : OpB) (s : State) : Host.Outcome State Fault Refusal :=
  issue i gd 4 (nodeOnly fun cl gi n r s =>
    withSig (s.graph cl gi) b r fun x =>
      match r.t.firstBound [dg] with
      | some g => .trap .boundWrite (wordOf g.val)
      | none => .wait (.sig kind x dp dg) 0 ((s.past r.n).ctlSend cl r.k 6 (.signalQuery cl gi n))) s

def execSigt (gd : Guard) (d : PReg) (b : OpB) (s : State) : Host.Outcome State Fault Refusal := sigAsk (.sigt gd d b) gd 1 d 0 b s
def execSigq (gd : Guard) (d : GReg) (b : OpB) (s : State) : Host.Outcome State Fault Refusal := sigAsk (.sigq gd d b) gd 0 0 d b s
def execSigv (gd : Guard) (d : GReg) (b : OpB) (s : State) : Host.Outcome State Fault Refusal := sigAsk (.sigv gd d b) gd 2 0 d b s

/-- The node is done with the signals of a mask: marked at once, and told to the controller (R302, R306). -/
def State.retract (s : State) (cl g n : Nat) (k : Key) (mask : Word) : State :=
  (s.updGraph cl g (·.updNode n fun x => { x with retr := x.retr ||| mask })).ctlSend cl k 6 (.nodeDoneMessage cl g n mask 0)

def execRetract (gd : Guard) (b : OpB) (s : State) : Host.Outcome State Fault Refusal :=
  issue (.retract gd b) gd 4 (nodeOnly fun cl gi n r s =>
    let g := s.graph cl gi
    withSig g b r fun i =>
      if !(g.node n).emask.getLsbD i then .trap .signalUndeclared (wordOf i)
      else .done {} (s.retract cl gi n r.k (bitOf i))) s

def execRetractAll (gd : Guard) (s : State) : Host.Outcome State Fault Refusal :=
  issue (.retractAll gd) gd 4 (nodeOnly fun cl gi n r s =>
    .done {} (s.retract cl gi n r.k ((s.graph cl gi).node n).emask)) s

/-- `PAUSE` and `GEND` (R303): the node is parked after the instruction, its slot freed in the next cycle. -/
def endReaction (kind : Nat) (cl gi n : Nat) (r : Run) (s : State) : Act :=
  drain r 1 s (
    let mask := ((s.graph cl gi).node n).emask
    let s := (s.chargeIn r.k.1 1 4).ctlSend cl r.k 6 (.nodeDoneMessage cl gi n mask kind)
    .raw ((s.parkNode r.k (pcNext r.t.pc) (s.cyc (dieOf r.k.1) + 1) fun x => { x with st := 5 }).stepEnd r.k))

def execPause (gd : Guard) (s : State) : Host.Outcome State Fault Refusal :=
  issue (.pause gd) gd 4 (nodeOnly (endReaction 1)) s

def execGend (gd : Guard) (s : State) : Host.Outcome State Fault Refusal :=
  issue (.gend gd) gd 4 (nodeOnly (endReaction 2)) s

def execDget (gd : Guard) (d : GReg) (a : DReg) (s : State) : Host.Outcome State Fault Refusal :=
  issueNodeReg 1 (0x38 + a.val) (.dget gd d a) gd 4 (fun r s => .writeG d (r.t.d.get a) s) s

def execDset (gd : Guard) (d : DReg) (b : OpB) (s : State) : Host.Outcome State Fault Refusal :=
  issueNodeReg 0 (0x38 + d.val) (.dset gd d b) gd 4 (fun r s =>
    .done {} (s.updThr r.k fun t =>
      { t with dnext := t.dnext.set d.val (OpB.sx r.t b) d.isLt, dpend := t.dpend ||| (1#8 <<< d.val) })) s

def execChw (gd : Guard) (d : ChReg) (b : OpB) (s : State) : Host.Outcome State Fault Refusal :=
  issueNodeReg 0 (0x70 + d.val) (.chw gd d b) gd 4 (nodeOnly fun cl gi n r s =>
    drain r 1 s (.wait (.chw d (OpB.sx r.t b)) 0 ((s.past r.n).ctlSend cl r.k 6 (.channelRequest cl gi n)))) s

def execChr (gd : Guard) (d : GReg) (a : ChReg) (s : State) : Host.Outcome State Fault Refusal :=
  issueNodeReg 1 (0x70 + a.val) (.chr gd d a) gd 4 (nodeOnly fun cl gi n r s =>
    match r.t.firstBound [d] with
    | some g => .trap .boundWrite (wordOf g.val)
    | none => .wait (.chr a d) 0 ((s.past r.n).ctlSend cl r.k 6 (.channelRequest cl gi n))) s

def execSigpre (gd : Guard) (val : Bool) (d : GReg) (b : OpB) (s : State) : Host.Outcome State Fault Refusal :=
  issue (.sigpre gd val d b) gd 4 (nodeOnly fun cl gi _ r s =>
    let g := s.graph cl gi
    withSig g b r fun i =>
      .writeG d (if val then (g.sig i).pre else wordOf (g.sig i).preSt.toNat) s) s

/-! ### What the controller does -/

/-- Answer the waiting instruction of a node with a value; the answer takes 6 cycles (R306, R308). -/
def State.ctlAnswer (s : State) (cl g n : Nat) (v : Word) : State :=
  match s.nodeKey cl g n with
  | some k =>
    let s := s.updGraph cl g (·.updNode n fun x => { x with st := 5, reason := 0, index := 0 })
    (match (s.thr k).pend with
     | some p =>
       let lat := s.cyc (dieOf k.1) - p.t0 + 6
       let c : Commit := match p.kind with
         | .sig 1 _ dp _ => { p := [(dp, v)], lat := lat }
         | .sig _ _ _ dg => { g := [(dg, v)], lat := lat }
         | .chr _ d => { g := [(d, v)], lat := lat }
         | _ => { lat := lat }
       s.resume k false (.done c s)
     | none => s)
  | none => s

/-- The answer to a waiting `SIGT` (kind 1) or `SIGV` (kind 2), once it can be given. -/
def Graph.sigAnswer (g : Graph) (kind i : Nat) : Option Word :=
  let x := g.sig i
  if kind = 1 then (if x.st = 0 then none else some (maskOf (x.st == 1)))
  else if kind = 2 then (if g.final i then some (if x.st = 1 then x.val else 0) else none)
  else none

/-- Answer every `SIGT` and `SIGV` whose condition holds. -/
def State.wakeSigs (s : State) (cl g : Nat) : State :=
  (s.graph cl g).waits.foldl (fun s w =>
    match (s.graph cl g).sigAnswer w.kind w.idx with
    | some v => (s.updGraph cl g fun x => { x with waits := x.waits.filter (· != w) }).ctlAnswer cl g w.node v
    | none => s) s

/-- Serve a channel: the first waiting request whose condition holds, again and again (R308). -/
def State.serveChan (s : State) (cl g c : Nat) : Nat → State
  | 0 => s
  | fuel + 1 =>
    let x := s.graph cl g
    let ch := vget x.chans c none
    match x.waits.find? fun w => w.idx == c && (if ch.isSome then w.kind == 3 else w.kind == 4) with
    | some w =>
      let put := if ch.isSome then none else some w.val
      ((s.updGraph cl g fun x => { x with waits := x.waits.filter (· != w), chans := vset x.chans c put }).ctlAnswer cl g w.node
        (ch.getD 0)).serveChan cl g c fuel
    | none => s

/-- After a message: a graph that has come to a stop freezes in the next cycle (R310). -/
def State.stuckCheck (s : State) (cl g : Nat) : State :=
  if (s.graph cl g).stuck then s.post 1 (.causalityFreeze cl g) else s

def execEmitMessage (cluster graph node sig : Nat) (v : Word) (s : State) : Host.Outcome State Fault Refusal :=
  .next (s.ctlTurn cluster (.emitMessage cluster graph node sig v) fun s =>
    ((s.updGraph cluster graph (·.updSig sig (·.emit node v))).wakeSigs cluster graph).stuckCheck cluster graph)

/-- Done with signals (kind 0), paused (1) or terminated (2); the last one to end ends the instant (R302 to R304). -/
def execNodeDoneMessage (cluster graph node : Nat) (sigs : Word) (kind : Nat) (s : State) : Host.Outcome State Fault Refusal :=
  .next (s.ctlTurn cluster (.nodeDoneMessage cluster graph node sigs kind) fun s =>
    let s := s.updGraph cluster graph fun g =>
      let g := g.markDone node sigs
      if kind = 0 then g else g.updNode node fun x => { x with st := kind }
    let s := s.wakeSigs cluster graph
    if (s.graph cluster graph).over then s.post 1 (.instantEnd cluster graph) else s.stuckCheck cluster graph)

/-- A node waits at the controller, for a reason of R311. -/
def State.ctlBlock (s : State) (cl g : Nat) (w : CtlW) : State :=
  s.updGraph cl g fun x => { x with waits := x.waits ++ [w] }.updNode w.node fun n => { n with st := 3, reason := w.kind, index := w.idx }

/-- `SIGT`, `SIGQ` or `SIGV` of a node is handled (R306). -/
def execSignalQuery (cluster graph node : Nat) (s : State) : Host.Outcome State Fault Refusal :=
  .next (s.ctlTurn cluster (.signalQuery cluster graph node) fun s =>
    match (s.nodeKey cluster graph node).bind fun k => (s.thr k).pend with
    | some ⟨.sig kind i _ _, _, _, _, _⟩ =>
      let g := s.graph cluster graph
      if kind = 0 then
        let st := (g.sig i).st
        s.ctlAnswer cluster graph node (if st = 0 then 2 else if st = 1 then 1 else 0)
      else match g.sigAnswer kind i with
        | some v => s.ctlAnswer cluster graph node v
        | none => (s.ctlBlock cluster graph ⟨node, kind, i, 0⟩).stuckCheck cluster graph
    | _ => s)

/-- `CHW` or `CHR` of a node is handled (R308). -/
def execChannelRequest (cluster graph node : Nat) (s : State) : Host.Outcome State Fault Refusal :=
  .next (s.ctlTurn cluster (.channelRequest cluster graph node) fun s =>
    let w : Option CtlW := match (s.nodeKey cluster graph node).bind fun k => (s.thr k).pend with
      | some ⟨.chr c _, _, _, _, _⟩ => some ⟨node, 3, c.val, 0⟩
      | some ⟨.chw c v, _, _, _, _⟩ => some ⟨node, 4, c.val, v⟩
      | _ => none
    match w with
    | some w => ((s.ctlBlock cluster graph w).serveChan cluster graph w.idx 64).stuckCheck cluster graph
    | none => s)

/-! ### An instant (R301, R304) -/

/-- Whether the nodes and the controller of a cluster are at work: its context runs or is being stopped (R312). -/
def State.clusterWorks (s : State) (cl : Nat) : Bool :=
  match (s.cluster cl).run with
  | some cid => (s.ctx (cl / 16) cid).st == .running || (s.ctx (cl / 16) cid).st == .preempting
  | none => false

/-- Whether the context of a cluster runs and is not being stopped (R312). -/
def State.clusterGoes (s : State) (cl : Nat) : Bool :=
  match (s.cluster cl).run with
  | some cid => (s.ctx (cl / 16) cid).st == .running
  | none => false

/-- A reset graph (R301). -/
def Graph.reset (cl gi : Nat) (g : Graph) : Graph :=
  { g with
    sigs := g.sigs.map fun x => { x with pre := 0, preSt := false }
    nodes := g.nodes.mapIdx fun n x => x.fresh cl gi n
    chans := Vector.replicate 8 none
    instant := 0
    frozen := false }

/-- The signals and nodes of a graph in the cycle in which an instant begins; a terminated node is done with the signals that it may
emit (R302, R313). -/
def Graph.start (g : Graph) (b : BitVec 704) : Graph :=
  let ended := g.nodeMask fun n => n.st == 2
  let clear (i : Nat) (x : Sig) : Sig := { x with val := 0, st := 0, seen := false, first := none, done := ended &&& g.emitters i }
  let node (n : Node) : Node := { n with
    st := if n.st = 2 then 2 else 4
    emitted := 0
    retr := 0
    reason := 0
    index := 0 }
  let g := { g with sigs := g.sigs.mapIdx clear, nodes := g.nodes.map node }
  let g := (List.range (blkF b 19 16)).foldl (fun g i =>
    g.updSig (blkF b (8 * i + 135) (8 * i + 128)) fun x =>
      { x with st := 1, val := wordOf (blkF b (64 * i + 255) (64 * i + 192)), seen := true, first := some none }) g
  (List.range g.sigs.length).foldl (fun g i =>
    if (g.sig i).st = 0 ∧ g.allDone i then g.updSig i fun x => { x with st := 2 } else g) g

/-- The oldest invocation whose reply has arrived. -/
def Graph.oldest (g : Graph) : Option Inv := g.store.find? (·.ok)

/-- Take an invocation out of the store, its tag and output block noted. -/
def Graph.take (g : Graph) (v : Inv) : Graph :=
  { g with store := g.store.filter (·.id != v.id), out := blkF v.blk 111 64, tag := blkF v.blk 13 8, invoker := v.core }

/-- The controller begins an instant, or completes an invocation of a frozen graph (R301, R310). -/
def execInstantBegin (cluster graph : Nat) (s : State) : Host.Outcome State Fault Refusal :=
  .next (
    let g := s.graph cluster graph
    if g.busy || g.fin.isSome || !s.clusterGoes cluster then s
    else match g.oldest with
      | some v =>
        if g.frozen && !v.blk.getLsbD 31 then s.post 0 (.frozenInvocation cluster graph)
        else
          let g := g.take v
          let g := ((if v.blk.getLsbD 31 then g.reset cluster graph else g).start v.blk)
          let s := s.updGraph cluster graph fun _ => { g with busy := true, waits := [] }
          if g.over then s.post 1 (.instantEnd cluster graph)
          else (List.range g.nodes.length).foldl (fun s n =>
            if (g.node n).st = 4 then s.post 6 (.nodeStart cluster graph n) else s) s
      | none => s)

/-- The next invocation of a frozen graph without RST completes with CAUSALITY (R310). -/
def execFrozenInvocation (cluster graph : Nat) (s : State) : Host.Outcome State Fault Refusal :=
  .next (
    let g := s.graph cluster graph
    match g.oldest with
    | some v =>
      if g.frozen && !g.busy && g.fin.isNone && !v.blk.getLsbD 31 then
        let g := g.take v
        (s.updGraph cluster graph fun _ => { g with fin := some (0x46, g.out) }).postFree 0 (.instantEnd cluster graph)
      else s
    | none => s)

/-- Whether a guest may still claim a slot of a core in this cycle: its migration arrives now, or the head of the landing queue has
its turn now (R99). -/
def State.guestDue (s : State) (core : Nat) : Bool :=
  s.agenda.any fun e => decide (e.1 ≤ s.now) && (match e.2 with
    | .landingSlotClaim c => c == core
    | .migrationArrival m => (tget s.migs m).any (·.dst == core)
    | _ => false)

/-- A started node takes the lowest FREE slot, in each cycle after the head of the landing queue (R99, R301). -/
def execNodeStart (cluster graph node : Nat) (s : State) : Host.Outcome State Fault Refusal :=
  .next (
    let g := s.graph cluster graph
    let x := g.node node
    let core := coreIn cluster x.core
    let c := s.core core
    let y := s.cyc (dieOf core)
    if !g.busy || x.st != 4 || (s.cluster cluster).pre.any (·.2) then s
    else if s.guestDue core then s.post 0 (.nodeStart cluster graph node)
    else match c.freeSlot y with
      | some i =>
        let t := { x.ctx with st := .node, light := true, node := some (cluster, graph, node), next := alignUp (y + 1) i }
        ((s.claim core i t).updGraph cluster graph (·.updNode node fun x => { x with st := 5 })).heldReply (core, i)
      | none => s.post 1 (.nodeStart cluster graph node))

/-- The card in whose name the controller of a cluster stores. -/
def State.ctlCard (s : State) (cl : Nat) : QCard := ⟨0, coreIn cl 0, ((s.cluster cl).run).getD 0, 0, false, 0⟩

/-- The stores of n words of the controller of a cluster at an address. -/
def State.ctlHits (s : State) (cl va n : Nat) : List Hit :=
  (List.range n).flatMap fun i => match s.copyStore (s.ctlCard cl) (0, ((va + 8 * i) % 2 ^ 48 : Nat)) .int64 i 0 0 with
    | .ok hs => hs
    | .error _ => []

/-- Before the controller stores n words at an address: the die, off, whose exit it waits for (R364), or the state in which its accesses
take their turns at the home ports (R18). -/
def State.ctlAsk (s : State) (cl va n : Nat) : State × Option Nat :=
  let hs := if va = 0 then [] else s.ctlHits cl va n
  match s.offHit hs with
  | some d => (s, some d)
  | none => (s.enginePort (coreIn cl 0) (s.ctlCard cl).cid 5 .store hs, none)

/-- Store words at an address as INT64 elements, as an engine stores them; the first fault stops (R304). -/
def State.ctlStore (s : State) (cl : Nat) : Nat → List Word → State × Option EFault
  | _, [] => (s, none)
  | va, w :: ws =>
    match s.copyWrite (s.ctlCard cl) (0, (va % 2 ^ 48 : Nat)) .int64 0 w.toNat with
    | .ok s => s.ctlStore cl (va + 8) ws
    | .error f => (s, some f)

/-- The words of the output block (R304). -/
def Graph.outWords (g : Graph) : List Word :=
  g.sigMask (fun i => (g.sig i).preSt) :: g.sigs.map fun x => if x.preSt then x.pre else 0

/-- Latch the delay registers that `DSET` set (R304, R307). -/
def Thread.latch (t : Thread) : Thread :=
  { t with d := Vector.ofFn fun i => if t.dpend.getLsbD i.val then t.dnext.get i else t.d.get i, dpend := 0 }

/-- The graph after its instant: registers latched, signals kept, `%instant` stepped (R304). -/
def Graph.finish (g : Graph) : Graph :=
  let keep (x : Sig) : Sig := { x with pre := if x.st = 1 then x.val else 0, preSt := x.st == 1 }
  { g with
    sigs := g.sigs.map keep
    nodes := g.nodes.map fun n => { n with ctx := n.ctx.latch }
    instant := g.instant + 1
    busy := false }

/-- The end of an instant: latching and the output block, or, with these done, the tag (R304, R220). -/
def execInstantEnd (cluster graph : Nat) (s : State) : Host.Outcome State Fault Refusal :=
  .next (
    let g := s.graph cluster graph
    if !s.clusterWorks cluster then s
    else match g.fin with
    | some (code, addr) =>
      let s := s.updGraph cluster graph fun g => { g with fin := none }
      (s.tagDone g.invoker ((s.cluster cluster).run.getD 0) g.tag 5 false (if code = 0 then none else some (code, addr))).post 0
        (.instantBegin cluster graph)
    | none =>
      if g.busy && g.over then
        match s.ctlAsk cluster g.out g.outWords.length with
        | (s, some d) => s.awaitDie d (.instantEnd cluster graph)
        | (s, none) =>
        let g := g.finish
        let (s, f) := if g.out = 0 then (s, none) else s.ctlStore cluster g.out g.outWords
        (s.updGraph cluster graph fun _ => { g with fin := some (f.getD (0, 0)) }).postFree 0 (.instantEnd cluster graph)
      else s)

/-! ### The causality fault (R310, R311) -/

/-- The causality record of graph gi. -/
def Graph.record (g : Graph) (gi : Nat) : List Word :=
  let unk := g.sigMask fun i => (g.sig i).st == 0
  let unf := g.sigMask fun i => (g.sig i).st == 1 && !g.final i
  let chb := (List.range 8).map fun c => g.nodes.any fun n => n.st == 3 && decide (n.reason ≥ 3) && n.index == c
  let node (n : Node) : Word := if n.st = 3 then wordOf (n.ctx.pc.toNat + n.reason * 2 ^ 48 + n.index * 2 ^ 56) else 0
  [wordOf (0x46 + gi * 2 ^ 8 + g.instant % 2 ^ 48 * 2 ^ 16), g.nodeMask (·.st == 3), unk, unf, wordOf (maskNat chb), 0, 0, 0] ++
    g.nodes.map node

/-- The graph freezes: its nodes are parked as they stand, the record is written, the tag ends in error. -/
def execCausalityFreeze (cluster graph : Nat) (s : State) : Host.Outcome State Fault Refusal :=
  .next (
    if !(s.graph cluster graph).stuck then s
    else match s.ctlAsk cluster (s.graph cluster graph).out (8 + (s.graph cluster graph).nodes.length) with
    | (s, some d) => s.awaitDie d (.causalityFreeze cluster graph)
    | (s, none) =>
      let y := s.cyc (cluster / 16)
      let s := (List.range (s.graph cluster graph).nodes.length).foldl (fun s n =>
        match s.nodeKey cluster graph n with
        | some k => s.parkNode k (s.thr k).pc y id
        | none => s) s
      let g := s.graph cluster graph
      let (s, f) := if g.out = 0 then (s, none) else s.ctlStore cluster g.out (g.record graph)
      (s.updGraph cluster graph fun g =>
        { g with frozen := true, busy := false, waits := [], fin := some (f.getD (0x46, g.out)) }).postFree 0
          (.instantEnd cluster graph))

end Sys2Proof.Machine
end

