-- ==== Sys2Proof/Machine/Work.lean ====
section
/-! DEFINITION. Work lists and Skipper (R291, R292), the tile queue (R293, R294): opcodes 0x0A to 0x0D. -/

namespace Sys2Proof.Machine

/-! ### Work lists (R291): the head of the list is the entry pushed last -/

def execSpawn (gd : Guard) (d : PReg) (a c : GReg) (s : State) : Host.Outcome State Fault Refusal :=
  issue (.spawn gd d a c) gd 24 (fun r s =>
    let x := s.core r.k.1
    if x.wl.length + x.wres ≥ 64 then .writeP d 0 s
    else .writeP d ones64 (s.updCore r.k.1 fun x => { x with wl := (r.t.rg a, r.t.rg c) :: x.wl })) s

def execTake (gd : Guard) (d : PReg) (a : GReg) (s : State) : Host.Outcome State Fault Refusal :=
  issue (.take gd d a) gd 24 (fun r s =>
    match r.t.firstBound [a, nextG a] with
    | some g => .trap .boundWrite (wordOf g.val)
    | none => match (s.core r.k.1).wl with
      | [] => .writeP d 0 s
      | (w0, w1) :: rest =>
        .done { g := [(a, w0), (nextG a, w1)], p := [(d, ones64)] } (s.updCore r.k.1 fun x => { x with wl := rest })) s

/-! ### Skipper (R292) -/

/-- The mesh neighbours of a core on its die, by direction N 0, E 1, S 2, W 3. -/
def neighbours (core : Nat) : List (Nat × Nat) :=
  (if cyOf core > 0 then [(0, core - 16)] else []) ++ (if cxOf core < 15 then [(1, core + 1)] else []) ++
    (if cyOf core < 15 then [(2, core + 16)] else []) ++ (if cxOf core > 0 then [(3, core - 1)] else [])

/-- The neighbours that run the same context. -/
def State.skipNbrs (s : State) (core : Nat) : List (Nat × Nat) :=
  (neighbours core).filter fun p => (s.core p.2).run.isSome && (s.core p.2).run == (s.core core).run

/-- The least-loaded neighbour by the last reports, ties in the order N, E, S, W. -/
def Core.least (c : Core) (ns : List (Nat × Nat)) : Option (Nat × Nat) :=
  ns.foldl (fun b p => match b with
    | some q => if vget c.nbr p.1 0 < vget c.nbr q.1 0 then some p else b
    | none => some p) none

def execSkipperTick (core : Nat) (s : State) : Host.Outcome State Fault Refusal :=
  .next (
    let c := s.core core
    let goes : Bool := match c.run with
      | some cid => (s.ctx (dieOf core) cid).st == .running
      | none => false
    let ns := if goes then s.skipNbrs core else []
    let s := ns.foldl (fun s p => s.post (msgTime core p.2 1) (.skipperOccupancy core p.2 c.wl.length)) s
    match c.least ns with
    | some p =>
      let d := c.wl.length - vget c.nbr p.1 0
      if d ≥ 8 ∧ !c.xfer then
        (s.updCore core fun c => { c with xfer := true }).post (msgTime core p.2 1) (.skipperOffer core p.2 (min 16 (d / 2)))
      else s
    | none => s)

def execSkipperOccupancy (frm dest n : Nat) (s : State) : Host.Outcome State Fault Refusal :=
  .next (match (neighbours dest).find? (·.2 == frm) with
    | some p => s.updCore dest fun c => { c with nbr := vset c.nbr p.1 n }
    | none => s)

/-- Whether two cores run one context, which is neither saved nor restored. -/
def State.together (s : State) (a b : Nat) : Bool :=
  match (s.core a).run with
  | some cid =>
    let st := (s.ctx (dieOf a) cid).st
    (s.core b).run == some cid && (st == .running || st == .preempting)
  | none => false

def execSkipperOffer (frm dest k : Nat) (s : State) : Host.Outcome State Fault Refusal :=
  .next (
    if s.together frm dest then
      let c := s.core dest
      let g := min k (64 - c.wl.length - c.wres)
      (s.updCore dest fun c => { c with wres := c.wres + g }).post (msgTime dest frm 1) (.skipperGrant frm dest g)
    else s)

/-- The sender's oldest entries go as one message; 20 eu per 64 bytes (R292). -/
def execSkipperGrant (frm dest g : Nat) (s : State) : Host.Outcome State Fault Refusal :=
  .next (
    if s.together frm dest then
      let c := s.core frm
      let m := min g c.wl.length
      let keep := c.wl.length - m
      let s := (s.updCore frm fun c => { c with wl := c.wl.take keep }).chargeRun frm (20 * ((16 * m + 63) / 64))
      s.post (msgTime frm dest (flits (16 * m))) (.skipperTransfer frm dest g (c.wl.drop keep))
    else s)

def execSkipperTransfer (frm dest g : Nat) (entries : List (Word × Word)) (s : State) : Host.Outcome State Fault Refusal :=
  .next (
    if s.together frm dest then
      (s.updCore dest fun c => { c with wl := c.wl ++ entries, wres := c.wres - g }).updCore frm
        fun c => { c with xfer := false }
    else s)

/-! ### The tile queue (R293, R294) -/

/-- Rows, columns and tile size of a tile space, packed as `%tileq` (R332). -/
def tileF (q : Word) (i : Nat) : Nat := (q.extractLsb' (16 * i) 16).toNat

def ceilDiv (a b : Nat) : Nat := (a + b - 1) / b

/-- Tile i of the space, packed for the register A; none past the last. -/
def tileAt (q : Word) (i : Nat) : Option Word :=
  let r := tileF q 0
  let c := tileF q 1
  let th := tileF q 2
  let tw := tileF q 3
  let tc := ceilDiv c tw
  if th = 0 ∨ tw = 0 ∨ i ≥ ceilDiv r th * tc then none
  else
    let r0 := i / tc * th
    let c0 := i % tc * tw
    some (wordOf (min tw (c - c0) * 2 ^ 48 + min th (r - r0) * 2 ^ 32 + c0 * 2 ^ 16 + r0))

def execTileq (gd : Guard) (a : GReg) (b : OpB) (s : State) : Host.Outcome State Fault Refusal :=
  issue (.tileq gd a b) gd 4 (fun r s =>
    let x := r.t.rg a
    let y := OpB.zx r.t b
    if x.extractLsb' 32 32 ≠ 0 then .trap .illegalOperand (wordOf (0x100 + a.val))
    else if y.extractLsb' 32 32 ≠ 0 ∨ tileF y 0 = 0 ∨ tileF y 1 = 0 then
      .trap .illegalOperand (wordOf (0x200 + OpB.spec b))
    else
      let q : Word := y.extractLsb' 0 32 ++ x.extractLsb' 0 32
      .done {} (s.updCluster (clusterOf r.k.1) fun c => { c with tileq := q, tnext := 0 })) s

/-- Before: by arrival, core number, slot (R294). -/
def TileReq.before (a b : TileReq) : Bool :=
  a.at' < b.at' || (a.at' == b.at' && (coreNo a.core < coreNo b.core || (coreNo a.core == coreNo b.core && a.slot < b.slot)))

def tileInsert (x : TileReq) : List TileReq → List TileReq
  | [] => [x]
  | y :: l => if x.before y then x :: y :: l else y :: tileInsert x l

/-- A request for a tile reaches the unit of the cluster. -/
def State.tileAsk (s : State) (k : Key) (n : Nat) : State :=
  (s.updCluster (clusterOf k.1) fun c => { c with tiles := tileInsert ⟨s.now, k.1, k.2, n⟩ c.tiles }).post 0 (.tileRequest k.1 k.2 n)

def execFetchtile (gd : Guard) (d : PReg) (a : GReg) (s : State) : Host.Outcome State Fault Refusal :=
  issue (.fetchtile gd d a) gd 24 (fun r s =>
    match r.t.firstBound [a] with
    | some g => .trap .boundWrite (wordOf g.val)
    | none => .wait (.tile d a) 0 ((s.past r.n).tileAsk r.k r.n)) s

/-- Whether the thread of a request still waits for its tile. -/
def State.tileLive (s : State) (x : TileReq) : Bool :=
  match (s.thr (x.core, x.slot)).pend with
  | some ⟨.tile _ _, _, _, n, _⟩ => n == x.serial
  | _ => false

/-- The cluster unit serves one request a cycle, in order of arrival and, of one cycle, in ascending core number, whichever request's
event it is; the reply takes 12 cycles (R294). -/
def execTileRequest (core slot serial : Nat) (s : State) : Host.Outcome State Fault Refusal :=
  .next (
    let cl := clusterOf core
    let c := s.cluster cl
    match c.tiles.filter s.tileLive with
    | [] => s.updCluster cl fun c => { c with tiles := [] }
    | x :: rest =>
      if c.tfree > s.now then s.post (c.tfree - s.now) (.tileRequest core slot serial)
      else
        let t := tileAt c.tileq c.tnext
        let nx := if t.isSome then c.tnext + 1 else c.tnext
        (s.updCluster cl fun c => { c with tfree := s.now + 1, tnext := nx, tiles := rest }).post 12
          (.tileReply x.core x.slot x.serial t))

def execTileReply (core slot serial : Nat) (tile : Option Word) (s : State) : Host.Outcome State Fault Refusal :=
  .next (
    let k : Key := (core, slot)
    match (s.thr k).pend with
    | some ⟨.tile d a, t0, _, n, _⟩ =>
      if n ≠ serial then s
      else
        let l := s.cyc (dieOf core) - t0
        s.resume k false (match tile with
          | some w => .done { g := [(a, w)], p := [(d, 0)], lat := l } s
          | none => .done { p := [(d, ones64)], lat := l } s)
    | _ => s)

end Sys2Proof.Machine
end

