-- ==== Sys2Proof/Machine/Homes.lean ====
section
/-! DEFINITION. What happens away from the issuing core: home ports (R17, R18), the atomic unit (R276), replies, posted
stores (R317), and page walks (R205). -/

namespace Sys2Proof.Machine

/-- What the last answer of an access brings about, by what the thread does with it; `serial` is the access's number. -/
def memFin (serial : Nat) (k : Key) (kind : MemK) (w : MemW) (s : State) : Act :=
  match kind with
  | .store => finStore w s
  | .ld sx ety ds dec => finLd sx ety ds dec w s
  | .vld d ety dec => finVld d ety dec k w s
  | .amo ety d => finAmo ety d w s
  | .cas2 d => finCas2 d w s
  | .scfg d out ety space ndim a => finScfg k d out ety space ndim a w s
  | .ginvoke d a => finGinvoke k serial d a 0 w s
  | .vcopyLoad dest d a c n => finVcopyLoad k serial dest d a c n w s
  | .vcopyStore d a c n => finVcopyStore k d a c n w s
  | .red => w.fin (.done {} s)

/-- The request reaches its thread again as answered. -/
def State.answered (s : State) (id : Nat) (q : Req) : State :=
  let s' := s.deliver id q (memFin q.serial)
  if s.isRlx q then s'.poll (q.core, q.slot) else s'

/-- What a load has of tier 2 or 3 is performed when its answer is made (R317). -/
def State.lateLoad (s : State) (q : Req) : State × Req :=
  let els := q.els.filter fun e => (decide (2 ≤ q.tier) || e.host) && (tget q.vals e.idx).isNone
  if q.op = .load ∧ !els.isEmpty ∧ q.fault.isNone then
    let (s, r) := s.serve { q with els := els } (fun _ => 0)
    (s, { r with els := q.els })
  else (s, q)

/-! ### The order of relaxed accesses (R316)

A relaxed access of the own device takes its times as any other (R16 to R18). It is performed at its home, or, as a free value says,
later: once its answer could be there it is ripe, and is performed at a free time, or at the latest when its thread waits for nothing
but ripe accesses, in any order (notes/assumptions/92, DEDUCED). -/

/-- Perform a relaxed access that its home has not. -/
def State.perform (s : State) (q : Req) : State × Req :=
  match q.op with
  | .bufLoad sp =>
    let c := (s.core q.core).ctx q.cid
    (s, { q with vals := q.els.foldl (fun v e => tput v e.idx ((c.buf sp).read e.loc e.n)) q.vals })
  | .bufStore sp zb =>
    (q.els.foldl (fun s e =>
      let s := s.bufWrite q.core q.cid sp e.loc (elBytes e.n e.data)
      if zb then s.bufZb q.core q.cid e.loc e.n else s) s, q)
  | _ => s.serve q (fun _ => 0)

/-- The ripe accesses of a thread. -/
def State.ripeOf (s : State) (k : Key) : List (Nat × Req) := s.reqs.filter fun p => p.2.core == k.1 && p.2.slot == k.2 && p.2.ripe

/-- Whether a wait for earlier accesses would be over with these performed. -/
def Thread.okWith (t : Thread) (code : Nat) (l : List (Nat × Req)) : Bool :=
  let rest := t.rlx.filter fun x => decide ((l.filter (·.2.serial == x.serial)).length < x.w.left)
  { t with rlx := rest }.retryOk code

/-- Ripe accesses of a thread are performed, in any order, until the wait is over, where they suffice for it. -/
def State.ease (s : State) (k : Key) (code : Nat) : Nat → State
  | 0 => s
  | n + 1 =>
    let l := s.ripeOf k
    if (s.thr k).retryOk code || !(s.thr k).okWith code l then s
    else
      let (x, s) := s.freeNat
      match l[x % l.length]? with
      | some p =>
        let (s, q) := s.perform p.2
        (s.deliver p.1 q (memFin q.serial)).ease k code n
      | none => s

/-- The state from which an instruction is issued that came to wait, in s', only for ripe accesses: they are performed, and it does not
wait. None where it does not wait so. -/
def State.eased (s s' : State) (k : Key) : Option State :=
  match (s'.thr k).pend with
  | some p =>
    (match p.kind with
     | .retry code =>
       let l := s.ripeOf k
       if l.isEmpty || (s.thr k).retryOk code || !(s.thr k).okWith code l then none
       else
         let u := (s.updThr k fun t => { t with pend := some p }).ease k code l.length
         some (u.updThr k fun t => { t with pend := none })
     | _ => none)
  | none => none

/-- A waiting thread's wait is over if ripe accesses suffice for it. -/
def State.easeWait (s : State) (k : Key) : State :=
  match (s.thr k).pend with
  | some p =>
    (match p.kind with
     | .retry code => (s.ease k code (s.ripeOf k).length).poll k
     | _ => s)
  | none => s

/-- Whether an access is one of a typed buffer. -/
def MemOp.isBuf : MemOp → Bool
  | .bufLoad _ | .bufStore .. => true
  | _ => false

/-- An answer arrives (R19); that of a relaxed access which is still to be performed makes it ripe. -/
def State.answer (s : State) (id : Nat) : State :=
  match tget s.reqs id with
  | some q =>
    if q.accepted then s
    else if !q.done && decide (q.tier ≤ 1) && s.isRlx q then
      let (go, s) := if q.ripe then (true, s) else if q.op.isBuf then s.freeBool else (false, s)
      if go then
        let (s, q) := s.perform q
        s.answered id q
      else ({ s with reqs := tput s.reqs id { q with ripe := true } }.postFree 1 (s.answerEv q id)).easeWait (q.core, q.slot)
    else
      let (s, q) := s.lateLoad q
      s.answered id q
  | none => s

def execMemoryReply (req : Nat) (s : State) : Host.Outcome State Fault Refusal := .next (s.answer req)

/-- A `RED` has been performed and acknowledged (R281). -/
def execRedAcknowledgement (req : Nat) (s : State) : Host.Outcome State Fault Refusal := .next (s.answer req)

/-- A relaxed access has been performed (R214). -/
def execRelaxedAccessPerformed (req : Nat) (s : State) : Host.Outcome State Fault Refusal := .next (s.answer req)

/-! ### Home ports (R17, R18) -/

/-- The entries of a home port that have arrived, with their inputs. -/
def Core.arrivals (c : Core) (now : Nat) : List (Nat × Nat) := c.homeQ.filter fun e => decide (e.1 / 8 ≤ now)

/-- The earliest of a list of entries; the first of equals. -/
def earliest : List (Nat × Nat) → Option (Nat × Nat)
  | [] => none
  | e :: l => match earliest l with
    | some f => if f.1 / 8 < e.1 / 8 then some f else some e
    | none => some e

/-- The entry served next: round robin over the inputs, starting after the one served last (R18). -/
def Core.nextHome (c : Core) (now : Nat) : Option (Nat × Nat) :=
  let es := c.arrivals now
  (List.range 6).findSome? fun i => earliest (es.filter fun e => e.1 % 8 == (c.lastIn + 1 + i) % 6)

/-- Whether a relaxed access is put off at its home, as a free value says (R316). -/
def State.putOff (s : State) (r : Req) : Bool × State := if s.isRlx r && !r.els.any (·.host) then s.freeBool else (false, s)

/-- A home serves one request: an access takes effect in this order; an atomic goes to the atomic unit, an arm or disarm to
the monitor table. Elements of the host aperture that came with it go on from there: a load's are read when its answer is made, a
store's are posted (R200, R317). -/
def State.serveHome (s : State) (home id : Nat) (r : Req) : State :=
  match r.op with
  | .arm k => { s with reqs := tdel s.reqs id }.post 0 (.monitorArmRequest r.core r.slot k)
  | .disarm k => { s with reqs := tdel s.reqs id }.post 0 (.monitorDisarmRequest r.core r.slot k)
  | .amo .. | .red .. => s.post 0 (.atomicRequest id)
  | _ =>
    let l := s.sliceWait r
    let (n, s) := if r.tier = 0 then (0, s) else let (n, s) := s.freeNat; (n + 1, s)
    let far := r.els.filter (·.host)
    let d := Nat.max l n + msgTime home r.core (repFlits r.op r.els)
    let (off, s) := s.putOff r
    if off then s.post d (s.answerEv r id)
    else
      let (s, q) := s.serve { r with els := r.els.filter (!·.host), done := true } fun e => if e.dram then n else l
      if far.isEmpty ∨ q.fault.isSome then { s with reqs := tput s.reqs id { q with els := r.els } }.post d (s.answerEv r id)
      else if r.op = .load then { s with reqs := tput s.reqs id { q with els := r.els } }.postFree d (s.answerEv r id)
      else { s with reqs := tput s.reqs id { q with els := far, tier := 3 } }.postFree d (.postedStoreAccepted id)

/-! ### Engines' turns (R18) -/

/-- What a turn stores, in order, until an element fails (R208 step 7): its number, with the fault. -/
def State.turnStore (s : State) (t : Turn) (delay : Elem → Nat) : List Elem → State × Option (Nat × Nat × Nat)
  | [] => (s, none)
  | e :: es =>
    match s.storeBad true t.els e with
    | some c => (s, some (e.idx, c, e.va))
    | none => ((s.serveEl ⟨t.core, 16, 0, 0, t.home, 0, t.op, t.els, [], none, 0, false, false, false⟩ e (delay e)).1).turnStore t delay es

/-- An engine's access has been served: what it read, or the element at which it failed, goes to its owner, which goes on, once the
last is served and its answer is there, with its own event. -/
def State.turnEnd (s : State) (id : Nat) (t : Turn) (got : List Got) (bad : Option (Nat × Nat × Nat)) (lat : Nat) : State :=
  match t.owner with
  | .none => s
  | .copy core =>
    (match (s.core core).copy.job with
     | some j =>
       if !j.turns.contains id then s
       else
         let j := { j with turns := j.turns.filter (· != id), got := j.got ++ got }
         let j := match bad with
           | some (i, f) => { j with fault := some f, want := i, outs := [] }
           | none => j
         let due := Nat.max (s.core core).copy.due (s.now + lat)
         let s := s.updCore core fun c => { c with copy := { c.copy with job := some j, due := due } }
         if j.turns.isEmpty then s.post (due - s.now) (.copyChunk core) else s
     | none => s)
  | .stream core slot reg =>
    let k : Key := (core, slot)
    (match (s.thr k).stream (vhi reg) with
     | some x =>
       if !x.turns.contains id then s
       else
         let x := { x with turns := x.turns.filter (· != id), got := x.got ++ got }
         let x := match bad with
           | some (q, c, va) => { x with held := x.held.map fun e => if e.q = q then { e with fault := some (c, va) } else e }
           | none => x
         let s := s.setStream k (vhi reg) (some x)
         if x.turns.isEmpty then
           s.post lat (if x.out then .streamElementWrite core slot reg else .streamPrefetch core slot reg)
         else s
     | none => s)
  | .coll i card =>
    (match tget s.colls i with
     | some x =>
       if !x.turns.contains id then s
       else
         let x := { x with turns := x.turns.filter (· != id), got := x.got ++ got }
         let x := match bad with
           | some (_, f) => { x with left := x.left.map fun p => if p.1.id = card ∧ p.2.isNone then (p.1, some f) else p }
           | none => x
         let s := { s with colls := tput s.colls i x }
         if x.turns.isEmpty then s.post lat (.collectiveComplete i) else s
     | none => s)
  | .dma => (s.dmaTurn id t got bad).dmaDone

/-- A home serves an engine's access in its turn: it reads for the engine, or writes what the engine sent; for `TOwner.none` it only
holds the port. -/
def State.serveTurn (s : State) (id : Nat) (t : Turn) : State :=
  let s := { s with turns := tdel s.turns id }
  let l := s.sliceWait ⟨t.core, 16, 0, 0, t.home, 0, t.op, t.els, [], none, 0, false, false, false⟩
  let (n, s) := if t.els.any Elem.dram then let (n, s) := s.freeNat; (n + 1, s) else (0, s)
  let lat := Nat.max l n + msgTime t.home t.core (repFlits t.op t.els)
  if t.owner = .none then s
  else if t.op = .load then
    s.turnEnd id t (t.els.map fun e => ⟨e.loc, e.n, s.mem.read e.loc e.n, s.badLine e.loc e.n⟩) none lat
  else
    let (s, bad) := s.turnStore t (fun e => if e.dram then n else l) t.els
    s.turnEnd id t [] bad lat

/-- The home port of a core: one request at a time, each holding the port for its cycles (R17). Where its units sleep, a
request starts their exit and waits for it; left with nothing to do they may sleep again (R364). -/
def execHomeAccess (core : Nat) (s : State) : Host.Outcome State Fault Refusal :=
  .next (
    let c := s.core core
    if (c.arrivals s.now).isEmpty then s
    else if !s.homeUp core then s.wakeHome core
    else if s.now < c.portFree then s.post (c.portFree - s.now) (.homeAccess core)
    else match c.nextHome s.now with
      | some e =>
        let drop := c.homeQ.filter (· != e)
        let take (r : Req) : State := s.setCore core { c with homeQ := drop, lastIn := e.1 % 8, portFree := s.now + holdCycles r }
        match tget s.reqs e.2, tget s.turns e.2 with
        | some r, _ => ((take r).serveHome core e.2 r).restHome core
        | none, some t =>
          ((take ⟨t.core, 16, 0, 0, t.home, 0, t.op, t.els, [], none, 0, false, false, false⟩).serveTurn e.2 t).restHome core
        | none, none => s.setCore core { c with homeQ := drop }
      | none => s)

/-- The atomic unit performs an atomic or a `RED` in one step (R276). -/
def execAtomicRequest (req : Nat) (s : State) : Host.Outcome State Fault Refusal :=
  .next (match tget s.reqs req with
    | some r =>
      match r.op with
      | .amo .. | .red .. =>
        if r.done then s
        else if r.fault.isSome then s.post 0 (s.answerEv r req)
        else
          let (n, s) := if r.tier = 0 then (serviceTime r.op r.els, s) else let (n, s) := s.freeNat; (n + 1, s)
          let (off, s) := if r.tier ≤ 1 then s.putOff r else (false, s)
          let (s, r) := if off then (s, r) else s.serve { r with done := true } (fun _ => n)
          let s := { s with reqs := tput s.reqs req r }
          s.post (n + (if r.tier ≤ 1 then msgTime r.home r.core (repFlits r.op r.els) else 0)) (s.answerEv r req)
      | _ => s
    | none => s)

/-! ### Posted stores (R317) -/

/-- The peer link or the endpoint accepts a posted store: it is performed for its thread (R215). -/
def execPostedStoreAccepted (req : Nat) (s : State) : Host.Outcome State Fault Refusal :=
  .next (match tget s.reqs req with
    | some r =>
      if r.accepted then s
      else if r.fault.isSome then s.answered req r
      else
        let s := s.updThr (r.core, r.slot) fun t =>
          if r.tier = 2 then { t with postD := t.postD ++ [req] } else { t with postH := t.postH ++ [req] }
        let s := s.answered req r
        { s with reqs := tput s.reqs req { r with accepted := true } }.postFree 1 (.postedStoreAck req)
    | none => s)

/-- Whether two lists of elements share a byte. -/
def elsMeet (a b : List Elem) : Bool := a.any fun x => b.any fun y => decide (x.loc < y.loc + y.n) && decide (y.loc < x.loc + x.n)

/-- Forget an acknowledged posted store, wherever its thread now is, and wake the threads that wait for it. -/
def State.clearPost (s : State) (id : Nat) : State :=
  let drop (t : Thread) : Thread := { t with postD := t.postD.filter (· != id), postH := t.postH.filter (· != id) }
  let cs := s.cores.map fun p => (p.1, { p.2 with th := p.2.th.map drop })
  let ms := s.migs.map fun p => (p.1, { p.2 with thr := drop p.2.thr })
  let held := s.cores.flatMap fun p => ((List.range 16).filter fun i =>
    (p.2.thr i).postD.contains id || (p.2.thr i).postH.contains id).map (p.1, ·)
  held.foldl (fun s k => s.poll k) { s with cores := cs, migs := ms }

/-- A posted store is performed at its location, after the context's earlier ones to it and the earlier ones of its job, and
acknowledged. -/
def execPostedStoreAck (req : Nat) (s : State) : Host.Outcome State Fault Refusal :=
  .next (match tget s.reqs req with
    | some r =>
      if !r.accepted then s
      else if s.reqs.any fun p => decide (p.1 < req) && (p.2.op == .store || p.2.op == .merge) && decide (p.2.tier ≥ 2) && p.2.cid == r.cid &&
          (elsMeet p.2.els r.els || (r.slot == 16 && p.2.slot == 16 && p.2.serial == r.serial)) then s.postFree 1 (.postedStoreAck req)
      else
        let s := { s with reqs := tdel s.reqs req }
        ((s.serve r (fun _ => 0)).1).clearPost req
    | none => s)

/-! ### Walks (R201, R205) -/

/-- A page walk ends: a leaf is held by the TLBs; the waiting thread executes its instruction again; the next waiting walk
starts. -/
def execTranslationWalk (die walk : Nat) (s : State) : Host.Outcome State Fault Refusal :=
  .next (
    let ws := (s.die die).walks
    match ws.find? (·.id == walk) with
    | some w =>
      let started := decide ((ws.takeWhile (·.id != walk)).length < 512)
      if !started then s
      else
        let rest := ws.filter (·.id != walk)
        let s := s.updDie die fun d => { d with walks := rest }
        let s := match (rest.drop 511).head? with
          | some n => s.postFree 1 (.translationWalk die n.id)
          | none => s
        let res := s.walkMem die w.cid w.va
        let s := match res with
          | .leaf e => s.tlbFill w.core w.cid w.va e
          | .absent => s
        let k : Key := (w.core, w.slot)
        if (s.core w.core).run == some w.cid && (s.thr k).pend.any (·.kind == .walk) then
          (s.updThr k fun t => { t with walked := tput t.walked (w.va / 2 ^ 16) res }).again k
        else s
    | none => s)

end Sys2Proof.Machine
end

