-- ==== Sys2Proof/Machine/Image.lean ====
section
/-! DEFINITION. The save-area layouts: a core's area (R340), the thread record (R341), the cluster area (R270, R313, R340);
what each writes, and what a restore makes of it (R343). A layout is a list of fields (offset, bytes, value). -/

namespace Sys2Proof.Machine

abbrev Layout := List (Nat × Nat × Nat)

/-- The bytes of a layout. -/
def Layout.image (l : Layout) : Mem := l.foldl (fun m f => m.write f.1 f.2.1 f.2.2) []

/-- A layout moved to an offset. -/
def Layout.at' (l : Layout) (base : Nat) : Layout := l.map fun f => (base + f.1, f.2.1, f.2.2)

/-- Values of n bytes each, one after another. -/
def fieldsN (off n : Nat) (vs : List Nat) : Layout := vs.mapIdx fun i v => (off + n * i, n, v)

/-- 8-byte words, one after another. -/
def words (off : Nat) (vs : List Nat) : Layout := fieldsN off 8 vs

/-- Bits [hi:lo] of a number. -/
def bitsAt (v hi lo : Nat) : Nat := v >>> lo % 2 ^ (hi - lo + 1)

/-! ### Sections of a core's area (R340, R342) -/

/-- The first byte of each row of R340. -/
def sectionStarts : List Nat :=
  [0, 0x40, 0x80, 0x380, 0x780, 0x7C0, 0x800, 0x1000, 0x1800, 0x3800, 0x7800, 0xF800, 0x21D00, 0x32500, 0x92500, 0xB2500, 0xB4500]

/-- The number of the row that holds an offset. -/
def sectionOf (off : Nat) : Nat := (sectionStarts.filter (· ≤ off)).length - 1

/-- The end of what a switch-out writes, and of the whole area. -/
def switchEnd : Nat := 0x32500
def areaEnd : Nat := 0xC4500

/-- A progress word (R342). -/
def progressOf (off sec fault : Nat) : Word := wordOf (off + sec * 2 ^ 32 + fault * 2 ^ 40)

/-- Offset, section and fault of a progress word. -/
def progOff (w : Word) : Nat := bitsAt w.toNat 31 0
def progSec (w : Word) : Nat := bitsAt w.toNat 39 32
def progFault (w : Word) : Nat := bitsAt w.toNat 47 40

/-- Where the thread record of slot t and its streams begin. -/
def threadAt (t : Nat) : Nat := 0xF800 + 4688 * t
def streamAt (t j : Nat) : Nat := 0x21D00 + 4224 * t + 1056 * j

/-- The image of buffer b in an area: W, A, C, and the bitmap of A. -/
def bufAt : Nat → Nat
  | 0 => 0x32500
  | 1 => 0x92500
  | 2 => 0xB4500
  | _ => 0xB2500

/-! ### The thread record (R341) -/

/-- STATE and WAIT of a thread that goes on: an `HCALL` wait is kept; another wait is abandoned and named. -/
def Thread.recWait (t : Thread) : Nat × Nat :=
  match t.pend with
  | some p => if p.kind = .stopped then (1, 0) else (2, PendK.code p.kind)
  | none => if t.waitWas = 0 then (1, 0) else (2, t.waitWas)

/-- STATE and WAIT as a record holds them; slots of guests and nodes are FREE. -/
def Thread.recState (t : Thread) : Nat × Nat :=
  match t.st with
  | .free | .guest | .node | .away => (0, 0)
  | .exited => (3, 0)
  | .ready | .waiting => t.recWait

/-- The general registers of a record: an exit value or the values of a held reply stand in g1 (and g2). -/
def Thread.recG (t : Thread) (i : Nat) : Nat :=
  let r := (vget t.g i 0).toNat
  match t.hreply with
  | some (0, r1, r2) => if i = 1 then r1.toNat else if i = 2 then r2.toNat else r
  | _ => if t.st = .exited ∧ i = 1 then t.exitV.toNat else r

/-- A monitor entry: ARMED is never saved, a switch loses it (R285). -/
def monWord (m : Option Mon) : Nat :=
  match m with
  | some e => e.line / 64 + e.fired.toNat * 2 ^ 43 + (e.lost || e.armed).toNat * 2 ^ 44
  | none => 0

/-- A clause's literal. -/
def litOf (c : Option Clause) : Nat :=
  match c with
  | some ⟨_, _, .lit v, _, _, _, _, _, _⟩ => v.toNat
  | _ => 0

/-- The light-thread context, bytes 0 to 511. -/
def Thread.lightRec (t : Thread) (esat : Bool) (st wait : Nat) : Layout :=
  let int := t.tint.toNat
  let status := st + t.light.toNat * 8 + wait * 2 ^ 8 + t.hold.toNat * 2 ^ 12 + t.intPending.toNat * 2 ^ 13 +
    t.hreply.isSome.toNat * 2 ^ 14 + int % 2 ^ 32 * 2 ^ 32
  let df := match t.dfault with
    | f :: _ => f.1 + 2 ^ 8 + f.2.1 % 2 ^ 48 * 2 ^ 16
    | [] => 0
  words 0 ((List.range 31).map fun i => t.recG (i + 1)) ++
    words 0xF8 ((List.range 7).map fun i => (vget t.p (i + 1) 0).toNat) ++
    words 0x130 ((List.range 8).map fun k => (t.clst k).toNat) ++
    fieldsN 0x170 4 ((List.range 8).map fun k => litOf (t.clause k)) ++
    words 0x190 [t.pc.toNat, status, t.fmode.toNat + t.fflags.toNat * 2 ^ 16, t.forfeit.toNat, df,
      t.arrived.toNat + t.bdone.toNat * 2 ^ 8] ++
    words 0x1C0 (t.mon.toList.map monWord) ++
    words 0x1E0 [t.tcause.toNat, t.tval.toNat, t.tepc.toNat, t.tstat.toNat + esat.toNat * 2 ^ 8]

/-- The bound streams, in register order, each with its register's number less 8. -/
def Thread.bound8 (t : Thread) : List (Nat × Stream) :=
  (List.range 8).filterMap fun i => (vget t.str i none).map (i, ·)

def SSt.code : SSt → Nat
  | .configured => 1 | .armed => 2 | .faulted => 3

/-- Elements that a record holds for a stream: a FAULTED stream's (R180); prefetched beats are discarded. -/
def Stream.recHeld (x : Stream) : List SEl := if x.st = .faulted then x.held else []

/-- A stream summary. -/
def Stream.summary (i : Nat) (x : Stream) : List Nat :=
  [i + 2 ^ 3 + x.st.code * 2 ^ 4 + x.out.toNat * 2 ^ 6 + x.ety.code * 2 ^ 7 + x.space.val * 2 ^ 12 + (x.ndim - 1) * 2 ^ 15 +
    x.recHeld.length * 2 ^ 17, x.pos]

/-- What a heavy thread adds, bytes 512 on. -/
def Thread.heavyRec (t : Thread) : Layout :=
  (t.bound8.mapIdx fun j p => words (0x200 + 16 * j) (p.2.summary p.1)).flatten ++
    fieldsN 0x250 256 (t.v.toList.map (·.toNat))

/-- Descriptor and held elements of the streams, from the first of the thread on. -/
def Thread.streamRec (t : Thread) : Layout :=
  (t.bound8.mapIdx fun j p =>
    let n := p.2.ety.bits / 8
    (1056 * j, 32, p.2.desc.toNat) :: fieldsN (1056 * j + 32) n (p.2.recHeld.map (·.val.toNat))).flatten

/-- The record of a slot; a FREE slot's is its status alone. -/
def Thread.record (t : Thread) (esat : Bool) : Layout :=
  let (st, wait) := t.recState
  if st = 0 then [] else t.lightRec esat st wait ++ (if t.light then [] else t.heavyRec)

/-- The clause of a `CLST` word and a literal. -/
def clauseOf (w lit : Nat) : Option Clause :=
  if w % 2 = 0 then none
  else
    let r (lo : Nat) : GReg := ⟨w / 2 ^ lo % 32, Nat.mod_lt _ (by decide)⟩
    some {
      dst := r 32
      a := r 56
      b := if w.testBit 19 then .lit (BitVec.ofNat 32 lit) else .g (r 48)
      c := r 40
      form := ⟨w / 2 ^ 20 % 4, Nat.mod_lt _ (by decide)⟩
      op1 := (ClOp.ofCode (bitsAt w 31 27)).getD .pass
      op2 := (ClOp.ofCode (bitsAt w 26 22)).getD .pass
      stale := w.testBit 1
      dirty := w.testBit 2 }

/-- A monitor entry of a record: FIRED or LOST, never ARMED. -/
def monOf' (w : Nat) : Option Mon :=
  if w.testBit 43 || w.testBit 44 then some ⟨0, bitsAt w 41 0 * 64, 0, 0, false, w.testBit 43, w.testBit 44⟩ else none

/-- The light-thread context read back over t, which keeps what a record has no place for. -/
def Thread.loadLight (t : Thread) (m : Mem) : Thread :=
  let w (o : Nat) : Nat := m.read o 8
  let status := w 0x198
  let waits := bitsAt status 2 0 = 2 ∧ bitsAt status 11 8 = 1
  let reply : Option (Nat × Word × Word) := if status.testBit 14 then
      (match t.hreply with
       | some (0, _) | none => some (0, wordOf (w 0), wordOf (w 8))
       | x => x)
    else none
  let keep := t.dfault.drop 1
  let df := w 0x1B0
  { t with
    st := if bitsAt status 2 0 = 3 then .exited else if waits then .waiting else .ready
    light := status.testBit 3
    pc := BitVec.ofNat 48 (w 0x190)
    g := Vector.ofFn fun i => if i.val = 0 then 0 else wordOf (w (8 * (i.val - 1)))
    p := Vector.ofFn fun i => if i.val = 0 then 0 else wordOf (w (0xF8 + 8 * (i.val - 1)))
    cl := Vector.ofFn fun i => clauseOf (w (0x130 + 8 * i.val)) (m.read (0x170 + 4 * i.val) 4)
    hold := status.testBit 12
    fmode := BitVec.ofNat 10 (w 0x1A0)
    fflags := BitVec.ofNat 5 (bitsAt (w 0x1A0) 20 16)
    forfeit := wordOf (w 0x1A8)
    dfault := if df.testBit 8 then (df % 2 ^ 8, bitsAt df 63 16, ((unmark t.dfault).head?.map (·.2.2)).getD []) :: keep else keep
    arrived := BitVec.ofNat 8 (w 0x1B8)
    bdone := BitVec.ofNat 8 (w 0x1B8 / 2 ^ 8)
    mon := Vector.ofFn fun i => monOf' (w (0x1C0 + 8 * i.val))
    tcause := BitVec.ofNat 8 (w 0x1E0)
    tval := wordOf (w 0x1E8)
    tepc := BitVec.ofNat 48 (w 0x1F0)
    tstat := BitVec.ofNat 4 (w 0x1F8)
    tint := if status.testBit 13 then wordOf (2 ^ 63 + status / 2 ^ 32) else 0
    exitV := wordOf (w 0)
    pend := if waits then some (t.pend.getD ⟨.hcall, 0, 4, 0, none⟩) else none
    hreply := reply
    waitWas := 0 }

/-- The stream of a summary, its descriptor and its held elements; a FAULTED stream keeps its fault from t. -/
def streamOf (t : Thread) (m sm : Mem) (j : Nat) : Option (Nat × Stream) :=
  let w := m.read (0x200 + 16 * j) 8
  if !w.testBit 3 then none
  else
    let i := bitsAt w 2 0
    let ety := (ETy.ofCode (bitsAt w 11 7)).getD .int8
    let old := vget t.str i none
    let held := ((old.map (·.held)).getD []).take (bitsAt w 27 17)
    let n := ety.bits / 8
    let put (k : Nat) (e : SEl) : SEl := { e with val := BitVec.ofNat 32 (sm.read (1056 * j + 32 + n * k) n) }
    let st := match bitsAt w 5 4 with
      | 1 => SSt.configured
      | 2 => .armed
      | _ => .faulted
    some (i, {
      st := st
      out := w.testBit 6
      ety := ety
      space := ⟨w / 2 ^ 12 % 4, Nat.mod_lt _ (by decide)⟩
      ndim := bitsAt w 16 15 + 1
      desc := BitVec.ofNat 256 (sm.read (1056 * j) 32)
      pos := m.read (0x208 + 16 * j) 8
      held := if st = .faulted then held.mapIdx put else []
      busy := false
      told := (old.map (·.told)).getD false
      turns := []
      got := []
      pick := none })

/-- A thread read back: a FREE slot is as at the start. -/
def Thread.load (t : Thread) (m sm : Mem) : Thread :=
  if bitsAt (m.read 0x198 8) 2 0 = 0 then .empty
  else
    let t := t.loadLight m
    if t.light then t
    else
      let xs := (List.range 4).filterMap (streamOf t m sm)
      { t with
        v := Vector.ofFn fun i => BitVec.ofNat 2048 (m.read (0x250 + 256 * i.val) 256)
        str := Vector.ofFn fun i => (xs.find? (·.1 == i.val)).map (·.2) }

/-- The reserved bits of the light-thread context, as masks of its words. -/
def lightMasks : List (Nat × Nat) :=
  (List.range 8).map (fun k => (0x130 + 8 * k, 0x3FF0)) ++
    [(0x190, 0xFFFF * 2 ^ 48), (0x198, 0xF0 + 0xFFFF8000), (0x1A0, 0xFC00 + (2 ^ 43 - 1) * 2 ^ 21), (0x1B0, 0xFE00),
     (0x1B8, 2 ^ 64 - 2 ^ 16)] ++
    (List.range 4).map (fun k => (0x1C0 + 8 * k, 2 ^ 42 + (2 ^ 19 - 1) * 2 ^ 45)) ++
    [(0x1E0, 2 ^ 64 - 2 ^ 8), (0x1F0, 0xFFFF * 2 ^ 48), (0x1F8, 2 ^ 64 - 2 ^ 9 + 0xF0)]

/-- The reserved bits that a heavy thread adds. -/
def heavyMasks : List (Nat × Nat) :=
  (List.range 4).map (fun j => (0x200 + 16 * j, 2 ^ 64 - 2 ^ 28)) ++ [(0x240, 2 ^ 64 - 1), (0x248, 2 ^ 64 - 1)]

/-- The reserved bits of the header and the engine words. -/
def headMasks : List (Nat × Nat) :=
  let all := 2 ^ 64 - 1
  [(0, 2 ^ 64 - 2 ^ 32), (8, 0xFFFF * 2 ^ 48), (16, 2 ^ 64 - 2 ^ 49), (24, 2 ^ 64 - 2 ^ 48), (32, 2 ^ 64 - 2 ^ 7), (40, all), (48, all), (56, all),
   (0x7C0, 2 ^ 64 - 2 ^ 32 + 2 ^ 7), (0x7C8, 2 ^ 64 - 2 ^ 22 + 0xC0C0), (0x7D0, 2 ^ 64 - 2 ^ 22 + 0xC0C0), (0x7D8, 2 ^ 64 - 2 ^ 34),
   (0x7E8, 2 ^ 64 - 2 ^ 17), (0x7F0, all), (0x7F8, all)]

/-- Whether a reserved bit is nonzero. -/
def reservedBad (m : Mem) (base : Nat) (masks : List (Nat × Nat)) : Bool :=
  masks.any fun f => m.read (base + f.1) 8 &&& f.2 != 0

/-- A record that no save writes: a reserved bit, or a STATE above EXITED (R343). -/
def recordBad (m : Mem) (base : Nat) : Bool :=
  let st := m.read (base + 0x198) 8
  reservedBad m base lightMasks || decide (bitsAt st 2 0 > 3) || (!st.testBit 3 && reservedBad m base heavyMasks)

/-- Whether a core's image is corrupt (R343). -/
def imageBad (m : Mem) : Bool := reservedBad m 0 headMasks || (List.range 16).any fun t => recordBad m (threadAt t)

/-! ### A core's area (R340) -/

/-- The cards of a queue that are not released. -/
def Queue.held (q : Queue) : List QCard := q.cards.filter (!·.released)

/-- The word of a queue whose released cards are passed. -/
def Queue.recWord (q : Queue) : Nat :=
  let n := BitVec.ofNat 6 q.held.length
  (Queue.word { q with cons := q.prod - n }).toNat

/-- The jobs of a core's cards, wherever they run or are parked. -/
def State.jobsOf (s : State) (core : Nat) : List CJob :=
  let cl := clusterOf core
  ((List.range 16).flatMap fun n =>
    let e := (s.core (coreIn cl n)).copy
    e.job.toList ++ e.parkA.toList ++ e.parkB.toList).filter (·.card.core == core)

/-- The region map of a buffer. -/
def regionWords (x : CCtx) (b : Nat) : Layout :=
  let one (r : Region) : Nat := r.banks + r.scratch.toNat * 2 ^ 8 + r.resident.toNat * 2 ^ 9 + r.saved.toNat * 2 ^ 10
  fieldsN (0x780 + 16 * b) 2 ((x.regions.filter (·.buf == b)).map one)

/-- The engine words. -/
def State.engineWords (s : State) (core : Nat) : List Nat :=
  let c := s.core core
  let run := match c.copy.job with
    | some j => (match c.cq.held.findIdx? (·.id == j.card.id) with
      | some i => i + 2 ^ 6 + j.chunk % 2 ^ 24 * 2 ^ 8
      | none => 0)
    | none => 0
  [run, c.cq.recWord, c.mq.recWord,
    c.mat.fa.length + c.mat.fb.length * 2 ^ 16 + c.copy.parkA.isSome.toNat * 2 ^ 32 + c.copy.parkB.isSome.toNat * 2 ^ 33,
    c.mat.caddr % 2 ^ 32 + c.mat.cstride % 2 ^ 32 * 2 ^ 32, c.mat.tm + c.mat.tn * 2 ^ 8 + c.mat.valid.toNat * 2 ^ 16]

/-- The thread that a slot's record shows: an AWAY thread's, wherever it is (R341). -/
def State.recThread (s : State) (core slot : Nat) : Thread :=
  let t := s.thr (core, slot)
  let home (g : Thread) : Thread := { g with st := if g.pend.isSome then .waiting else .ready, tint := if g.intPending then g.tint else t.tint }
  if t.st = .away then
    let k := s.whereIs (core, slot)
    if k = (core, slot) then
      (match s.migs.find? fun p => p.2.thr.origin == (core, slot) with
       | some p => home p.2.thr
       | none => t)
    else home (s.thr k)
  else t

/-- Sections 0x0_0000 to 0x3_24FF of the context that a core runs. -/
def State.coreRec (s : State) (core : Nat) : Layout :=
  let c := s.core core
  let x := (c.ctx c.cid).settled
  let tags := c.tags.toList
  let thr (t : Nat) : Layout := let r := s.recThread core t; (r.record x.esat).at' (threadAt t) ++
    (if r.light || r.recState.1 == 0 then [] else r.streamRec.at' (streamAt t 0))
  words 0 [1 + c.cid % 2 ^ 16 * 2 ^ 16, x.progress.toNat, x.energy.toNat + x.esat.toNat * 2 ^ 48, x.tvec.toNat, c.wl.length] ++
    words 0x40 (c.bar.toList.map (·.word.toNat)) ++
    words 0x80 [c.tagsMask.toNat, c.tagerrMask.toNat] ++ words 0x100 (tags.map (·.status.toNat)) ++
    fieldsN 0x300 2 (tags.map (·.count.toNat)) ++
    words 0x380 (c.wl.reverse.flatMap fun e => [e.1.toNat, e.2.toNat]) ++
    regionWords x 0 ++ regionWords x 1 ++ regionWords x 2 ++ words 0x7C0 (s.engineWords core) ++
    fieldsN 0x800 64 (c.cq.held.map (·.card.toNat)) ++ fieldsN 0x1000 64 (c.mq.held.map (·.card.toNat)) ++
    fieldsN 0x1800 4 ((c.mat.tile.take 2048).map (·.toNat)) ++
    fieldsN 0x3800 1 (c.mat.fa.map (·.toNat)) ++ fieldsN 0x7800 1 (c.mat.fb.map (·.toNat)) ++
    (List.range 16).flatMap thr

/-- The buffer images of a context on a core. -/
def CCtx.bufRec (x : CCtx) : Mem → Mem := fun m =>
  let lay (m : Mem) (p : Nat × Mem) : Mem := p.2.foldl (fun m c => m.set (bufAt p.1 + c.1) c.2) m
  [(0, x.w), (1, x.a), (2, x.c), (3, x.z)].foldl lay m

/-- A core as free for another context: what is its own stays, among it the idle time of its copy engine, which a job that goes with the
context ends (R232). -/
def Core.vacate (c : Core) (now : Nat) : Core :=
  { Core.empty with
    copy := { Core.empty.copy with idle := if c.copy.job.isSome then now else c.copy.idle }
    ctxs := c.ctxs, mons := c.mons, homeQ := c.homeQ, lastIn := c.lastIn, portFree := c.portFree, tlb := c.tlb
    iflush := c.iflush, amoW := c.amoW, idle := c.idle, pwr := c.pwr, skipUntil := c.skipUntil }

/-- The cards of an image's queue, with their numbers and the cycles of their enqueuing from before the switch where they are known. -/
def cardsOf (m : Mem) (base n core cid fresh : Nat) (ids : List (Nat × Nat)) : List QCard :=
  (List.range n).map fun i =>
    let was := if ids.length = n then ids.getD i (0, 0) else (fresh + i, 0)
    ⟨was.1, core, cid, BitVec.ofNat 512 (m.read (base + 64 * i) 64), false, was.2⟩

/-- A queue of an image. -/
def queueOf (w : Nat) (cards : List QCard) : Queue := ⟨cards, BitVec.ofNat 6 w, BitVec.ofNat 6 (w / 2 ^ 8)⟩

/-- Cards counted by a queue word, at most 32. -/
def countOf (w : Nat) : Nat := Nat.min (bitsAt w 21 16) 32

/-- The accumulators of an image. -/
def tileOf (m : Mem) : List (BitVec 32) := (List.range 2048).map fun p => BitVec.ofNat 32 (m.read (0x1800 + 4 * p) 4)

/-- The copy jobs after a restore: the running card's chunk as the image has it, the others' as the die kept them. -/
def jobsBack (m : Mem) (kept : List CJob) (cards : List QCard) : List CJob :=
  let w := m.read 0x7C0 8
  let i := bitsAt w 5 0
  let run := if w.testBit 6 then cards[i]? else none
  let back := kept.filterMap fun j => (cards.find? (·.id == j.card.id)).map fun q => ({ j with card := q } : CJob)
  match run with
  | some q =>
    let j := (back.find? (·.card.id == q.id)).getD { card := q, chunk := 0, fault := none, snap := [], part := 0 }
    { j with chunk := bitsAt w 31 8 } :: back.filter (·.card.id != q.id)
  | none => back

/-- A core restored from the image of its area; `fresh` numbers cards that the die has no number for. -/
def Core.load (c : Core) (cid core fresh : Nat) (m : Mem) : Core :=
  let x := c.ctx cid
  let w (o : Nat) : Nat := m.read o 8
  let cqs := cardsOf m 0x800 (countOf (w 0x7C8)) core cid fresh x.ids.1
  let mqs := cardsOf m 0x1000 (countOf (w 0x7D0)) core cid (fresh + 32) x.ids.2
  let jobs := jobsBack m x.jobs cqs
  let fifoJob (f : Nat) : Option CJob := jobs.find? fun j => fifoOf j.card.card == some f
  let x' := { x with
    owed := []
    energy := BitVec.ofNat 48 (w 16)
    esat := (w 16).testBit 48
    tvec := BitVec.ofNat 48 (w 24)
    jobs := jobs.filter fun j => (fifoOf j.card.card).isNone
    kept := []
    ids := ([], [])
    saved := false }
  let thr (i : Nat) : Thread :=
    let rec' : Mem := (List.range 4688).foldr (fun o l => if m.get (threadAt i + o) = 0 then l else (o, m.get (threadAt i + o)) :: l) []
    let str : Mem := (List.range 4224).foldr (fun o l => if m.get (streamAt i 0 + o) = 0 then l else (o, m.get (streamAt i 0 + o)) :: l) []
    (x.kept.getD i .empty).load rec' str
  let bar (n : Nat) : Bar :=
    let v := w (0x40 + 8 * n)
    ⟨BitVec.ofNat 16 (v / 2 ^ 48), BitVec.ofNat 16 (v / 2 ^ 32), v.testBit 2, BitVec.ofNat 2 v, false, none⟩
  let tag (n : Nat) : Tag :=
    ⟨BitVec.ofNat 16 (m.read (0x300 + 2 * n) 2), (w 0x80).testBit n, (w 0x88).testBit n, wordOf (w (0x100 + 8 * n))⟩
  { c with
    th := Vector.ofFn fun i => thr i.val
    ctxs := tput c.ctxs cid x'
    tags := Vector.ofFn fun i => tag i.val
    cq := queueOf (w 0x7C8) cqs
    mq := queueOf (w 0x7D0) mqs
    copy := { c.copy with job := none, parkA := fifoJob 6, parkB := fifoJob 7 }
    mat := {
      fa := m.bytes 0x3800 (Nat.min (bitsAt (w 0x7D8) 15 0) 16384)
      fb := m.bytes 0x7800 (Nat.min (bitsAt (w 0x7D8) 31 16) 32768)
      run := none
      wrs := []
      tile := tileOf m
      caddr := bitsAt (w 0x7E0) 31 0
      cstride := bitsAt (w 0x7E0) 63 32
      tm := bitsAt (w 0x7E8) 7 0
      tn := bitsAt (w 0x7E8) 15 8
      valid := (w 0x7E8).testBit 16 }
    wl := ((List.range (bitsAt (w 32) 6 0)).map fun i => (wordOf (w (0x380 + 16 * i)), wordOf (w (0x388 + 16 * i)))).reverse
    bar := Vector.ofFn fun i => bar i.val }

/-! ### The cluster area (R270, R313, R340) -/

/-- Offsets within the area at `%mapspill` for a grid cluster. -/
def mapsAt (g : Nat) : Nat := 512 * g
def tileRecAt (g : Nat) : Nat := 8192 + 64 * g
def ellAt (g : Nat) : Nat := 9216 + 2112 * g
def graphAt (g k : Nat) : Nat := 43008 + 390656 * g + 48832 * k

/-- A record of a map store. -/
def MapRec.word (r : MapRec) : Nat :=
  r.st + r.core * 2 ^ 4 + r.child.toNat * 2 ^ 9 + r.nopar.toNat * 2 ^ 10 + r.parent * 2 ^ 11 + r.depth * 2 ^ 16 +
    r.n * 2 ^ 64 + r.m * 2 ^ 80 + r.mapoff * 2 ^ 96

/-- The record read back: STATE 3 or a reserved bit makes it LOST (R270). -/
def mapOf (w : Nat) : MapRec :=
  let bad := w % 4 = 3 ∨ bitsAt w 3 2 ≠ 0 ∨ w.testBit 8 = true ∨ bitsAt w 63 24 ≠ 0
  ⟨if bad then 2 else w % 4, bitsAt w 7 4, w.testBit 10, bitsAt w 15 11, bitsAt w 23 16, w.testBit 9, bitsAt w 79 64,
    bitsAt w 95 80, bitsAt w 127 96⟩

/-- The signal field of R313. -/
def Sig.word (x : Sig) : Nat :=
  let first := match x.first with
    | some (some n) => n * 2 ^ 4
    | some none => 2 ^ 10
    | none => 0
  x.st + x.preSt.toNat * 2 ^ 2 + x.seen.toNat * 2 ^ 3 + first

/-- A node's state as R313 saves it: a node under way, its wait abandoned, is to run again. -/
def Node.recSt (n : Node) : Nat := if n.st = 1 ∨ n.st = 2 then n.st else if n.st = 3 then 3 else 0

/-- The record of graph k; `esat` of a core of the cluster by its number. -/
def Graph.area (g : Graph) (k : Nat) (frozen : Bool) (esat : Nat → Bool) : Layout :=
  let mid := g.busy
  let inv (i : Nat) (v : Inv) : Layout :=
    [(0x8C0 + 96 * i, 88, v.blk.toNat), (0x8C0 + 96 * i + 88, 8, v.core % 2 ^ 11 + (if i = 0 then g.store.length * 2 ^ 16 else 0))]
  let node (i : Nat) (n : Node) : Layout :=
    let t := n.ctx
    let st := if mid || n.st != 3 || !frozen then (if n.st = 3 then 0 else n.recSt) else 3
    let w := t.dpend.toNat + st * 2 ^ 8 + (if st = 3 then n.reason * 2 ^ 16 + n.index * 2 ^ 24 else 0)
    (t.lightRec (esat n.core) t.recWait.1 t.recWait.2 ++ words 512 (t.d.toList.map (·.toNat)) ++ words 576 (t.dnext.toList.map (·.toNat)) ++
      words 640 [w, n.retr.toNat, n.emitted.toNat]).at' (0xEC0 + 704 * i)
  words 0 [k + 2 ^ 3 + mid.toNat * 2 ^ 4 + g.frozen.toNat * 2 ^ 5 + g.busy.toNat * 2 ^ 6 + g.sigs.length * 2 ^ 8 + g.nodes.length * 2 ^ 16,
      g.instant % 2 ^ 64, g.out % 2 ^ 48 + g.tag * 2 ^ 48, g.invoker % 2 ^ 11] ++
    (g.sigs.mapIdx fun i x => words (0x40 + 32 * i) [x.val.toNat, x.pre.toNat, x.done.toNat, x.word]).flatten ++
    (g.chans.toList.mapIdx fun i c => words (0x840 + 16 * i) [(c.getD 0).toNat, c.isSome.toNat]).flatten ++
    (g.store.mapIdx inv).flatten ++ (g.nodes.mapIdx node).flatten

/-- The cards that a cluster's Ellipsis queue holds. -/
def Cluster.ellRec (c : Cluster) : Layout :=
  let cs := c.eq.held
  (0, 8, cs.length) :: fieldsN 32 1 (cs.map fun q => coreNo q.core) ++ fieldsN 64 64 (cs.map (·.card.toNat))

/-- The cluster area of grid cluster g. -/
def Cluster.record (c : Cluster) (g : Nat) (esat : Nat → Bool) : Layout :=
  fieldsN (mapsAt g) 16 ((List.range 32).map fun h => (c.map h).word) ++
    words (tileRecAt g) [c.tileq.toNat, c.tnext] ++ c.ellRec.at' (ellAt g) ++
    c.graphs.flatMap fun p => (p.2.area p.1 p.2.frozen esat).at' (graphAt g p.1)

/-- The 64-byte units of a cluster area that a switch writes: of a slot with no graph, the header alone. -/
def Cluster.units (c : Cluster) (g : Nat) : List Nat :=
  let span (lo n : Nat) : List Nat := (List.range (n / 64)).map fun i => lo + 64 * i
  span (mapsAt g) 512 ++ span (tileRecAt g) 64 ++ span (ellAt g) 2112 ++
    (List.range 8).flatMap fun k => span (graphAt g k) (if (tget c.graphs k).isSome then 48832 else 64)

/-- A signal read back over its description. -/
def Sig.load (x : Sig) (m : Mem) (b : Nat) : Sig :=
  let w (o : Nat) : Nat := m.read (b + o) 8
  let f := w 24
  { x with
    val := wordOf (w 0)
    pre := wordOf (w 8)
    done := wordOf (w 16)
    st := f % 4
    preSt := f.testBit 2
    seen := f.testBit 3
    first := if f.testBit 10 then some none else if f % 4 = 1 ∧ x.op = 5 then some (some (bitsAt f 9 4)) else none }

/-- A node read back over its description; one that is to run in an instant under way is started again (R312). -/
def Node.load (n : Node) (m : Mem) (b : Nat) (mid : Bool) : Node :=
  let at' : Mem := (m.filter fun c => decide (b ≤ c.1) && decide (c.1 < b + 704)).map fun c => (c.1 - b, c.2)
  let w (o : Nat) : Nat := at'.read o 8
  let st := bitsAt (w 640) 9 8
  let t := n.ctx.loadLight at'
  { n with
    st := if mid && st == 0 then 4 else st
    reason := if st = 3 then bitsAt (w 640) 23 16 else 0
    index := if st = 3 then bitsAt (w 640) 29 24 else 0
    retr := wordOf (w 648)
    emitted := wordOf (w 656)
    ctx := { t with
      st := .node
      node := n.ctx.node
      d := Vector.ofFn fun i => wordOf (w (512 + 8 * i.val))
      dnext := Vector.ofFn fun i => wordOf (w (576 + 8 * i.val))
      dpend := BitVec.ofNat 8 (w 640) } }

/-- A stored invocation that the controller would have turned away (R300), or that names another graph. -/
def storedBad (g : Graph) (k : Nat) (b : BitVec 704) : Bool := blkBad (some g) b || blkF b 2 0 != k

/-- Reserved bits of a graph record that are nonzero, or fields that disagree with the description (R313). -/
def graphBad (g : Graph) (k : Nat) (m : Mem) : Bool :=
  let w (o : Nat) : Nat := m.read o 8
  let all := 2 ^ 64 - 1
  let nz (o n : Nat) : Bool := m.any fun c => decide (o ≤ c.1) && decide (c.1 < o + n)
  bitsAt (w 0) 2 0 != k || !(w 0).testBit 3 || bitsAt (w 0) 14 8 != g.sigs.length || bitsAt (w 0) 22 16 != g.nodes.length ||
    reservedBad m 0 [(0, 2 ^ 64 - 2 ^ 23 + 2 ^ 7 + 2 ^ 15), (16, 2 ^ 64 - 2 ^ 54), (24, 2 ^ 64 - 2 ^ 11), (32, all), (40, all), (48, all),
      (56, all)] ||
    (List.range 64).any (fun i => if i < g.sigs.length then w (0x58 + 32 * i) &&& (2 ^ 64 - 2 ^ 11) != 0 || w (0x58 + 32 * i) % 4 == 3 else nz (0x40 + 32 * i) 32) ||
    (List.range 8).any (fun c => w (0x848 + 16 * c) > 1) ||
    (List.range 16).any (fun i => w (0x8C0 + 96 * i) &&& (2 ^ 64 - 2 ^ 32 + 0x70F0C0F8) != 0 || bitsAt (w (0x8C8 + 96 * i)) 63 48 != 0 ||
      w (0x918 + 96 * i) &&& (2 ^ 64 - 2 ^ 21 + 0xF800) != 0 || (i != 0 && bitsAt (w (0x918 + 96 * i)) 20 16 != 0) ||
      (decide (i < bitsAt (w 0x918) 20 16) && storedBad g k (BitVec.ofNat 704 (m.read (0x8C0 + 96 * i) 88)))) ||
    decide (bitsAt (w 0x918) 20 16 > 16) ||
    (List.range 64).any (fun i =>
      let b := 0xEC0 + 704 * i
      if i < g.nodes.length then
        reservedBad m b lightMasks || w (b + 640) &&& (2 ^ 64 - 2 ^ 30 + 0xFC00) != 0 || decide (bitsAt (w (b + 640)) 23 16 > 4) || nz (b + 664) 40
      else nz b 704)

/-- A freshly loaded description with what the die has kept of its nodes beside the record: a reply, the number of a call, and the
destinations of deferred faults. -/
def withKept (fresh kept : Tab Graph) : Tab Graph :=
  fresh.map fun p => match tget kept p.1 with
    | some g => (p.1, { p.2 with nodes := p.2.nodes.mapIdx fun i x =>
        let t := (g.node i).ctx
        { x with ctx := { x.ctx with hreply := t.hreply, pend := t.pend, dfault := t.dfault } } })
    | none => p

/-- A graph read back over its freshly loaded description; a bad record leaves it frozen (R313). Cores are where the context now
has them. -/
def Graph.load (g : Graph) (k die fresh : Nat) (mv : Nat → Nat) (m : Mem) : Graph :=
  let w (o : Nat) : Nat := m.read o 8
  let bad := graphBad g k m
  let mid := (w 0).testBit 4 && !bad
  let n := Nat.min (bitsAt (w 0x918) 20 16) 16
  let inv (i : Nat) : Inv :=
    ⟨fresh + i, BitVec.ofNat 704 (m.read (0x8C0 + 96 * i) 88), mv (die * 256 + bitsAt (w (0x918 + 96 * i)) 7 0), true⟩
  let ch (c : Nat) : Option Word := if (w (0x848 + 16 * c)).testBit 0 then some (wordOf (w (0x840 + 16 * c))) else none
  { g with
    sigs := g.sigs.mapIdx fun i x => x.load m (0x40 + 32 * i)
    nodes := g.nodes.mapIdx fun i x => x.load m (0xEC0 + 704 * i) mid
    chans := Vector.ofFn fun i => ch i.val
    store := (List.range n).map inv
    instant := w 8
    frozen := (w 0).testBit 5 || bad
    busy := mid
    out := bitsAt (w 16) 47 0
    tag := bitsAt (w 16) 53 48
    invoker := mv (die * 256 + bitsAt (w 24) 7 0)
    waits := []
    fin := none }

/-- The Ellipsis queue read back; card numbers and the cycles of their enqueuing as before the switch where the die knows them. -/
def ellBack (m : Mem) (base cl cid fresh : Nat) (known : List QCard) : Queue :=
  let n := Nat.min (bitsAt (m.read base 8) 5 0) 32
  let next (acc : List QCard × List QCard) (i : Nat) : List QCard × List QCard :=
    let card : Card := BitVec.ofNat 512 (m.read (base + 64 + 64 * i) 64)
    let core := coreIn cl (m.read (base + 32 + i) 1 % 16)
    let was := ((acc.2.find? fun q => q.card == card && q.core == core).map fun q => (q.id, q.at')).getD (fresh + i, 0)
    (acc.1 ++ [⟨was.1, core, cid, card, false, was.2⟩], acc.2.filter (·.id != was.1))
  ⟨((List.range n).foldl next ([], known)).1, BitVec.ofNat 6 n, 0⟩

/-- A cluster read back from its area of the image of `%mapspill`. -/
def Cluster.load (c : Cluster) (cl cid g fresh : Nat) (mv : Nat → Nat) (graphs : Tab Graph) (wins : List WinEnt) (eq : List QCard)
    (m : Mem) : Cluster :=
  let part (b n : Nat) : Mem := (m.filter fun x => decide (b ≤ x.1) && decide (x.1 < b + n)).map fun x => (x.1 - b, x.2)
  let q := ellBack m (ellAt g) cl cid fresh eq
  { c with
    maps := (List.range 32).map fun h => mapOf (m.read (mapsAt g + 16 * h) 16)
    tileq := wordOf (m.read (tileRecAt g) 8)
    tnext := m.read (tileRecAt g + 8) 8
    eq := q
    ejob := none
    win := wins
    bunit := Vector.replicate 8 0
    inbox := []
    graphs := graphs.mapIdx fun i p => (p.1, p.2.load p.1 (cl / 16) (fresh + 32 + 16 * i) mv (part (graphAt g p.1) 48832)) }

end Sys2Proof.Machine
end

