-- ==== Sys2Proof/Machine/Regions.lean ====
section
/-! DEFINITION. A context's save area as the context-save engine reads and writes it (R191, R342, R343), the residency of
typed-buffer regions (R186 to R194), and `LAZY_SAVE`. -/

namespace Sys2Proof.Machine

/-! ### Units of a save area -/

/-- A fault of the save engine: code 0x05, 0x06 or 0xF0, the offset of the unit, its address (R342). -/
abbrev SaveFault := Nat × Nat × Nat

/-- Write the 64 bytes at an offset from base for a context, a task-mode store (R204). -/
def State.areaPut (s : State) (core cid base off : Nat) (bs : List Byte) : Except SaveFault State :=
  let va := (base + off) % 2 ^ 48
  match s.transEng core cid va with
  | .absent => .error (0x05, off, va)
  | .leaf e =>
    if permitted (s.partOf (dieOf core) cid).keys .store true e then
      .ok (s.wr (Entry.homeCore e va) (Entry.loc e va) 0 bs)
    else .error (0x06, off, va)

/-- Read the 64 bytes at an offset from base; else the code of the fault (R208, R343). -/
def State.areaGet (s : State) (core cid base off : Nat) : Except Nat (List Byte) :=
  let va := (base + off) % 2 ^ 48
  match s.transEng core cid va with
  | .absent => .error 0x05
  | .leaf e =>
    if permitted (s.partOf (dieOf core) cid).keys .load true e then
      match s.badAt (Entry.loc e va) 64 with
      | none => .ok (s.mem.bytes (Entry.loc e va) 64)
      | some c => .error c
    else .error 0x06

/-- The units of a save area, as accesses, that are mapped. -/
def State.areaHits (s : State) (core cid base : Nat) (offs : List Nat) : List Hit :=
  offs.filterMap fun off =>
    let va := (base + off) % 2 ^ 48
    match s.transEng core cid va with
    | .absent => none
    | .leaf e => some ⟨Entry.homeCore e va, Entry.tier e, ⟨off, va, Entry.loc e va, 64, 0⟩⟩

/-- The die, off, whose exit an access to units of a save area waits for (R364). -/
def State.areaOff (s : State) (core cid base : Nat) (offs : List Nat) : Option Nat := s.offHit (s.areaHits core cid base offs)

/-- The accesses of the context-save engine to units of an area take their turns at the home ports, 4 KiB of the area as one access
(R18; notes/assumptions/97, DESIGN CHOICE). -/
def State.areaPort (s : State) (core cid base : Nat) (op : MemOp) (offs : List Nat) : State :=
  let hs := s.areaHits core cid base offs
  (List.range ((hs.length + 63) / 64)).foldl (fun s i => s.enginePort core cid 5 op ((hs.drop (64 * i)).take 64)) s

/-- Write units of an image in order until one faults or would pass the length of the area (R342). -/
def State.areaSave (s : State) (core cid base len : Nat) (img : Mem) : List Nat → State × Option SaveFault
  | [] => (s, none)
  | off :: offs =>
    if len < off + 64 then (s, some (0xF0, off, (base + off) % 2 ^ 48))
    else match s.areaPut core cid base off (img.bytes off 64) with
      | .ok s => s.areaSave core cid base len img offs
      | .error f => (s, some f)

/-- The bytes of units in rising order as a memory, offsets as addresses; else the code of the first unit that cannot be read. -/
def State.areaLoad (s : State) (core cid base : Nat) : List Nat → Except Nat Mem
  | [] => .ok []
  | off :: offs =>
    match s.areaGet core cid base off, s.areaLoad core cid base offs with
    | .ok bs, .ok m => .ok (((bs.mapIdx fun i b => (off + i, b)).filter fun (c : Host.Cell) => c.2 != Mem.unlisted) ++ m)
    | .error c, _ => .error c
    | .ok _, .error c => .error c

/-- The offsets of the 64-byte units from lo to hi. -/
def unitsFrom (lo hi : Nat) : List Nat := (List.range ((hi - lo) / 64)).map fun i => lo + 64 * i

/-- A save has stopped: the progress word stands in the core's context, in the header if it can be written, and in the context
control; the event tells it (R342, R347). -/
def State.saveStopped (s : State) (core cid sec : Nat) (f : SaveFault) : State :=
  let die := dieOf core
  let w := progressOf f.2.1 sec f.1
  let x := (s.core core).ctx cid
  let s := s.updCore core fun c => c.updCtx cid fun x => { x with progress := w }
  let s := s.updDie die fun d => { d with progress := w }
  let s := match s.areaGet core cid x.savebase.toNat 0 with
    | .ok bs =>
      (match s.areaPut core cid x.savebase.toNat 0 (bs.take 8 ++ leBytes 8 w.toNat ++ bs.drop 16) with
       | .ok s => s
       | .error _ => s)
    | .error _ => s
  s.postEvent {
    type := if f.1 = 0xF0 then 4 else 3
    die := die
    cid := cid
    w1 := wordOf (idxOf core)
    w2 := w
    w3 := wordOf f.2.2
    kill := none }

/-! ### Regions (R186) -/

def bufBanks : Nat → Nat
  | 0 => 192 | 1 => 128 | _ => 64

def bankBytes (b : Nat) : Nat := if b = 0 then 2048 else 1024

/-- Whether a context holds regions on a core (R86, R190). -/
def CCtx.holds (x : CCtx) : Bool := x.regions.any (·.resident)

/-- The physical banks of a buffer that no resident region has, lowest first. -/
def Core.freeBanks (c : Core) (b : Nat) : List Nat :=
  let used := c.ctxs.flatMap fun p => (p.2.regions.filter fun r => r.buf == b && r.resident).flatMap (·.phys)
  (List.range (bufBanks b)).filter (!used.contains ·)

/-- The first byte of region i of a list in its buffer's space (R186). -/
def regionStart (rs : List Region) (i : Nat) : Nat :=
  match rs[i]? with
  | some r => (((rs.take i).filter (·.buf == r.buf)).map (·.banks)).sum * bankBytes r.buf
  | none => 0

/-- The bytes of a memory outside an interval, and inside it. -/
def Mem.without (m : Mem) (lo n : Nat) : Mem := m.filter fun c => decide (c.1 < lo) || decide (lo + n ≤ c.1)

/-- A space's bytes of an interval, at their offsets in the area. -/
def Mem.within (m : Mem) (lo n dest : Nat) : Mem :=
  (m.filter fun c => decide (lo ≤ c.1) && decide (c.1 < lo + n)).map fun c => (c.1 - lo + dest, c.2)

/-- Forget the contents of a region, and of its bitmap bytes. -/
def CCtx.clear (x : CCtx) (b lo n : Nat) : CCtx :=
  let x := x.setBuf (b + 1) ((x.buf (b + 1)).without lo n)
  if b = 1 then { x with z := x.z.without (lo / 16) (n / 16) } else x

/-- The units of a region in the area, bank by bank; an A bank's bitmap bytes follow it (R191). -/
def regionUnits (b lo banks : Nat) : List Nat :=
  (List.range banks).flatMap fun k =>
    let at' := lo + k * bankBytes b
    unitsFrom (bufAt b + at') (bufAt b + at' + bankBytes b) ++ (if b = 1 then [bufAt 3 + at' / 16] else [])

def CCtx.updRegion (x : CCtx) (i : Nat) (f : Region → Region) : CCtx := { x with regions := x.regions.modify i f }

/-- An access of a save or a restore on a core waits out the exit of a die that is off (R364): then what waits for it is tried again. -/
def State.areaAwait (s : State) (core die : Nat) : State :=
  let s := s.awaitDie die (.placement (dieOf core))
  match (s.core core).run with
  | some r => s.awaitDie die (.lazySave core r)
  | none => s

/-- Free the banks of region i of a context that is switched out: saved first, unless it is SCRATCH (R190). The save goes on at
the unit that the progress word names, if it names one of the region's; while it has stopped, or a die with a part of the area is off,
nothing happens (R342, R364). -/
def State.saveRegion (s : State) (core cid i : Nat) : State × Bool :=
  let x := (s.core core).ctx cid
  match x.regions[i]? with
  | none => (s, true)
  | some r =>
    let lo := regionStart x.regions i
    let n := r.banks * bankBytes r.buf
    let out (saved : Bool) (x : CCtx) : CCtx :=
      (x.clear r.buf lo n).updRegion i fun r => { r with resident := false, saved := saved, phys := [] }
    if progFault x.progress ≠ 0 then (s, false)
    else if r.scratch then (s.updCore core fun c => c.updCtx cid (out false), true)
    else
      let us := regionUnits r.buf lo r.banks
      let at' := progOff x.progress
      let us := if us.contains at' then us.dropWhile (· != at') else us
      match s.areaOff core cid x.savebase.toNat us with
      | some d => (s.areaAwait core d, false)
      | none =>
        match s.areaSave core cid x.savebase.toNat x.savelen (x.bufRec []) us with
        | (s, none) =>
          let done (x : CCtx) : CCtx := { x with progress := progressOf switchEnd 13 0 }
          ((s.updCore core fun c => c.updCtx cid fun x => done (out true x)).areaPort core cid x.savebase.toNat .store us, true)
        | (s, some f) => (s.saveStopped core cid (sectionOf f.2.1) f, false)

/-- The region whose save the progress word names, if it is one of a region's. -/
def CCtx.stoppedRegion (x : CCtx) : Option Nat :=
  (List.range x.regions.length).find? fun i => match x.regions[i]? with
    | some r => r.resident && (regionUnits r.buf (regionStart x.regions i) r.banks).contains (progOff x.progress)
    | none => false

/-- The last resident region of a buffer (any buffer for none). -/
def CCtx.lastRegion (x : CCtx) (b : Option Nat) : Option Nat :=
  ((List.range x.regions.length).filter fun i => match x.regions[i]? with
    | some r => r.resident && (b.isNone || b == some r.buf)
    | none => false).getLast?

/-- Save every region of a context on a core, up to a count of regions. -/
def State.saveAll (s : State) (core cid : Nat) : Nat → State × Bool
  | 0 => (s, true)
  | n + 1 =>
    match ((s.core core).ctx cid).lastRegion none with
    | none => (s, true)
    | some i =>
      match s.saveRegion core cid i with
      | (s, true) => s.saveAll core cid n
      | r => r

/-- The victim for a buffer (R190): of the contexts other than cid with a region there (any region for none), the one whose last
run ended earliest, then the lowest. -/
def Core.victim (c : Core) (cid : Nat) (b : Option Nat) : Option Nat :=
  let cs := c.ctxs.filter fun p => p.1 != cid && some p.1 != c.run && (p.2.lastRegion b).isSome
  (cs.foldl (fun (v : Option (Nat × CCtx)) p => match v with
    | some q => if p.2.lastRun < q.2.lastRun then some p else v
    | none => some p) none).map (·.1)

/-- Make free banks of a buffer suffice, saving victims' regions one at a time. -/
def State.makeRoom (s : State) (core cid b banks : Nat) : Nat → State × Bool
  | 0 => (s, false)
  | n + 1 =>
    if banks ≤ ((s.core core).freeBanks b).length then (s, true)
    else match (s.core core).victim cid (some b) with
      | some v =>
        (match (((s.core core).ctx v).lastRegion (some b)).map (s.saveRegion core v ·) with
         | some (s, true) => s.makeRoom core cid b banks n
         | some r => r
         | none => (s, false))
      | none => (s, false)

/-- What making a region resident comes to: done, waiting for a save that has stopped, or corrupt. -/
inductive Resid
  | done | stopped | corrupt
  deriving DecidableEq, Repr

/-- The units of a saved region, its bitmap's among them. -/
def savedUnits (b base lo n : Nat) : List Nat := unitsFrom base (base + n) ++ if b = 1 then unitsFrom (bufAt 3 + lo / 16) (bufAt 3 + lo / 16 + n / 16) else []

/-- Make region i resident: free banks, then its saved contents read back; a SCRATCH or a new region is zero (R187, R192). -/
def State.residentOne (s : State) (core cid i : Nat) : State × Resid :=
  let x := (s.core core).ctx cid
  match x.regions[i]? with
  | none => (s, .done)
  | some r =>
    if r.resident then (s, .done)
    else match s.makeRoom core cid r.buf r.banks 128 with
      | (s, false) => (s, .stopped)
      | (s, true) =>
        let phys := ((s.core core).freeBanks r.buf).take r.banks
        let lo := regionStart x.regions i
        let n := r.banks * bankBytes r.buf
        let take (f : CCtx → CCtx) : State :=
          s.updCore core fun c => c.updCtx cid fun x => (f (x.clear r.buf lo n)).updRegion i fun r =>
            { r with resident := true, saved := false, phys := phys }
        if !r.saved then (take id, .done)
        else
          let base := bufAt r.buf + lo
          let us := savedUnits r.buf base lo n
          let load (lo n : Nat) : Except Nat Mem := s.areaLoad core cid x.savebase.toNat (unitsFrom lo (lo + n))
          match s.areaOff core cid x.savebase.toNat us with
          | some d => (s.areaAwait core d, .stopped)
          | none =>
          match load base n, (if r.buf = 1 then load (bufAt 3 + lo / 16) (n / 16) else .ok []) with
          | .ok m, .ok z =>
            let put (x : CCtx) : CCtx :=
              let x := x.setBuf (r.buf + 1) ((m.within base n lo).foldl (fun b c => b.set c.1 c.2) (x.buf (r.buf + 1)))
              { x with z := (z.within (bufAt 3 + lo / 16) (n / 16) (lo / 16)).foldl (fun b c => b.set c.1 c.2) x.z }
            ((take put).areaPort core cid x.savebase.toNat .load us, .done)
          | .error c, _ => (s.hurt (dieOf core) cid (some c), .corrupt)
          | .ok _, .error c => (s.hurt (dieOf core) cid (some c), .corrupt)

/-- Make the regions from i on resident, in the order of the list. -/
def State.residentAll (s : State) (core cid : Nat) : Nat → Nat → State × Resid
  | _, 0 => (s, .done)
  | i, n + 1 =>
    match s.residentOne core cid i with
    | (s, .done) => s.residentAll core cid (i + 1) n
    | r => r

/-- Whether every region of a context on a core is resident. -/
def CCtx.ready (x : CCtx) : Bool := x.regions.all (·.resident)

/-- Whether a save of the context has stopped on one of its cores (R342). -/
def State.stoppedSave (s : State) (die cid : Nat) : Bool :=
  (s.cores.any fun p => dieOf p.1 == die && (tget p.2.ctxs cid).any fun x => progFault x.progress != 0)

end Sys2Proof.Machine
end

