-- ==== Sys2Proof/Machine/Kills.lean ====
section
/-! DEFINITION. The end of launches (R85, R88), kills (R344), and interrupts (R335, R357). -/

namespace Sys2Proof.Machine

/-! ### Launches that end (R85, R88) -/

/-- Bits [hi:lo] of a launch descriptor. -/
def descF (d : BitVec 1024) (hi lo : Nat) : Nat := bitsAt d.toNat hi lo

/-- The prerequisites a descriptor names (R355). -/
def descPre (d : BitVec 1024) : List Nat := (List.range (descF d 43 41)).map fun i => descF d (32 * i + 223) (32 * i + 192)

/-- A launch of an application by its id. -/
def State.launchOf (s : State) (app id : Nat) : Option Launch := (s.launches.find? fun p => p.2.app == app && p.2.id == id).map (·.2)

def State.updLaunch (s : State) (l : Nat) (f : Launch → Launch) : State :=
  match tget s.launches l with
  | some x => { s with launches := tput s.launches l (f x) }
  | none => s

/-- The event of a launch that has ended (R347). -/
def endEvent (x : Launch) (cid status : Nat) (exit : Word) (energy : Nat) : Event :=
  { type := 1, die := x.die, cid := cid, w1 := wordOf x.id, w2 := exit, w3 := wordOf (status + energy % 2 ^ 48 * 2 ^ 16), kill := none }

/-- Answer the `wait` calls for a launch (R353). -/
def State.answerWaits (s : State) (x : Launch) (status : Nat) (exit : Word) : State :=
  let mine (w : WaitCall) : Bool := w.app == x.app && w.launch == x.id
  { s with
    waits := s.waits.filter (!mine ·)
    replies := s.replies ++ (s.waits.filter mine).map fun w => .sys w.app 4 0 [wordOf status, exit] }

/-- Place what can be placed, on every die (R86: a launch has completed). -/
def State.placeAll (s : State) : State := s.dies.foldl (fun s p => s.post 0 (.placement p.1)) s

/-- Whether a prerequisite of a queued launch has failed. -/
def State.preFailed (s : State) (x : Launch) : Bool :=
  (descPre x.desc).any fun id => match s.launchOf x.app id with
    | some p => p.st == .ended 1 || p.st == .ended 2
    | none => false

/-- Take a launch out of its die's queue. -/
def State.dequeue (s : State) (l : Nat) (die : Nat) : State :=
  let queue (d : Die) := d.queue.map fun (q : List QLaunch) => q.filter (·.launch != l)
  s.updDie die fun d => { d with queue := queue d }

/-- Remove queued launches with a failed prerequisite, down every chain (R85). -/
def State.failDeps (s : State) : Nat → State
  | 0 => s
  | n + 1 =>
    match s.launches.find? fun p => p.2.st == .queued && s.preFailed p.2 with
    | some (l, x) =>
      let s := (s.dequeue l x.die).updLaunch l fun x => { x with st := .ended 2 }
      ((s.answerWaits x 2 0).postEvent (endEvent x 0 2 0 0)).failDeps n
    | none => s

/-- A launch ends with a status; its event is posted, its dependants move on. -/
def State.endLaunch (s : State) (l cid status : Nat) (exit : Word) (energy : Nat) : State :=
  match tget s.launches l with
  | some x =>
    let s := s.updLaunch l fun x => { x with st := .ended status, exit := exit }
    let s := (s.answerWaits x status exit).postEvent (endEvent x cid status exit energy)
    (s.failDeps s.launches.length).placeAll
  | none => s

/-- A launch still queued ends with status 1; one that has ended meanwhile, its prerequisite failed, has ended (R85). -/
def State.endQueued (s : State) (l : Nat) : State :=
  match tget s.launches l with
  | some x => if x.st = .queued then (s.dequeue l x.die).endLaunch l 0 1 0 0 else s
  | none => s

/-- The walks of a die without those of a context that ends; walks that had waited for it begin (R205). -/
def State.dropWalks (s : State) (die cid : Nat) : State :=
  let ws := (s.die die).walks
  let rest := ws.filter (·.cid != cid)
  let begun := (ws.take 512).map (·.id)
  ((rest.take 512).filter fun w => !begun.contains w.id).foldl (fun s w => s.postFree 1 (.translationWalk die w.id))
    (s.updDie die fun d => { d with walks := rest })

/-- Forget a context on its die: its entries in every TLB (R205), its walks, its banks, and its clusters. -/
def State.dropCtx (s : State) (die cid : Nat) : State :=
  let on (k : Nat) : Bool := k / 256 == die
  let core (c : Core) : Core :=
    let c := if c.run = some cid then c.vacate s.now else c
    { c with
      ctxs := tdel c.ctxs cid
      tlb := c.tlb.filter (·.cid != cid) }
  let cluster (c : Cluster) : Cluster :=
    let c := if c.run = some cid then { Cluster.empty with tlb := c.tlb, pwr := c.pwr } else c
    { c with tlb := c.tlb.filter (·.cid != cid) }
  let mine := (s.ctx die cid).cores
  let cs := s.cores.map fun p => (p.1, if on p.1 then core p.2 else p.2)
  let cls := s.clusters.map fun p => (p.1, if p.1 / 16 == die then cluster p.2 else p.2)
  let wires (d : Die) := d.wires.map fun (w : List Nat) => w.filter (!mine.contains ·)
  ({ s with cores := cs, clusters := cls }.updDie die fun d => { d with ctxs := tdel d.ctxs cid, wires := wires d }).dropWalks die cid

/-- Cards of the context that a core has posted and that are not complete (R88). -/
def State.openCards (s : State) (die cid : Nat) : Nat :=
  let cs := (s.ctx die cid).cores
  let mine (q : Queue) : Nat := (q.held.filter fun x => x.cid == cid && cs.contains x.core).length
  (cs.map fun k => mine (s.core k).cq + mine (s.core k).mq).sum +
    ((s.ctx die cid).grid.map fun cl => mine (s.cluster cl).eq).sum + mine (s.die die).colq

/-- `LAUNCH_COMPLETE` (R88): every core's thread 0 has exited and every card has completed; with a card open the launch drains. -/
def execLaunchComplete (launch : Nat) (s : State) : Host.Outcome State Fault Refusal :=
  .next (match tget s.launches launch with
    | some x =>
      let c := s.ctx x.die x.cid
      let held := (tget (s.die x.die).ctxs x.cid).any fun c => c.launch == launch
      if x.st != .running || !held then s
      else if !c.cores.all fun k => (s.thr (k, 0)).st == .exited then s
      else if c.st != .running || c.killed.isSome then s
      else
        let n := s.openCards x.die x.cid
        if n ≠ 0 then
          let s := if x.draining then s else s.postEvent {
            type := 9, die := x.die, cid := x.cid, w1 := wordOf x.id, w2 := wordOf n, w3 := 0, kill := none }
          s.updLaunch launch fun x => { x with draining := true }
        else
          let exit := match c.grid with
            | cl :: _ => (s.thr (coreIn cl 0, 0)).exitV
            | [] => 0
          let energy := (c.cores.map fun k => ((s.core k).ctx x.cid).settled.energy.toNat).sum
          (s.dropCtx x.die x.cid).endLaunch launch x.cid 0 exit energy
    | none => s)

/-! ### Kills (R344) -/

/-- Start the kill of a context: the message floods the mesh of its die from the router of core 0. What runs goes on until the
message reaches its core; a save, a switched-out context and a restore stop at once. -/
def State.startKill (s : State) (die cid reason : Nat) : State :=
  match tget (s.die die).ctxs cid with
  | none => s
  | some x =>
    if x.killed.isSome then s
    else
      let st := if x.st = .running ∨ x.st = .preempting then x.st else .killed
      let s := s.updCtx die cid fun x => { x with st := st, killed := some reason, windows := 256 }
      (List.range 256).foldl (fun s i =>
        s.post (msgTime (die * 256) (die * 256 + i) 1) (.killMessageArrival (die * 256 + i) cid)) s

def execKill (die cid : Nat) (s : State) : Host.Outcome State Fault Refusal :=
  .next (
    if (tget (s.die die).ctxs cid).isSome then s.startKill die cid 1
    else { s.updDie die fun d => { d with done := true, err := false } with replies := s.replies ++ [.ctl die 4 false 0] })

def execUnhandledTrapKill (die cid reason : Nat) (s : State) : Host.Outcome State Fault Refusal :=
  .next (s.startKill die cid reason)

/-- Discard the cards that a core posted for a context, wherever they stand. -/
def State.dropCards (s : State) (core cid : Nat) : State :=
  let own (q : QCard) : Bool := q.core == core && q.cid == cid
  let q (x : Queue) : Queue := ({ x with cards := x.cards.map fun c => if own c then { c with released := true } else c }).trim
  let job (j : Option CJob) : Option CJob := match j with
    | some j => if own j.card then none else some j
    | none => none
  let cl := clusterOf core
  let s := s.updCluster cl fun c => { c with
    eq := q c.eq
    ejob := match c.ejob with
      | some j => if own j.card then none else some j
      | none => none
    win := (c.win.filter fun w => !own w.card) }
  let s := (List.range 16).foldl (fun s n =>
    let k := coreIn cl n
    let e := (s.core k).copy
    let s := s.updCore k fun c => { c with copy := { e with parkA := job e.parkA, parkB := job e.parkB } }
    if e.job.isSome && (job e.job).isNone then s.copyFree k else s) s
  let s := s.updDie (dieOf core) fun d => { d with colq := q d.colq }
  { s with colls := s.colls.filter fun p => !p.2.cards.any own }

/-- The kill message reaches a core (R344): threads, arms, monitors, cards, work list and FIFOs go, requests under way are
performed or discarded; the router's window of 2,048 cycles begins. A context that waits there for the killed one's banks goes on
(R191). -/
def execKillMessageArrival (core cid : Nat) (s : State) : Host.Outcome State Fault Refusal :=
  .next (
    let die := dieOf core
    let x := s.ctx die cid
    if x.killed.isNone then s
    else
      let s := s.post 2048 (.killWindowEnd core cid)
      let c := s.core core
      let energy := ((tget c.ctxs cid).map fun y => y.settled.energy.toNat).getD 0
      let first := match x.grid with
        | cl :: _ => coreIn cl 0 == core
        | [] => false
      let ended (t : Thread) : Option Word := if t.st = .exited then some t.exitV else none
      let exit := (if c.run = some cid then ended (c.thr 0) else none).orElse fun _ => ((tget c.ctxs cid).bind (·.kept.head?)).bind ended
      let s := s.updCtx die cid fun y =>
        { y with esum := y.esum + energy, exitK := if first then exit.getD y.exitK else y.exitK }
      let s := if c.run = some cid then (List.range 16).foldl (fun s t => s.dropMons (core, t)) s else s
      let s := s.dropCards core cid
      let s := s.updCore core fun c => { (if c.run = some cid then c.vacate s.now else c) with ctxs := tdel c.ctxs cid }
      let s := if coreNo core = 0 then s.updCluster (clusterOf core) fun c =>
          if c.run = some cid then { c with graphs := [], inbox := [], maps := [], bunit := Vector.replicate 8 0 } else c
        else s
      let s := match c.run with
        | some r => if r ≠ cid ∧ !(c.ctx r).ready then s.post 1 (.lazySave core r) else s
        | none => s
      let mine := (s.reqs.filter fun p => p.2.core == core && p.2.cid == cid && !p.2.accepted).map (·.1)
      let turns := (s.turns.filter fun p => p.2.core == core && p.2.cid == cid).map (·.1)
      let s := mine.foldl (fun s id =>
        let (b, s) := s.freeBool
        if b then { s with reqs := tdel s.reqs id } else s) s
      turns.foldl (fun s id =>
        let (b, s) := s.freeBool
        if b then { s with turns := tdel s.turns id } else s) s)

/-- A router's window ends: the core reports (R344 step 4). -/
def execKillWindowEnd (core cid : Nat) (s : State) : Host.Outcome State Fault Refusal :=
  .next (
    let die := dieOf core
    let x := s.ctx die cid
    if x.killed.isNone ∨ x.windows = 0 then s
    else
      let s := s.updCtx die cid fun y => { y with windows := y.windows - 1 }
      if x.windows = 1 then s.postFree 1 (.killDone die cid) else s)

/-- Every confirmation has passed: KILL_DONE, then the launch's LAUNCH_COMPLETE with status 1 (R344, R348). -/
def execKillDone (die cid : Nat) (s : State) : Host.Outcome State Fault Refusal :=
  .next (
    let x := s.ctx die cid
    if x.killed.isNone ∨ x.windows ≠ 0 then s
    else
      let s := { s with reqs := s.reqs.filter fun p => !(dieOf p.2.core == die && p.2.cid == cid && !p.2.accepted) }
      let s := { s with turns := s.turns.filter fun p => !(dieOf p.2.core == die && p.2.cid == cid) }
      let s := { s with migs := s.migs.filter fun p => !(dieOf p.2.src == die && p.2.cid == cid) }
      let s := (s.dropCtx die cid).postEvent {
        type := 6, die := die, cid := cid, w1 := wordOf (x.killed.getD 1), w2 := 0, w3 := 0, kill := none }
      s.endLaunch x.launch cid 1 x.exitK x.esum)

/-! ### Interrupts (R335, R357) -/

/-- Set `%tint` of a thread pending with a word; a wait that an interrupt ends, ends. -/
def State.setInt (s : State) (k : Key) (word : BitVec 32) : State :=
  let s := s.updThr k fun t => { t with tint := wordOf (2 ^ 63 + word.toNat) }
  match (s.thr k).pend with
  | some p => s.post 0 (.waitTimeout k.1 k.2 p.serial)
  | none => s

/-- DONE of a command, with ERR and a value (R357). -/
def State.ctlDone (s : State) (die code : Nat) (err : Bool) (v : Word) : State :=
  { s.updDie die fun d => { d with done := true, err := err } with replies := s.replies ++ [.ctl die code err v] }

/-- The INTERRUPT command: by origin core and thread; an AWAY thread is interrupted where it runs, or, in flight, in its origin
slot, whose pending interrupt it takes with it when it lands; an interrupt of a context that is not running is held. -/
def execInterrupt (die cid core thread : Nat) (word : BitVec 32) (s : State) : Host.Outcome State Fault Refusal :=
  .next (match tget (s.die die).ctxs cid with
    | none => s.ctlDone die 2 false 0
    | some x =>
      let c := s.core core
      let hold (s : State) : State :=
        s.updCore core fun c => c.updCtx cid fun y => { y with held := y.held ++ [(thread, word)] }
      if thread ≥ 16 ∨ !x.cores.contains core ∨ x.st = .killed then s.ctlDone die 2 true 0
      else if c.run = some cid ∧ (x.st = .running ∨ x.st = .preempting) then
        let t := c.thr thread
        match t.st with
        | .ready | .waiting => (s.setInt (core, thread) word).ctlDone die 2 false 0
        | .away => (s.setInt (s.whereIs (core, thread)) word).ctlDone die 2 false 0
        | _ => s.ctlDone die 2 true 0
      else
        let here : Bool := c.run == some cid && !(x.st == .restoring && (c.ctx cid).saved)
        let t := if here then s.recThread core thread else (c.ctx cid).kept.getD thread .empty
        match t.st with
        | .ready | .waiting => (hold s).ctlDone die 2 false 0
        | _ => s.ctlDone die 2 true 0)

end Sys2Proof.Machine
end

