-- ==== Sys2Proof/Machine/Placement.lean ====
section
/-! DEFINITION. Placement of launches (R84 to R86, R194), resumption of switched-out contexts (R10, R190 to R193), start
messages (R87) and `LAZY_SAVE` (R190). -/

namespace Sys2Proof.Machine

/-! ### What a descriptor asks (R185, R355) -/

/-- Bank counts of a buffer's regions. -/
def descBanks (d : BitVec 1024) (b : Nat) : List Nat :=
  (List.range (descF d (643 + 4 * b) (640 + 4 * b))).map fun k => descF d (455 + 64 * b + 8 * k) (448 + 64 * b + 8 * k)

/-- The regions of a launch, none resident. -/
def descRegions (d : BitVec 1024) : List Region :=
  (List.range 3).flatMap fun b => (descBanks d b).mapIdx fun k n =>
    ⟨b, n, d.getLsbD (652 + 8 * b + k), false, false, []⟩

def descGrid (d : BitVec 1024) : Nat := descF d 38 34
def descNoevict (d : BitVec 1024) : Bool := d.getLsbD 39

/-! ### Clusters that qualify (R86 step 5) -/

/-- Contexts other than cid that hold regions on a core. -/
def Core.holders (c : Core) (cid : Nat) : Nat := (c.ctxs.filter fun p => p.1 != cid && p.2.holds).length

/-- Whether no context runs on a cluster. -/
def State.clusterFree (s : State) (cl : Nat) : Bool :=
  (s.cluster cl).run.isNone && ((List.range 16).all fun n => (s.core (coreIn cl n)).run.isNone)

/-- Whether the free banks of a core meet a request. -/
def Core.fits (c : Core) (rs : List Region) : Bool :=
  (List.range 3).all fun b => decide ((((rs.filter fun r => r.buf == b && !r.resident).map (·.banks)).sum) ≤ (c.freeBanks b).length)

/-- Whether a cluster qualifies for a context with a request. -/
def State.qualifies (s : State) (cl cid : Nat) (rs : List Region) (noevict : Bool) : Bool :=
  s.clusterFree cl && (List.range 16).all fun n =>
    let c := s.core (coreIn cl n)
    decide (c.holders cid ≤ 3) && (!noevict || c.fits rs)

def dieClusters (die : Nat) : List Nat := (List.range 16).map (die * 16 + ·)

/-- Make room under the limit of three on a cluster: every region of the earliest victim is saved (R190). -/
def State.evict (s : State) (cl cid : Nat) : State :=
  (List.range 16).foldl (fun s n =>
    let k := coreIn cl n
    let c := s.core k
    if c.holders cid ≤ 3 then s
    else match c.victim cid none with
      | some v => (s.saveAll k v 24).1
      | none => s) s

/-- Qualifying clusters for n of them: where only the limit keeps placement from it, victims are saved first, on every free cluster at
the limit (notes/assumptions/100, DESIGN CHOICE: R190 does not say on which clusters). -/
def State.roomFor (s : State) (die n cid : Nat) (rs : List Region) (noevict : Bool) : State × List Nat :=
  let ok (s : State) : List Nat := (dieClusters die).filter fun cl => s.qualifies cl cid rs noevict
  if n ≤ (ok s).length then (s, ok s)
  else
    let could := (dieClusters die).filter fun cl => s.clusterFree cl && (!noevict || (List.range 16).all fun i => (s.core (coreIn cl i)).fits rs)
    if n ≤ could.length then
      let s := could.foldl (fun s cl => s.evict cl cid) s
      (s, ok s)
    else (s, ok s)

/-- Which n of the qualifying clusters are granted, in which order, is not defined (R10, R86). -/
def State.choose (s : State) : Nat → List Nat → State × List Nat
  | 0, _ => (s, [])
  | n + 1, cs =>
    let (x, s) := s.freeNat
    match cs[x % cs.length]? with
    | some c =>
      let (s, r) := s.choose n (cs.filter (· != c))
      (s, c :: r)
    | none => (s, [])

/-! ### Granting a launch -/

/-- The first `%cid` from 1 that the die does not hold. -/
def Die.freshCid (d : Die) : Nat :=
  ((List.range (d.ctxs.length + 1)).map (· + 1)).find? (fun c => (tget d.ctxs c).isNone) |>.getD 1

/-- The graphs of an image's `.graph` section in their slots (R295, R296), as after load. -/
def loadGraphs : Nat → List Byte → Tab Graph
  | 0, _ => []
  | n + 1, bs =>
    if bs.length < 16 then []
    else
      let h := leNat (bs.take 16)
      let gid := bitsAt h 2 0
      let ns := bitsAt h 14 8
      let nn := bitsAt h 22 16
      let bs := bs.drop 16
      let sig (i : Nat) : Sig := { Sig.empty with op := leNat ((bs.drop (8 * i)).take 8) % 8 }
      let node (i : Nat) : Node :=
        let v := leNat ((bs.drop (8 * ns + 24 * i)).take 24)
        { Node.empty with core := bitsAt v 3 0, entry := bitsAt v 111 64, emask := wordOf (v / 2 ^ 128) }
      let g : Graph := { Graph.empty with sigs := (List.range ns).map sig, nodes := (List.range nn).map node }
      tput (loadGraphs n (bs.drop (8 * ns + 24 * nn))) gid g

/-- The graphs of a cluster: every node as after reset (R301). -/
def graphsFor (cl : Nat) (gs : Tab Graph) : Tab Graph :=
  gs.map fun p => (p.1, { p.2 with nodes := p.2.nodes.mapIdx fun n x => x.fresh cl p.1 n })

/-- The core of a context as it is placed: its registers, regions and context-control state (R87, R332, R355). -/
def placeCore (d : BitVec 1024) (g n : Nat) : CCtx :=
  let j := 16 * g + n
  { CCtx.empty with
    cluster := g
    core := n
    tvec := BitVec.ofNat 48 (descF d 815 768)
    savebase := BitVec.ofNat 48 (descF d 879 832 + descF d 447 416 * j)
    savelen := descF d 447 416
    regions := descRegions d }

/-- Grant clusters to a launch in one step (R86 step 6): its context, its cores, the start messages (R87). -/
def State.grant (s : State) (l : Nat) (x : Launch) (grid : List Nat) : State :=
  let die := x.die
  let d := x.desc
  let cid := (s.die die).freshCid
  let graphs := loadGraphs 8 (((tget s.apps x.app).map (·.graphs)).getD [])
  let part := ((tget s.apps x.app).map (·.part)).getD 0
  let ctx : Ctx := { Ctx.empty with
    launch := l
    part := part
    st := .running
    grid := grid
    stages := (List.range grid.length).map fun c => descF d (6 * c + 325) (6 * c + 320)
    root := descF d 743 704 * 2 ^ 12
    scb := descF d 943 896
    args := descF d 175 128
    mapspill := descF d 1007 960
    debug := d.getLsbD 40
    graphs := graphs }
  let s := s.updDie die fun y => { y with ctxs := tput y.ctxs cid ctx }
  let s := (s.dequeue l die).updLaunch l fun y => { y with st := .running, cid := cid }
  (grid.mapIdx fun g cl => (g, cl)).foldl (fun s p =>
    let s := s.updCluster p.2 fun c => { Cluster.empty with tlb := c.tlb, pwr := c.pwr, run := some cid, graphs := graphsFor p.2 graphs }
    (List.range 16).foldl (fun s n =>
      let k := coreIn p.2 n
      let s := s.updCore k fun c => { c.vacate s.now with run := some cid, ctxs := tput c.ctxs cid (placeCore d p.1 n) }
      let s := s.post 1 (.lazySave k cid)
      let (f, s) := s.freeNat
      s.post (6 + f % 1019) (.threadStartMessage k cid)) s) s

/-! ### Queues (R84, R86) -/

/-- Whether a queued launch is eligible: every prerequisite has completed normally (R85). -/
def State.eligibleLaunch (s : State) (x : Launch) : Bool :=
  (descPre x.desc).all fun id => match s.launchOf x.app id with
    | some p => p.st == .ended 0
    | none => false

/-- What considering a level comes to: a launch placed, nothing to place, or a blocked entry that stops placement. -/
inductive Placed
  | yes (s : State)
  | no (s : State)
  | blocked (s : State)

/-- Consider the entries of a level from the head (R86 steps 1 to 5); `seen` are the eligible entries passed over. -/
def State.placeLevel (s : State) (die lv : Nat) : List QLaunch → List Nat → Placed
  | [], _ => .no s
  | e :: es, seen =>
    match tget s.launches e.launch with
    | none => s.placeLevel die lv es seen
    | some x =>
      if !s.eligibleLaunch x then s.placeLevel die lv es seen
      else
        let n := descGrid x.desc
        let (s, ok) := s.roomFor die n 0 (descRegions x.desc) (descNoevict x.desc)
        if n ≤ ok.length then
          let (s, grid) := s.choose n ok
          let skip (q : QLaunch) : QLaunch := if seen.contains q.launch then { q with skips := q.skips + 1 } else q
          let s := s.updDie die fun d => { d with queue := vset d.queue lv ((vget d.queue lv []).map skip) }
          .yes (s.grant e.launch x grid)
        else if e.skips ≥ 16 then .blocked s
        else s.placeLevel die lv es (e.launch :: seen)

/-- Consider the levels in order (R86 steps 1 and 4). -/
def State.placeLevels (s : State) (die : Nat) : List Nat → Placed
  | [] => .no s
  | lv :: lvs =>
    match s.placeLevel die lv (vget (s.die die).queue lv []) [] with
    | .no s => s.placeLevels die lvs
    | r => r

def State.placeAgain (s : State) (die : Nat) : Nat → State
  | 0 => s
  | n + 1 =>
    match s.placeLevels die [0, 1, 2, 3] with
    | .yes s => s.placeAgain die n
    | .no s | .blocked s => s

/-! ### Resumption (R10, R190, R193) -/

/-- A core key that a context's core has moved to. -/
def moved (frm dest : List Nat) (k : Nat) : Nat := ((frm.zip dest).find? fun p => p.1 == clusterOf k).elim k fun p => coreIn p.2 (coreNo k)

def QCard.moved (q : QCard) (cid : Nat) (f : Nat → Nat) : QCard := if q.cid = cid then { q with core := f q.core } else q

/-- Save the regions that a context still holds on the cores it leaves (R193 step 1). -/
def State.leaveCores (s : State) (cid : Nat) : List Nat → State × Bool
  | [] => (s, true)
  | k :: ks =>
    match s.saveAll k cid 24 with
    | (s, true) => s.leaveCores cid ks
    | r => r

/-- What has waited on a core for banks goes on. -/
def State.lazyAgain (s : State) (core : Nat) : State :=
  match (s.core core).run with
  | some r => s.post 1 (.lazySave core r)
  | none => s

/-- The relocation save of a context goes on on the cores that it leaves; with the last region saved the context may resume, and what
has waited there for the banks goes on (R193). -/
def State.leaveOn (s : State) (die cid : Nat) : State :=
  let ks := (s.ctx die cid).leaving
  match s.leaveCores cid ks with
  | (s, false) => s
  | (s, true) => ks.foldl (fun s k => s.lazyAgain k) ((s.updCtx die cid fun y => { y with leaving := [] }).post 0 (.placement die))

/-- A context takes its clusters again: where it moves, what the die holds of it moves with it, and a save that stops there keeps
it from running until it is complete (R193). -/
def State.resumeOn (s : State) (die cid : Nat) (dest : List Nat) : State :=
  let x := s.ctx die cid
  let frm := x.grid
  let old := (x.cores.filter fun k => moved frm dest k != k)
  match s.leaveCores cid old with
  | (s, false) => if s.stoppedSave die cid then s.updCtx die cid fun y => { y with leaving := old } else s
  | (s, true) =>
    let f := moved frm dest
    let ccs := x.cores.map fun k => (f k, (s.core k).ctx cid)
    let s := x.cores.foldl (fun s k => s.updCore k fun c => { c with ctxs := tdel c.ctxs cid }) s
    let card (q : QCard) : QCard := q.moved cid f
    let job (j : CJob) : CJob := { j with card := card j.card }
    let iv (i : Interval) : Interval := if i.space = 0 then i else { i with core := f i.core }
    let win (w : WinEnt) : WinEnt := { w with card := card w.card, rd := w.rd.map iv, wr := w.wr.map iv }
    let s := ccs.foldl (fun s p => s.updCore p.1 fun c => { c.vacate s.now with
      run := some cid
      ctxs := tput c.ctxs cid { p.2 with jobs := p.2.jobs.map job } }) s
    let colls := s.colls.map fun p => (p.1, { p.2 with cards := p.2.cards.map card })
    let s := { s with colls := colls }.updDie die fun d => { d with colq := { d.colq with cards := d.colq.cards.map card } }
    let s := s.updCtx die cid fun y => { y with
      grid := dest
      st := .restoring
      acks := 16 * dest.length
      was := frm
      wins := y.wins.map fun p => (p.1, p.2.map win)
      eqs := y.eqs.map fun p => (p.1, p.2.map card) }
    let s := dest.foldl (fun s cl => s.updCluster cl fun c => { Cluster.empty with tlb := c.tlb, pwr := c.pwr, run := some cid }) s
    (coresOf dest).foldl (fun s k => s.post 1 (.lazySave k cid)) s

/-- A switched-out context comes back when and where the die chooses among the clusters that qualify (R10). -/
def State.tryResume (s : State) (die cid : Nat) : State :=
  let x := s.ctx die cid
  if x.st ≠ .out ∨ s.stoppedSave die cid then s
  else if x.leaving ≠ [] then s.leaveOn die cid
  else
    let (go, s) := s.freeBool
    if !go then s
    else
      let (s, ok) := s.roomFor die x.grid.length cid [] false
      if ok.length < x.grid.length then s
      else
        let (stay, s) := s.freeBool
        if stay && x.grid.all ok.contains then s.resumeOn die cid x.grid
        else
          let (s, dest) := s.choose x.grid.length ok
          s.resumeOn die cid dest

/-- `PLACEMENT` (R86): switched-out contexts may resume, then launches are placed while one can be; while a context is out the
die looks again. Where units sleep, their exit comes first; units left idle may sleep (R364). -/
def execPlacement (die : Nat) (s : State) : Host.Outcome State Fault Refusal :=
  .next (
    let d := s.die die
    let outs := (d.ctxs.filter fun p => p.2.st == .out).map (·.1)
    let work := !outs.isEmpty || d.queue.toList.any (!·.isEmpty)
    if s.early && s.trained then s
    else if !work then s.sleepCheck die
    else if d.off then
      let (go, s) := s.freeBool
      if go || d.queue.toList.any (!·.isEmpty) then s.wakeDie die else s.postFree 1 (.placement die)
    else if !(s.asleep die).isEmpty then (s.asleep die).foldl (fun s u => s.wake 0 u.1 u.2) s
    else
      let s := outs.foldl (fun s c => s.tryResume die c) s
      let s := s.placeAgain die 256
      let s := if (s.die die).ctxs.any fun p => p.2.st == .out then s.postFree 1 (.placement die) else s
      s.sleepCheck die)

/-! ### Start and residency (R87, R190, R192) -/

/-- The start message reaches a core: thread 0 is set up, once the regions of every core of the context are resident: it does not start
while a save there has stopped (R87, R190, R191). -/
def execThreadStartMessage (core cid : Nat) (s : State) : Host.Outcome State Fault Refusal :=
  .next (
    let c := s.core core
    let die := dieOf core
    let x := s.ctx die cid
    if c.run ≠ some cid ∨ !(x.st = .running ∨ x.st = .preempting) ∨ (c.thr 0).st ≠ .free then s
    else if !x.cores.all fun k => ((s.core k).ctx cid).ready then s.post 1 (.threadStartMessage core cid)
    else
      let entry := ((tget s.launches x.launch).map fun l => descF l.desc 111 64).getD 0
      s.setThr (core, 0) { Thread.empty with st := .ready, pc := BitVec.ofNat 48 entry, next := alignUp (s.cyc die + 1) 0 })

/-- `LAZY_SAVE` (R190, R192): the incoming context's regions become resident, victims' regions saved where banks are short; a
stopped save of a victim holds the context back (R191); then a resuming context is restored. -/
def execLazySave (core cid : Nat) (s : State) : Host.Outcome State Fault Refusal :=
  .next (
    let c := s.core core
    let die := dieOf core
    if c.run ≠ some cid ∨ (s.ctx die cid).st = .killed then s
    else match s.residentAll core cid 0 ((c.ctx cid).regions.length) with
      | (s, .done) => if (s.ctx die cid).st = .restoring then s.postFree 1 (.contextRestore core cid) else s
      | (s, .stopped) => s
      | (s, .corrupt) => s.startKill die cid 2)

end Sys2Proof.Machine
end

