-- ==== Sys2Proof/Machine/Contexts.lean ====
section
/-! DEFINITION. Pre-emption (R339, R312), the context save (R340, R342), the restore (R343), and resumption. -/

namespace Sys2Proof.Machine

/-! ### Stopping (R339) -/

/-- Waits that a pre-emption abandons; the waits of a node only at a forced read-out (R312). -/
def PendK.abandoned (kind : PendK) (readout : Bool) : Bool :=
  match kind with
  | .mwait _ | .bwait .. | .barr _ | .twany .. | .twall .. | .treap .. | .halt _ | .stq .. | .retry _ | .walk => true
  | .sig .. | .chw .. | .chr .. => readout
  | _ => false

/-- Abandon a thread's wait: its instruction is executed again on resumption; the record names the wait (R341). -/
def State.abandon (s : State) (k : Key) (readout : Bool) : State :=
  match (s.thr k).pend with
  | some p =>
    if PendK.abandoned p.kind readout then
      let w := match p.kind with
        | .retry _ | .walk => 0
        | x => PendK.code x
      s.updThr k fun t => { t with st := if t.st = .waiting then .ready else t.st, pend := none, walked := [], seen := none, waitWas := w }
    else s
  | none => s

/-- Every thread of a core. -/
def keysOf (core : Nat) : List Key := (List.range 16).map (core, ·)

/-- `PREEMPT` (R339): the request reaches every engine of the context. -/
def execPreempt (die cid : Nat) (forced : Bool) (s : State) : Host.Outcome State Fault Refusal :=
  .next (match tget (s.die die).ctxs cid with
    | none => s.ctlDone die 3 false 0
    | some x =>
      if x.st ≠ .running ∨ x.killed.isSome then s.ctlDone die 3 true 0
      else
        let s := x.cores.foldl (fun s k => s.unhaltCore k) s
        let s := s.updCtx die cid fun y => { y with st := .preempting, forced := forced }
        let s := x.cores.foldl (fun s k => (keysOf k).foldl (fun s t =>
          if (s.thr t).isNode then s else s.abandon t false) s) s
        let s := x.grid.foldl (fun s cl =>
          let s := (s.updCluster cl fun c => { c with pre := some (s.now, false) }).ellPreempt cl
          s.post (if forced then 0 else 65536) (.regionForcedReadout cl)) s
        s.post 1 (.preemptComplete die cid))

/-- `REGION_FORCED_READOUT` (R312): the nodes of a running instant stop; those that wait at the controller abandon the wait. -/
def execRegionForcedReadout (cluster : Nat) (s : State) : Host.Outcome State Fault Refusal :=
  .next (
    let c := s.cluster cluster
    match c.pre with
    | some (t0, _) =>
      let forced := match c.run with
        | some cid => (s.ctx (cluster / 16) cid).forced
        | none => false
      if !(forced || decide (t0 + 65536 ≤ s.now)) then s
      else
        let graph (g : Graph) : Graph :=
          { g with waits := [], nodes := g.nodes.map fun n => if n.st = 3 ∧ g.busy then { n with st := 5 } else n }
        let s := s.updCluster cluster fun c => { c with
          pre := some (t0, true)
          graphs := c.graphs.map fun p => (p.1, graph p.2) }
        (List.range 16).foldl (fun s n => (keysOf (coreIn cluster n)).foldl (fun s k =>
          if (s.thr k).isNode then s.abandon k true else s) s) s
    | none => s)

/-! ### Whether everything has stopped -/

/-- A thread at an instruction boundary with nothing of its own under way (R321, R180). -/
def Thread.quiet (t : Thread) : Bool :=
  (match t.pend with
   | some p => p.kind == .hcall || p.kind == .stopped
   | none => true) &&
  t.rlx.isEmpty && t.postD.isEmpty && t.postH.isEmpty && t.allStreams fun x => !x.busy && !x.undrained

/-- Events of the agenda that a pre-emption waits for: transfers, arrivals, migrations and messages under way. -/
def State.underWay (s : State) (cid : Nat) (cores : List Nat) (e : Instr) : Bool :=
  match e with
  | .copyJobComplete c | .barrierArrival c _ | .barrierPhaseComplete c _ | .skipperOffer _ c _ | .skipperGrant _ c _
  | .skipperTransfer _ c _ _ => cores.contains c
  | .threadStartMessage c i | .guestExitMessage c _ i _ => i == cid && cores.contains c
  | .migrationArrival m | .migrationRetry m => match tget s.migs m with
    | some g => g.cid == cid && cores.contains g.src
    | none => false
  | _ => false

/-- The copy engine at a chunk boundary with no chunk under way (R233). -/
def Core.copyStopped (c : Core) (now : Nat) : Bool := match c.copy.job with
  | none => true
  | some j => j.want == 0 && j.part == 0 && decide (c.copy.due < now)

/-- The matrix unit at a command boundary: the running command completes first (R258). -/
def State.matStopped (s : State) (core : Nat) : Bool := (s.core core).mat.wrs.isEmpty && (s.core core).mat.run.isNone

/-- The engines of a cluster have stopped: the Ellipsis engine, the controller (R271, R312). -/
def Cluster.stopped (c : Cluster) : Bool :=
  c.ejob.isNone && c.inbox.isEmpty && c.graphs.all fun p => p.2.fin.isNone && (!p.2.busy || c.pre.any (·.2))

/-- Every engine of the context has acknowledged. -/
def State.acked (s : State) (die cid : Nat) : Bool :=
  let x := s.ctx die cid
  let cores := x.cores
  (cores.all fun k =>
    let c := s.core k
    c.th.toList.all (·.quiet) && c.copyStopped s.now && s.matStopped k && !c.xfer && c.wres == 0) &&
  (x.grid.all fun cl => (s.cluster cl).stopped) && !s.agenda.any fun e => s.underWay cid cores e.2

/-! ### The reply of an `HCALL` (R338) -/

/-- Whether a thread waits for the reply to a call. -/
def Thread.calls (t : Thread) (n : Nat) : Bool := t.pend.any fun p => p.kind == .hcall && p.serial == n

/-- The slot of the thread of a context that waits for the reply to a call. -/
def State.callerKey (s : State) (x : Ctx) (n : Nat) : Option Key := (x.cores.flatMap keysOf).find? fun k => (s.thr k).calls n

/-- The node of a context that waits for it in the node store: cluster, graph, number. -/
def State.callerNode (s : State) (x : Ctx) (n : Nat) : Option (Nat × Nat × Nat) :=
  x.grid.findSome? fun cl => (s.cluster cl).graphs.findSome? fun p =>
    (p.2.nodes.findIdx? (·.ctx.calls n)).map fun i => (cl, p.1, i)

/-- A core's save takes in a change made meanwhile: it is made again, or, stopped, goes on from the start of its area. -/
def State.saveAgain (s : State) (core cid : Nat) : State :=
  let x := (s.core core).ctx cid
  let w := progressOf 0 0 (progFault x.progress)
  let s := s.updCore core fun c => c.updCtx cid fun y => { y with progress := w, saved := false }
  if x.saved then s.post 1 (.contextSave core cid) else s

/-- The runtime's reply to a call: applied while the thread goes on, kept with the thread while it is stopped or being saved, and
kept by the runtime while the context is switched out; a kill discards it. -/
def execHcallReply (die cid call status : Nat) (r1 r2 : Word) (s : State) : Host.Outcome State Fault Refusal :=
  .next (match tget (s.die die).ctxs cid with
    | none => s
    | some x =>
      let later := s.postFree 1 (.hcallReply die cid call status r1 r2)
      let kept (t : Thread) : Thread := { t with hreply := some (status, r1, r2) }
      let save (s : State) (core : Nat) : State := if x.st = .saving then s.saveAgain core cid else s
      if x.killed.isSome then s
      else if x.st = .out ∨ x.st = .restoring then later
      else match s.callerKey x call with
        | some k =>
          let goes := x.st = .running ∨
            (x.st = .preempting ∧ (s.thr k).isNode = true ∧ !(s.cluster (clusterOf k.1)).pre.any (·.2))
          if goes then s.resume k true (hcallEnd status r1 r2 s) else save (s.updThr k kept) k.1
        | none => match s.callerNode x call with
          | some (cl, g, n) => save (s.updGraph cl g (·.updNode n fun y => { y with ctx := kept y.ctx })) (coreIn cl 0)
          | none => s)

/-! ### The moment of the stop -/

/-- Park every node that a slot of a core holds (R312). -/
def State.parkAll (s : State) (core : Nat) : State :=
  (keysOf core).foldl (fun s k =>
    if (s.thr k).isNode then s.parkNode k (s.thr k).pc 0 fun x => if x.st = 5 then { x with st := 4 } else x else s) s

/-- A thread's armed monitors are lost (R285). -/
def Thread.loseMons (t : Thread) : Thread := { t with mon := t.parked.mon }

/-- Bring home the guests and the landing threads (R339, R341), and take the monitors out of their homes (R285). -/
def State.bringHome (s : State) (die cid : Nat) : State :=
  let cores := (s.ctx die cid).cores
  let ks := cores.flatMap keysOf
  let homes := ks.filterMap fun k => if (s.thr k).st = .away then some (k, { s.recThread k.1 k.2 with origin := (0, 0) }) else none
  let guests := ks.filter fun k => (s.thr k).st == .guest
  let s := ks.foldl (fun s k => (s.dropMons k).updThr k (·.loseMons)) s
  let s := homes.foldl (fun s p => s.setThr p.1 p.2) s
  let s := guests.foldl (fun s k => s.setThr k .empty) s
  let s := cores.foldl (fun s k => s.updCore k fun c => { c with landing := [] }) s
  { s with migs := s.migs.filter fun p => !(p.2.cid == cid && cores.contains p.2.src) }

/-- `PREEMPT_COMPLETE` (R339): with every acknowledgement the save of every core starts. -/
def execPreemptComplete (die cid : Nat) (s : State) : Host.Outcome State Fault Refusal :=
  .next (
    let x := s.ctx die cid
    if x.st ≠ .preempting ∨ x.killed.isSome then s
    else if !s.acked die cid then s.post 1 (.preemptComplete die cid)
    else
      let s := x.cores.foldl (fun s k => s.parkAll k) s
      let s := s.bringHome die cid
      let s := s.updCtx die cid fun y => { y with st := .saving }
      x.cores.foldl (fun s k =>
        (s.updCore k fun c => c.updCtx cid fun y => { y with progress := 0, saved := false }).postFree 1 (.contextSave k cid)) s)

/-! ### The save (R340, R342) -/

/-- What the die keeps of a core beside its area: threads, jobs, the numbers of its cards and the cycles of their enqueuing. -/
def State.keep (s : State) (core cid : Nat) : State :=
  let c := s.core core
  let jobs := s.jobsOf core
  s.updCore core fun k => k.updCtx cid fun x => { x with
    kept := c.th.toList
    jobs := x.jobs ++ jobs
    ids := (c.cq.held.map fun q => (q.id, q.at'), c.mq.held.map fun q => (q.id, q.at'))
    lastRun := s.cyc (dieOf core) }

/-- The last core's save has ended: the context leaves its clusters (R339). -/
def State.switchOut (s : State) (die cid : Nat) : State :=
  let x := s.ctx die cid
  let s := x.cores.foldl (fun s k => s.keep k cid) s
  let wins := x.grid.mapIdx fun g cl => (g, (s.cluster cl).win.filter fun w => w.card.cid == cid)
  let nodes := x.grid.mapIdx fun g cl => (g, (s.cluster cl).graphs)
  let eqs := x.grid.mapIdx fun g cl => (g, (s.cluster cl).eq.held)
  let s := x.cores.foldl (fun s k => s.updCore k (·.vacate s.now)) s
  let s := x.grid.foldl (fun s cl => s.updCluster cl fun c => { Cluster.empty with tlb := c.tlb, pwr := c.pwr }) s
  let drop (w : List Nat) : List Nat := w.filter (!x.cores.contains ·)
  let s := s.updDie die fun d => { d with wires := d.wires.map drop }
  let s := s.updCtx die cid fun y => { y with st := .out, wins := wins, nodes := nodes, eqs := eqs, forced := false }
  (s.postEvent { type := 5, die := die, cid := cid, w1 := 0, w2 := 0, w3 := 0, kill := none }).post 0 (.placement die)

/-- Save what a core still has to save: its sections, then, from core number 0, its cluster's area. -/
def State.coreSave (s : State) (core cid : Nat) : State × Option (Nat × SaveFault) :=
  let die := dieOf core
  let x := (s.core core).ctx cid
  let g := s.gridNo core cid
  let at' := progOff x.progress
  let first := decide (progSec x.progress ≤ 16)
  let (s, f) := if first then
      s.areaSave core cid x.savebase.toNat x.savelen (s.coreRec core).image (unitsFrom at' switchEnd)
    else (s, none)
  match f with
  | some f => (s, some (sectionOf f.2.1, f))
  | none =>
    if coreNo core ≠ 0 then (s, none)
    else
      let c := s.cluster (clusterOf core)
      let us := c.units g
      let us := if first then us else us.dropWhile (· != at')
      let esat (n : Nat) : Bool := ((s.core (coreIn (clusterOf core) n)).ctx cid).settled.esat
      match s.areaSave core cid (s.ctx die cid).mapspill (2 ^ 48) (c.record g esat).image us with
      | (s, none) => (s, none)
      | (s, some f) => (s, some (17, f))

/-- The areas and units that a core's save or restore is about: its own, and, of core number 0, its cluster's. -/
def State.coreAreas (s : State) (core cid : Nat) : List (Nat × List Nat) :=
  ((s.core core).ctx cid).savebase.toNat |> fun base => (base, unitsFrom 0 switchEnd) ::
    if coreNo core ≠ 0 then []
    else [((s.ctx (dieOf core) cid).mapspill, (s.cluster (clusterOf core)).units (s.gridNo core cid))]

/-- The die, off, whose exit a core's save or restore waits for (R364). -/
def State.coreOff (s : State) (core cid : Nat) : Option Nat :=
  (s.coreAreas core cid).findSome? fun a => s.areaOff core cid a.1 a.2

/-- The accesses of a core's save or restore take their turns at the home ports. -/
def State.corePort (s : State) (core cid : Nat) (op : MemOp) (as : List (Nat × List Nat)) : State :=
  as.foldl (fun s a => s.areaPort core cid a.1 op a.2) s

/-- `CONTEXT_SAVE` of a core (R340, R342): a fault stops it, else with the last core the switch ends. -/
def execContextSave (core cid : Nat) (s : State) : Host.Outcome State Fault Refusal :=
  .next (
    let die := dieOf core
    let x := (s.core core).ctx cid
    let as := s.coreAreas core cid
    if (s.core core).run ≠ some cid ∨ (s.ctx die cid).st ≠ .saving ∨ x.saved = true ∨ progFault x.progress ≠ 0 then s
    else match s.coreOff core cid with
    | some d => s.awaitDie d (.contextSave core cid)
    | none => match s.coreSave core cid with
      | (s, some (sec, f)) => s.saveStopped core cid sec f
      | (s, none) =>
        let s := s.corePort core cid .store as
        let s := s.updCore core fun c => c.updCtx cid fun y => { y with saved := true, progress := progressOf switchEnd 13 0 }
        if (s.ctx die cid).cores.all fun k => ((s.core k).ctx cid).saved then s.switchOut die cid else s)

/-! ### The restore (R343, R270, R313) -/

/-- The cluster part of a restore. -/
def State.clusterRestore (s : State) (core cid : Nat) : Except Nat State :=
  let die := dieOf core
  let cl := clusterOf core
  let x := s.ctx die cid
  let g := s.gridNo core cid
  let us := (s.cluster cl).units g
  let graphs := withKept (graphsFor cl x.graphs) ((tget x.nodes g).getD [])
  let us := us ++ ((graphs.flatMap fun p => unitsFrom (graphAt g p.1 + 64) (graphAt g p.1 + 48832)))
  let us := us.foldl insertNat []
  let wins := (tget x.wins g).getD []
  (s.areaLoad core cid x.mapspill us).map fun m =>
    let fresh := s.serial
    { s with serial := s.serial + 256 }.updCluster cl fun c =>
      c.load cl cid g fresh (moved x.was x.grid) graphs wins ((tget x.eqs g).getD []) m
where
  insertNat (l : List Nat) (n : Nat) : List Nat := l.takeWhile (· < n) ++ n :: (l.dropWhile (· < n)).filter (· != n)

/-- Threads that the context goes on with: their next turns, replies held, streams and monitors (R338, R180). -/
def State.resumeThread (s : State) (k : Key) : State :=
  let t := s.thr k
  if t.st = .free ∨ t.st = .exited then s
  else
    let s := (s.setThr k { t with next := alignUp (s.cyc (dieOf k.1) + 1) k.2 }).heldReply k
    (List.finRange 8).foldl (fun s i => s.kick k (vhi i)) s

/-- The context runs again (R339): barriers, engines, graphs, collectives and held interrupts go on. -/
def State.resumeAll (s : State) (die cid : Nat) : State :=
  let s := s.updCtx die cid fun y => { y with st := .running, wins := [], nodes := [], eqs := [] }
  let x := s.ctx die cid
  let s := x.cores.foldl (fun s k => (keysOf k).foldl (fun s t => s.resumeThread t) s) s
  let s := x.cores.foldl (fun s k => (List.range 8).foldl (fun s n => s.barCheck k n) s) s
  let s := x.cores.foldl (fun s k =>
    let held := ((s.core k).ctx cid).held
    let s := s.updCore k fun c => c.updCtx cid fun y => { y with held := [] }
    held.foldl (fun s h => s.setInt (k, h.1) h.2) s) s
  let s := x.grid.foldl (fun s cl =>
    let s := s.post 0 (.cardAdmission cl)
    (s.cluster cl).graphs.foldl (fun s p =>
      let s := s.post 0 (.instantBegin cl p.1)
      if !p.2.busy then s
      else
        let s := (List.range p.2.nodes.length).foldl (fun s n => s.post 6 (.nodeStart cl p.1 n)) s
        if p.2.over then s.post 1 (.instantEnd cl p.1) else s) s) s
  (s.colls.foldl (fun s p => s.post 0 (.collectivePhaseEnd p.1)) s).post 0 (.launchComplete x.launch)

/-- `CONTEXT_RESTORE` of a core (R343): the area is read back; a corrupt one kills the context with reason 2. -/
def execContextRestore (core cid : Nat) (s : State) : Host.Outcome State Fault Refusal :=
  .next (
    let die := dieOf core
    let x := (s.core core).ctx cid
    let as := s.coreAreas core cid
    if (s.core core).run ≠ some cid ∨ (s.ctx die cid).st ≠ .restoring ∨ x.saved = false then s
    else match s.coreOff core cid with
    | some d => s.awaitDie d (.contextRestore core cid)
    | none => match s.areaLoad core cid x.savebase.toNat (unitsFrom 0 switchEnd) with
      | .error c => (s.hurt die cid (some c)).startKill die cid 2
      | .ok m =>
        if imageBad m then s.startKill die cid 2
        else
          let fresh := s.serial
          let s := { s with serial := s.serial + 64 }.updCore core fun c => c.load cid core fresh m
          match (if coreNo core = 0 then s.clusterRestore core cid else .ok s) with
          | .error c => (s.hurt die cid (some c)).startKill die cid 2
          | .ok s =>
            let s := (s.corePort core cid .load as).updCtx die cid fun y => { y with acks := y.acks - 1 }
            if (s.ctx die cid).acks = 0 then s.resumeAll die cid else s)

/-! ### Repair of a stopped save (R342, R357) -/

/-- A stopped save of regions goes on: of the region that the progress word names; what has waited there for the banks goes on (R190,
R191). Then, of a relocation, the save goes on on every core that the context leaves (R193). -/
def State.resumeLazy (s : State) (die cid core : Nat) : State :=
  match ((s.core core).ctx cid).stoppedRegion.map (s.saveRegion core cid ·) with
  | some (s, false) => s
  | r => (((r.map (·.1)).getD s).lazyAgain core).leaveOn die cid

/-- `SAVE_RESUME`: the save goes on at the progress word. -/
def execSaveResume (die cid core : Nat) (s : State) : Host.Outcome State Fault Refusal :=
  .next (match tget (s.die die).ctxs cid with
    | none => s.ctlDone die 5 false 0
    | some x =>
      match tget (s.core core).ctxs cid with
      | none => s.ctlDone die 5 true 0
      | some y =>
        if dieOf core ≠ die ∨ progFault y.progress = 0 ∨ x.st = .killed then s.ctlDone die 5 true 0
        else
          let w := progressOf (progOff y.progress) (progSec y.progress) 0
          let s := s.updCore core fun c => c.updCtx cid fun y => { y with progress := w }
          let s := if x.st = .saving then s.post 1 (.contextSave core cid) else s.resumeLazy die cid core
          s.ctlDone die 5 false 0)

/-- Copy units from one area to another; the code of the fault where a unit cannot be read or written. -/
def State.areaCopy (s : State) (core cid frm dest : Nat) : List Nat → Except Nat State
  | [] => .ok s
  | off :: offs =>
    match s.areaGet core cid frm off with
    | .error c => .error c
    | .ok bs =>
      match s.areaPut core cid dest off bs with
      | .ok s => s.areaCopy core cid frm dest offs
      | .error f => .error f.1

/-- The units of the regions that a core has saved. -/
def CCtx.savedUnits (x : CCtx) : List Nat :=
  ((List.range x.regions.length).filterMap fun i => match x.regions[i]? with
    | some r => if r.saved then some (regionUnits r.buf (regionStart x.regions i) r.banks) else none
    | none => none).flatten

/-- `SAVE_AREA` (R342): a new area for a core whose save has stopped, and the bytes saved so far copied to it. -/
def execSaveArea (die cid core base len : Nat) (s : State) : Host.Outcome State Fault Refusal :=
  .next (match tget (s.die die).ctxs cid with
    | none => s.ctlDone die 10 false 0
    | some x =>
      match tget (s.core core).ctxs cid with
      | none => s.ctlDone die 10 true 0
      | some y =>
        if dieOf core ≠ die ∨ progFault y.progress = 0 ∨ x.st = .killed ∨ base % 64 ≠ 0 ∨ base ≥ 2 ^ 48 ∨ len % 64 ≠ 0 ∨
            len < 804096 then s.ctlDone die 10 true 0
        else
          let all := progSec y.progress = 17
          let below := unitsFrom 0 (if all then switchEnd else progOff y.progress)
          let us := below ++ y.savedUnits.filter (!below.contains ·)
          match s.offHit (s.areaHits core cid y.savebase.toNat us ++ s.areaHits core cid base us) with
          | some d => s.awaitDie d (.saveArea die cid core base len)
          | none => match s.areaCopy core cid y.savebase.toNat base us with
            | .error c => (s.hurt die cid (some c)).ctlDone die 10 true 0
            | .ok s =>
              let s := (s.areaPort core cid y.savebase.toNat .load us).areaPort core cid base .store us
              (s.updCore core fun c => c.updCtx cid fun y => { y with savebase := BitVec.ofNat 48 base, savelen := len }).ctlDone die 10
                false 0)

end Sys2Proof.Machine
end

