-- ==== Sys2Proof/Machine/Runtime.lean ====
section
/-! DEFINITION. The resident runtime: pages and tables it writes (R201, R352, R365), application images (R352), the checks of
a launch descriptor (R355, R84, R85, R185, R295, R40), system calls (R353) and the acceptance of events (R347, R348). -/

namespace Sys2Proof.Machine

/-! ### Memory through an application's tables -/

/-- The root and device of a context or an application's tables. -/
structure Space' where
  dev  : Nat
  root : Nat
  deriving DecidableEq, Repr

/-- Where n bytes from va on lie, with what is to stand there; none where a page is absent. -/
def State.vhits (s : State) (p : Space') (va : Nat) (bs : List Byte) : Option (List Hit) :=
  (bs.mapIdx fun i b => (i, (va + i) % 2 ^ 48, b)).mapM fun x =>
    match s.walkFrom p.dev p.root x.2.1 with
    | .leaf e => some ⟨Entry.homeCore e x.2.1, Entry.tier e, ⟨x.1, x.2.1, Entry.loc e x.2.1, 1, x.2.2.toNat⟩⟩
    | .absent => none

/-- Write bytes from va on; none where a page is absent. -/
def State.vwrite (s : State) (p : Space') (va : Nat) : List Byte → Option State
  | [] => some s
  | b :: bs =>
    match s.walkFrom p.dev p.root (va % 2 ^ 48) with
    | .leaf e => (s.wr (Entry.homeCore e (va % 2 ^ 48)) (Entry.loc e (va % 2 ^ 48)) 0 [b]).vwrite p (va + 1) bs
    | .absent => none

/-! ### Pages and tables that the runtime gives out (notes/assumptions/60) -/

/-- Physical 64 KiB units by use: 0 die-striped SRAM, 1 tables (SRAM, HOME 0), 2 SRAM with HOME 0, 3 SRAM with HOME 1,
4 LPDDR-6, 5 LPDDR-6 of a peer device, 6 the host aperture. How many there are, and the LOC of one. -/
def poolSize : Nat → Nat
  | 0 => 8192 | 1 => 4096 | 2 => 2048 | 3 => 2048 | 6 => 2 ^ 27 | _ => 2 ^ 21

def poolLoc (kind u : Nat) : Nat :=
  match kind with
  | 0 => u * 2 ^ 16
  | 1 => u / 16 * 2 ^ 22 + (32 + u % 16) * 2 ^ 16
  | 2 => u / 8 * 2 ^ 22 + (48 + u % 8) * 2 ^ 16
  | 3 => u / 8 * 2 ^ 22 + (56 + u % 8) * 2 ^ 16
  | 6 => u * 2 ^ 16
  | _ => 2 ^ 40 + u * 2 ^ 16

/-- The address on another device that a peer grants for n units: which one, or whether it grants any, is free. -/
def State.peerPages (s : State) (dev n : Nat) : Option Nat × State :=
  let (ok, s) := s.freeBool
  let (d, s) := s.freeNat
  let (u, s) := s.freeNat
  (if ok then some ((dev + 1 + d % 63) % 64 * 2 ^ 46 + d / 63 % 8 * 2 ^ 43 + poolLoc 5 (u % (poolSize 5 / n) * n)) else none, s)

/-- Take n units of a kind on a die, aligned to n: the physical address of the first. The host aperture is one for all dies. -/
def State.takePages (s : State) (dev die kind n : Nat) : Option (Nat × State) :=
  if kind = 5 then match s.peerPages dev n with
    | (some pa, s) => some (pa, s)
    | (none, _) => none
  else
    let key := if kind = 6 then 6 else die * 8 + kind
    let u := ((tget s.pages key).getD 0 + n - 1) / n * n
    if u + n ≤ poolSize kind then
      some (dev * 2 ^ 46 + die * 2 ^ 43 + poolLoc kind u, { s with pages := tput s.pages key (u + n) })
    else none

/-- Write a 16-byte entry of a table. -/
def State.putEntry (s : State) (pa v : Nat) : State := { s with mem := s.mem.write (locOf 0 0 pa) 16 v }

/-- The table that an entry points to, made if there is none. -/
def State.tableAt (s : State) (dev die at' : Nat) : Option (Nat × State) :=
  match tableOf dev false (s.entryAt at') with
  | some t => some (t, s)
  | none => (s.takePages dev die 1 1).map fun p => (p.1, p.2.putEntry at' (1 + p.1 / 2 ^ 16 * 2 ^ 64))

/-- Map one page: 64 KiB, or 256 MiB under LRG. -/
def State.mapPage (s : State) (p : Space') (die va word0 pa : Nat) : Option State :=
  (s.tableAt p.dev die (p.root + 16 * (va / 2 ^ 40 % 256))).bind fun t2 =>
    let e2 := t2.1 + 16 * (va / 2 ^ 28 % 4096)
    let leaf := word0 + pa / 2 ^ 16 * 2 ^ 64
    if word0.testBit 24 then some (t2.2.putEntry e2 leaf)
    else (t2.2.tableAt p.dev die e2).map fun t3 => t3.2.putEntry (t3.1 + 16 * (va / 2 ^ 16 % 4096)) leaf

/-- The kind of unit that a leaf's TIER and HOME need (R199). -/
def kindOf (word0 : Nat) : Option Nat :=
  match bitsAt word0 17 16, bitsAt word0 19 18 with
  | 0, 2 => some 0
  | 0, 0 => some 2
  | 0, 1 => some 3
  | 1, _ => some 4
  | 2, _ => some 5
  | 3, 0 => some 6
  | _, _ => none

/-- A leaf of a word0 template at an address of its TIER, to judge the template by (R202, R203). -/
def sampleLeaf (dev die : Nat) (word0 : Word) : Entry :=
  let dev := if (word0.extractLsb' 16 2).toNat = 2 then (dev + 1) % 64 else dev
  let region := match (word0.extractLsb' 16 2).toNat with | 1 | 2 => 2 ^ 40 | _ => 0
  BitVec.ofNat 128 (word0.toNat + (dev * 2 ^ 46 + die * 2 ^ 43 + region) / 2 ^ 16 * 2 ^ 64)

/-- Map n pages from va on, each on units of its own, unless one is mapped already. -/
def State.mapPages (s : State) (p : Space') (die va word0 : Nat) : Nat → Option State
  | 0 => some s
  | n + 1 =>
    let large := word0.testBit 24
    let next := va + (if large then 2 ^ 28 else 2 ^ 16)
    match s.walkFrom p.dev p.root va with
    | .leaf _ => s.mapPages p die next word0 n
    | .absent =>
      match kindOf word0 with
      | none => none
      | some k =>
        (s.takePages p.dev die k (if large then 4096 else 1)).bind fun t =>
          (t.2.mapPage p die va word0 t.1).bind fun s => s.mapPages p die next word0 n

/-- word0 of the leaves of `.text` and of the other sections (R352, R365). -/
def textWord : Nat := 1 + 2 + 8 + 16 + 0x0B * 2 ^ 8 + 2 * 2 ^ 18
def dataWord : Nat := 1 + 2 + 4 + 16 + 0x0B * 2 ^ 8 + 2 * 2 ^ 18

/-- Pages that n bytes at va touch. -/
def pageSpan (va n : Nat) : Nat := if n = 0 then 0 else (va + n - 1) / 2 ^ 16 - va / 2 ^ 16 + 1

/-- Forget what a placement has replaced since s: no core fetches what stood there before it (notes/assumptions/12). -/
def State.flushedSince (t s : State) : State :=
  let locs := (t.oldWords.take (t.oldWords.length - s.oldWords.length)).map (·.loc)
  { t with oldWords := s.oldWords.filter fun x => !locs.contains x.loc }

/-- Map a section and place its bytes. -/
def State.placeBytes (s : State) (p : Space') (die va word0 : Nat) (bs : List Byte) : Option State :=
  (s.mapPages p die (va / 2 ^ 16 * 2 ^ 16) word0 (pageSpan va bs.length)).bind fun s =>
    (s.vwrite p va bs).map fun t => t.flushedSince s

/-! ### Images (R352) -/

/-- The instruction words of text; none unless it is a whole number of words that pass R57 as a node sees them. -/
def textOk (bs : List Byte) : Nat → Bool
  | 0 => true
  | n + 1 => if bs.isEmpty then true else
      decide (bs.length ≥ 12) && (decode true bs).toOption.isSome && textOk (bs.drop 12) n

/-- The kernel table of `.args` (R352): entry and argument bytes. -/
def kernelTable (bs : List Byte) : Nat → List (Nat × Nat)
  | 0 => []
  | n + 1 => if bs.length < 32 then [] else
      (leNat (bs.take 6), leNat ((bs.drop 8).take 8)) :: kernelTable (bs.drop 32) n

def App.space (s : State) (a : App) : Space' := ⟨((tget s.parts a.part).map (·.dev)).getD 0, a.root⟩

/-- The first die of a partition, where the runtime puts its pages. -/
def State.homeDie (s : State) (part : Nat) : Nat := ((tget s.parts part).bind (·.dies.head?)).getD 0

/-- The partition that an application is loaded into: the first in RUN. -/
def State.runPart (s : State) : Option Nat := (s.parts.find? fun p => p.2.st == .run).map (·.1)

/-- Whether the runtime refuses an image (R352). -/
def imageRefused (img : Image) : Bool :=
  img.machine != 0xF1A7 || img.etype != 2 || img.secs.any fun x => x.kind == .text && !textOk x.bytes (x.bytes.length + 1)

/-- Map every section but `.ctl`. -/
def State.loadSecs (s : State) (p : Space') (die : Nat) : List Section → Option State
  | [] => some s
  | x :: xs =>
    if x.kind = .ctl then s.loadSecs p die xs
    else (s.placeBytes p die x.va (if x.kind = .text then textWord else dataWord) x.bytes).bind fun s => s.loadSecs p die xs

/-- The bytes of the sections of a kind, in order. -/
def secBytes (img : Image) (k : SecKind) : List Byte := (img.secs.filter (·.kind == k)).flatMap (·.bytes)

/-- `APPLICATION_IMAGE_LOAD` (R352): refused, or mapped in a partition in RUN, its control program started. -/
def execApplicationImageLoad (app : Nat) (img : Image) (s : State) : Host.Outcome State Fault Refusal :=
  .next (
    let refuse : State := { s with replies := s.replies ++ [.image app false] }
    match s.runPart with
    | none => refuse
    | some part =>
      if imageRefused img then refuse
      else
        let die := s.homeDie part
        let dev := ((tget s.parts part).map (·.dev)).getD 0
        match s.takePages dev die 1 1 with
        | none => refuse
        | some (root, s1) =>
          match s1.loadSecs ⟨dev, root⟩ die img.secs with
          | none => refuse
          | some s1 =>
            let args := secBytes img .args
            let a : App := {
              maps := (img.secs.filter (·.kind != .ctl)).map fun x => (x.va, x.bytes.length)
              kernels := kernelTable args args.length
              graphs := secBytes img .graph
              nextId := 1
              part := part
              running := true
              root := root
              nextVa := 2 ^ 47 }
            { s1 with apps := tput s1.apps app a, replies := s1.replies ++ [.image app true] })

/-! ### Descriptors (R355, R84, R85, R185, R295, R40) -/

/-- The graph descriptions that R295 refuses: walks the records, with the ids and the nodes per core met so far. -/
def graphsBad : Nat → List Byte → List Nat → List Nat → Bool
  | 0, bs, _, _ => !bs.isEmpty
  | n + 1, bs, ids, cores =>
    if bs.isEmpty then false
    else if bs.length < 16 then true
    else
      let h := leNat (bs.take 16)
      let gid := bitsAt h 2 0
      let ns := bitsAt h 14 8
      let nn := bitsAt h 22 16
      let bs := bs.drop 16
      let sig (i : Nat) : Nat := leNat ((bs.drop (8 * i)).take 8)
      let node (i : Nat) : Nat := leNat ((bs.drop (8 * ns + 24 * i)).take 24)
      let all := cores ++ (List.range nn).map fun i => bitsAt (node i) 3 0
      bitsAt h 7 3 != 0 || h.testBit 15 || bitsAt h 127 23 != 0 || ids.contains gid || nn == 0 || decide (nn > 64) || decide (ns > 64) ||
        decide (bs.length < 8 * ns + 24 * nn) || (List.range ns).any (fun i => decide (sig i > 5)) ||
        (List.range nn).any (fun i => bitsAt (node i) 63 4 != 0 || bitsAt (node i) 127 112 != 0 || bitsAt (node i) 191 128 >>> ns != 0) ||
        (List.range 16).any (fun c => decide ((all.filter (· == c)).length > 64)) ||
        graphsBad n (bs.drop (8 * ns + 24 * nn)) (gid :: ids) all

/-- Reserved fields of a descriptor, as bit ranges. -/
def descReserved : List (Nat × Nat) :=
  [(1023, 1008), (959, 944), (895, 880), (831, 816), (767, 744), (703, 676), (127, 112), (59, 44), (31, 0)]

/-- The regions of a buffer that R185 and R355 refuse. -/
def regionsBad (d : BitVec 1024) (b : Nat) : Bool :=
  let n := descF d (643 + 4 * b) (640 + 4 * b)
  let bank (k : Nat) : Nat := descF d (455 + 64 * b + 8 * k) (448 + 64 * b + 8 * k)
  decide (n > 8) || (List.range 8).any (fun k =>
    if k < n then bank k == 0 else bank k != 0 || d.getLsbD (652 + 8 * b + k)) || decide ((descBanks d b).sum > bufBanks b)

/-- Whether a descriptor is refused with status 6, whatever the die (R355). -/
def descBad (d : BitVec 1024) (a : App) : Bool :=
  let f := descF d
  let npre := f 43 41
  descReserved.any (fun r => f r.1 r.2 != 0) || f 63 60 != 1 || decide (npre > 4) ||
    (List.range 4).any (fun i => decide (npre ≤ i) && f (32 * i + 223) (32 * i + 192) != 0) ||
    (List.range 3).any (regionsBad d) || f 191 176 % 8 != 0 || decide (f 191 176 > 4096) || f 111 64 % 4 != 0 || f 815 768 % 4 != 0 ||
    f 943 896 % 4 != 0 || f 879 832 % 64 != 0 || f 1007 960 % 64 != 0 || decide (f 447 416 < 804096) || f 447 416 % 64 != 0 ||
    descGrid d == 0 || decide (descGrid d > 16) ||
    (descPre d).any (fun id => id == 0 || decide (a.nextId ≤ id)) || graphsBad 9 a.graphs [] [] ||
    a.kernels.any fun k => k.1 == f 111 64 && decide (f 191 176 < k.2)

/-- Submit a descriptor (R84): the status of R353 and the launch id. -/
def State.submit (s : State) (app die : Nat) (d : BitVec 1024) : State × Nat × Nat :=
  match tget s.apps app with
  | none => (s, 3, 0)
  | some a =>
    let part := tget s.parts a.part
    let lv := descF d 33 32
    let q := vget (s.die die).queue lv []
    if s.early && die != 0 then (s, 6, 0)
    else if !(part.any fun p => p.dies.contains die && p.st == .run) || !s.inService.getLsbD die then (s, 3, 0)
    else if descBad d a then (s, 6, 0)
    else if q.length ≥ 64 then (s, 5, 0)
    else
      let (l, s) := s.fresh
      let id := a.nextId
      let s := { s with
        launches := tput s.launches l ⟨app, id, die, d, .queued, 0, 0, false⟩
        apps := tput s.apps app { a with nextId := id + 1 } }
      let s := s.updDie die fun y => { y with queue := vset y.queue lv (q ++ [⟨l, 0⟩]) }
      (((s.failDeps s.launches.length)).post 0 (.placement die), 0, id)

/-! ### System calls (R353) -/

/-- The answer of a call to the control program. -/
def State.sysRet (s : State) (app num status : Nat) (r : List Word) : State :=
  { s with replies := s.replies ++ [.sys app num status r] }

/-- `exit` kills the application's launches with reason 1; a launch still queued ends with status 1. -/
def execExit (app : Nat) (code : Word) (s : State) : Host.Outcome State Fault Refusal :=
  .next (
    let s := (s.launches.filter fun p => p.2.app == app).foldl (fun s p =>
      match p.2.st with
      | .running => s.startKill p.2.die p.2.cid 1
      | .queued => s.endQueued p.1
      | .ended _ => s) s
    let s := match tget s.apps app with
      | some a => { s with apps := tput s.apps app { a with running := false } }
      | none => s
    s.sysRet app 0 0 [code])

/-- `log` of a buffer in the control program's memory. -/
def execLog (app addr len : Nat) (s : State) : Host.Outcome State Fault Refusal :=
  .next (
    if len > 4096 then s.sysRet app 1 3 []
    else { s with replies := s.replies ++ [Reply.log app (s.appMem.bytes addr len)] }.sysRet app 1 0 [])

/-- `mapx` of translated text (R356): checked as an image's, mapped, its entry returned. -/
def execMapx (app : Nat) (words : List IWord) (tail : Nat) (s : State) : Host.Outcome State Fault Refusal :=
  .next (
    let bs := words.flatMap fun w => leBytes 12 w.toNat
    match tget s.apps app with
    | none => s.sysRet app 2 3 []
    | some a =>
      if tail ≠ 0 ∨ !textOk bs (bs.length + 1) then s.sysRet app 2 3 []
      else match s.placeBytes (a.space s) (s.homeDie a.part) a.nextVa textWord bs with
        | none => s.sysRet app 2 4 []
        | some s =>
          let a' : App := { a with
            nextVa := a.nextVa + 2 ^ 16 * (pageSpan a.nextVa bs.length + 1)
            maps := a.maps ++ [(a.nextVa, bs.length)] }
          { s with apps := tput s.apps app a' }.sysRet app 2 0 [wordOf a.nextVa])

def execTranslatorQuotaExhausted (app : Nat) (s : State) : Host.Outcome State Fault Refusal := .next (s.sysRet app 2 4 [])

def execLaunch (app die : Nat) (desc : BitVec 1024) (s : State) : Host.Outcome State Fault Refusal :=
  .next (
    let (s, st, id) := s.submit app die desc
    s.sysRet app 3 st (if st = 0 then [wordOf id] else []))

/-- `wait`: at once for a launch that has ended, else until it ends or the timeout runs out. -/
def execWait (app launch timeout : Nat) (s : State) : Host.Outcome State Fault Refusal :=
  .next (match s.launchOf app launch with
    | none => s.sysRet app 4 3 []
    | some x =>
      match x.st with
      | .ended st => s.sysRet app 4 0 [wordOf st, x.exit]
      | _ =>
        let (n, s) := s.fresh
        let d := s.nsCycles timeout
        let due := if timeout = 0 then none else some (s.now + d)
        let s := { s with waits := s.waits ++ [⟨app, launch, n, due⟩] }
        if timeout = 0 then s else s.post d (.waitCallTimeout app launch))

/-- The timeout of a `wait` runs out: status 7. -/
def execWaitCallTimeout (app launch : Nat) (s : State) : Host.Outcome State Fault Refusal :=
  .next (
    let passed (w : WaitCall) : Bool := w.app == app && w.launch == launch && w.due.any fun d => decide (d ≤ s.now)
    (s.waits.filter passed).foldl (fun s _ => s.sysRet app 4 7 []) { s with waits := s.waits.filter (!passed ·) })

/-- `alloc` of bytes under a leaf's word0: a virtual address (R353). -/
def execAlloc (app bytes : Nat) (word0 : Word) (s : State) : Host.Outcome State Fault Refusal :=
  .next (match tget s.apps app with
    | none => s.sysRet app 5 3 []
    | some a =>
      let p := a.space s
      let die := s.homeDie a.part
      let large := word0.getLsbD 24
      let psz := if large then 2 ^ 28 else 2 ^ 16
      let va := (a.nextVa + psz - 1) / psz * psz
      let n := (bytes + psz - 1) / psz
      if bytes = 0 ∨ (kindOf word0.toNat).isNone ∨ !leafOk p.dev s.early large (sampleLeaf p.dev die word0) then s.sysRet app 5 3 []
      else match s.mapPages p die va word0.toNat n with
        | none => { s with free := s.free + 1 }.sysRet app 5 4 []
        | some s =>
          let a' : App := { a with nextVa := va + n * psz, maps := a.maps ++ [(va, n * psz)] }
          { s with apps := tput s.apps app a' }.sysRet app 5 0 [wordOf va])

/-- Clear the leaves of pages. -/
def State.unmap (s : State) (p : Space') : List Nat → State
  | [] => s
  | va :: vas =>
    match tableOf p.dev s.early (s.entryAt (p.root + 16 * (va / 2 ^ 40 % 256))) with
    | none => s.unmap p vas
    | some t2 =>
      let e2 := t2 + 16 * (va / 2 ^ 28 % 4096)
      match tableOf p.dev s.early (s.entryAt e2) with
      | some t3 => (s.putEntry (t3 + 16 * (va / 2 ^ 16 % 4096)) 0).unmap p vas
      | none => (s.putEntry e2 0).unmap p vas

/-- Whether a held leaf covers a byte of the 64 KiB units from u on (R205). -/
def TlbEnt.inUnits (x : TlbEnt) (cid u n : Nat) : Bool :=
  x.cid == cid && (if Entry.lrg x.leaf then decide (x.vpn / 4096 * 4096 < u + n) && decide (u < x.vpn / 4096 * 4096 + 4096)
    else decide (u ≤ x.vpn) && decide (x.vpn < u + n))

/-- Invalidate a context's leaves for units in every TLB of a die; walks held by waiting threads too (R205, R357). -/
def State.invalidate (s : State) (die cid u n : Nat) : State :=
  let core (p : Nat × Core) : Nat × Core :=
    if dieOf p.1 = die then
      let th := p.2.th.map fun (t : Thread) =>
        if p.2.run = some cid then { t with walked := t.walked.filter fun w => !(decide (u ≤ w.1) && decide (w.1 < u + n)) } else t
      (p.1, { p.2 with tlb := p.2.tlb.filter (!·.inUnits cid u n), th := th })
    else p
  let cluster (p : Nat × Cluster) : Nat × Cluster :=
    if p.1 / 16 = die then (p.1, { p.2 with tlb := p.2.tlb.filter (!·.inUnits cid u n) }) else p
  { s with cores := s.cores.map core, clusters := s.clusters.map cluster }

/-- `free` of a mapping: its pages are unmapped and invalidated for the application's contexts. -/
def execFree (app va : Nat) (s : State) : Host.Outcome State Fault Refusal :=
  .next (match tget s.apps app with
    | none => s.sysRet app 6 3 []
    | some a =>
      match a.maps.find? (·.1 == va) with
      | none => s.sysRet app 6 3 []
      | some (va, len) =>
        let n := pageSpan va len
        let s := s.unmap (a.space s) ((List.range n).map fun i => (va / 2 ^ 16 + i) * 2 ^ 16)
        let s := { s with apps := tput s.apps app { a with maps := a.maps.filter (·.1 != va) } }
        let mine := (s.launches.filter fun p => p.2.app == app && p.2.st == .running).map fun p => (p.2.die, p.2.cid)
        (mine.foldl (fun s p => s.invalidate p.1 p.2 (va / 2 ^ 16) n) s).sysRet app 6 0 [])

/-- An event record (R347). -/
def eventBytes (seq : Nat) (e : Event) : List Byte :=
  leBytes 8 (e.type + e.die * 2 ^ 8 + e.cid % 2 ^ 16 * 2 ^ 16 + seq % 2 ^ 32 * 2 ^ 32) ++ leBytes 8 e.w1.toNat ++ leBytes 8 e.w2.toNat ++
    leBytes 8 e.w3.toNat

/-- `event`: events in sequence order, each copied once. -/
def execEvent (app buf cap : Nat) (s : State) : Host.Outcome State Fault Refusal :=
  .next (
    let es := (s.events.drop s.copied).take cap
    let bs := es.flatMap fun e => eventBytes e.1 e.2
    { s with appMem := s.appMem.writeBytes buf bs, copied := s.copied + es.length }.sysRet app 7 0 [wordOf es.length])

/-- The record of `partition_info` (R353). -/
def State.partRecord (s : State) (part : Nat) : List Byte :=
  let p := (tget s.parts part).getD ⟨.unlocked, [], 0, []⟩
  let mask := p.dies.foldl (fun m d => m ||| 2 ^ d) 0
  leBytes 8 (p.dev % 64 + mask % 2 ^ 8 * 2 ^ 8 + part % 8 * 2 ^ 16 + s.early.toNat * 2 ^ 19) ++
    leBytes 8 (if s.early then 0 else p.dies.length * 2 ^ 37) ++ leBytes 48 0

def execPartitionInfo (app buf : Nat) (s : State) : Host.Outcome State Fault Refusal :=
  .next (match tget s.apps app with
    | none => s.sysRet app 8 3 []
    | some a => { s with appMem := s.appMem.writeBytes buf (s.partRecord a.part) }.sysRet app 8 0 [])

/-! ### Events (R347, R348) and the service of `HCALL` (R338) -/

/-- Argument i of a call from a thread. -/
def State.callArg (s : State) (e : Event) (i : Nat) : Nat := s.appMem.read (e.w3.toNat + 8 * i) 8

/-- The bytes of the context that a call from a thread reads or writes, with what it writes; none where they are none that it may name. -/
def State.callHits (s : State) (e : Event) : Option (List Hit) :=
  let x := s.ctx e.die e.cid
  let p : Space' := ⟨(s.partOf e.die e.cid).dev, x.root⟩
  let va := s.callArg e 0
  match e.w2.toNat with
  | 1 => if s.callArg e 1 > 4096 then none else s.vhits p va (List.replicate (s.callArg e 1) 0)
  | 3 => if va % 64 = 0 then s.vhits p va (List.replicate 128 0) else none
  | 8 => s.vhits p va (s.partRecord x.part)
  | _ => some []

/-- The code of the bad line that a call from a thread meets: reading, or writing a part of it (R208 step 7). -/
def State.callBad (s : State) (e : Event) (hs : List Hit) : Option Nat :=
  hs.findSome? fun h =>
    if e.w2.toNat = 8 then s.storeBad (h.tier ≤ 1) (hs.map (·.el)) h.el else s.badAt h.el.loc h.el.n

/-- The service of a call from a thread: status and results (R353). A bad line gives status 3 (notes/assumptions/105, DESIGN CHOICE), and
an integrity failure puts the partition into ERROR (R361). -/
def State.hcallServe (s : State) (e : Event) : State × Nat × Word × Word :=
  let app := ((tget s.launches (s.ctx e.die e.cid).launch).map (·.app)).getD 0
  match e.w2.toNat with
  | 0 | 2 | 4 | 5 | 6 | 7 => (s, 2, 0, 0)
  | n =>
    match s.callHits e with
    | none => (s, 3, 0, 0)
    | some hs =>
      match s.callBad e hs with
      | some c => (s.hurt e.die e.cid (some c), 3, 0, 0)
      | none =>
        let bs := hs.map fun h => s.mem.get h.el.loc
        if n = 1 then ({ s with replies := s.replies ++ [Reply.log app bs] }, 0, 0, 0)
        else if n = 3 then
          let (s, st, id) := s.submit app (s.callArg e 1) (BitVec.ofNat 1024 (leNat bs))
          (s, st, wordOf id, 0)
        else if n = 8 then
          (hs.foldl (fun s h => (s.serveEl
            ⟨0, 16, 0, e.cid, h.home, h.tier, .store, hs.map (·.el), [], none, 0, false, false, false⟩ h.el 0).1) s, 0, 0, 0)
        else (s, 1, 0, 0)

/-- The die, off, whose exit the service of an `HCALL` waits for (R364). -/
def State.callOff (s : State) (e : Event) : Option Nat :=
  if e.type = 8 ∧ (tget (s.die e.die).ctxs e.cid).isSome then s.offHit ((s.callHits e).getD []) else none

/-- `EVENT_ACCEPTANCE` (R348): the die's arbiter accepts its oldest event and passes it on; the package's sequence number records
the order. A kill that the event starts follows it (R333); the runtime answers an `HCALL` after a time that is not fixed. -/
def execEventAcceptance (die : Nat) (s : State) : Host.Outcome State Fault Refusal :=
  .next (match (s.die die).evq with
    | [] => s
    | e :: rest =>
      match s.callOff e with
      | some d => s.awaitDie d (.eventAcceptance die)
      | none =>
        let s := s.updDie die fun d => { d with evq := rest }
        let s := { s with events := s.events ++ [(s.seqNo, e)], seqNo := s.seqNo + 1 }
        let s := match e.kill with
          | some r => s.post 0 (.unhandledTrapKill die e.cid r)
          | none => s
        if e.type = 8 ∧ (tget (s.die die).ctxs e.cid).isSome then
          let (s, st, r1, r2) := s.hcallServe e
          s.postFree 1 (.hcallReply die e.cid e.call st r1 r2)
        else s)

end Sys2Proof.Machine
end

