-- ==== Sys2Proof/Machine/Control.lean ====
section
/-! DEFINITION. The context control (R357, R358), debug steps, static energy (R350) and the permit audit (R345). -/

namespace Sys2Proof.Machine

/-- `INVALIDATE` (R205, R357). -/
def execInvalidate (die cid va count : Nat) (s : State) : Host.Outcome State Fault Refusal :=
  .next (
    if (tget (s.die die).ctxs cid).isSome then (s.invalidate die cid (va % 2 ^ 48 / 2 ^ 16) count).ctlDone die 1 false 0
    else s.ctlDone die 1 false 0)

/-- `IDLE_READ` (R350). -/
def execIdleRead (die core : Nat) (s : State) : Host.Outcome State Fault Refusal :=
  .next (if dieOf core = die then s.ctlDone die 6 false (wordOf (s.core core).idle) else s.ctlDone die 6 true 0)

/-- `GROUP_SET` (R357): its members become the participants of a collective group of the die; cards that the die has posted for the
group, and that no other die has joined, join by it. -/
def execGroupSet (die group npart : Nat) (members : List (Nat × Nat)) (s : State) : Host.Outcome State Fault Refusal :=
  .next (
    if npart < 2 ∨ npart ≥ 256 ∨ members.length ≠ npart ∨ group ≥ 2 ^ 16 then s.ctlDone die 9 true 0
    else
      let s := { s with groups := tput s.groups (die * 2 ^ 16 + group) ⟨npart, members⟩ }
      let mine (x : Coll) : Bool := x.group == group && !x.ready && x.cards.all fun q => dieOf q.core == die
      let cards := (s.colls.filter fun p => mine p.2).flatMap (·.2.cards)
      let s := { s with colls := s.colls.filter fun p => !mine p.2 }
      let s := cards.foldl (fun s q => s.collJoin q) s
      let s := (s.colls.filter (·.2.group == group)).foldl (fun s p => s.post 0 (.collectivePhaseEnd p.1)) s
      s.ctlDone die 9 false 0)

/-! ### Debug (R346, R358) -/

/-- The context that a core of a die runs, if it may be debugged now. -/
def State.debugged (s : State) (die core : Nat) : Option Nat :=
  match (s.core core).run with
  | some cid =>
    let x := s.ctx die cid
    if dieOf core = die ∧ x.debug = true ∧ x.st = .running then some cid else none
  | none => none

/-- A halted core of a debugged context. -/
def State.haltedOf (s : State) (die cid core : Nat) : Bool := s.debugged die core == some cid && (s.core core).halted

def execDebugHalt (die core : Nat) (s : State) : Host.Outcome State Fault Refusal :=
  .next (match s.debugged die core with
    | some _ => (s.haltCore core).ctlDone die 7 false 0
    | none => s.ctlDone die 7 true 0)

def execDebugGo (die core : Nat) (s : State) : Host.Outcome State Fault Refusal :=
  .next (match s.debugged die core with
    | some cid => if s.haltedOf die cid core then (s.unhaltCore core).ctlDone die 8 false 0 else s.ctlDone die 8 true 0
    | none => s.ctlDone die 8 true 0)

/-- The image that a halted core's area would hold (R358). -/
def State.debugImage (s : State) (cid core : Nat) : Mem := ((s.core core).ctx cid).bufRec (s.coreRec core).image

def execDebugRead (die cid core off len buf : Nat) (s : State) : Host.Outcome State Fault Refusal :=
  .next (
    if (tget (s.die die).ctxs cid).isNone then s.ctlDone die 11 false 0
    else if !s.haltedOf die cid core || len == 0 || decide (areaEnd < off + len) then s.ctlDone die 11 true 0
    else { s with appMem := s.appMem.writeBytes buf ((s.debugImage cid core).bytes off len) }.ctlDone die 11 false 0)

/-- A thread with the written parts of its record taken over: its state, its wait and its turn stay. -/
def Thread.patched (t : Thread) (old new os ns : Mem) : Thread :=
  let r := t.load new ns
  let same (o n : Nat) : Bool := old.bytes o n == new.bytes o n
  { r with
    st := t.st, pend := t.pend, next := t.next, walked := t.walked, waitWas := t.waitWas, node := t.node, origin := t.origin
    hreply := t.hreply
    mon := if same 0x1C0 32 then t.mon else r.mon
    dfault := if same 0x1B0 8 then t.dfault else r.dfault
    str := if same 0x200 64 && os == ns then t.str else r.str
    g := if t.st = .exited then t.g else r.g
    exitV := if t.st = .exited then r.exitV else t.exitV }

/-- The bytes of a memory from an offset on, n of them, at offsets of their own. -/
def Mem.part (m : Mem) (b n : Nat) : Mem := (m.filter fun c => decide (b ≤ c.1) && decide (c.1 < b + n)).map fun c => (c.1 - b, c.2)

/-- Change the thread of a slot's record, wherever it is: in its slot, in a guest's slot, or on its way. -/
def State.updRec (s : State) (core slot : Nat) (f : Thread → Thread) : State :=
  let k := s.whereIs (core, slot)
  if k = (core, slot) ∧ (s.thr k).st = .away then
    { s with migs := s.migs.map fun p => if p.2.thr.origin == (core, slot) then (p.1, { p.2 with thr := f p.2.thr }) else p }
  else s.updThr k f

/-- Write thread records: none if a record fails the checks of a restore or would change its STATE (R358). A record that shows
FREE holds no thread: what is written there reaches none, neither a guest nor a node of the slot. -/
def State.patchThreads (s : State) (core : Nat) (old new : Mem) : List Nat → Option State
  | [] => some s
  | t :: ts =>
    let b := threadAt t
    let o := old.part b 4688
    let n := new.part b 4688
    if o == n then s.patchThreads core old new ts
    else if recordBad new b || bitsAt (o.read 0x198 8) 2 0 != bitsAt (n.read 0x198 8) 2 0 then none
    else if bitsAt (o.read 0x198 8) 2 0 = 0 then s.patchThreads core old new ts
    else
      let os := old.part (streamAt t 0) 4224
      (s.updRec core t fun x => x.patched o n os os).patchThreads core old new ts

/-- Write one byte of a typed-buffer or bitmap image; bytes past the context's grant have no place. -/
def State.patchByte (s : State) (core cid off : Nat) (b : Byte) : State :=
  let x := (s.core core).ctx cid
  let put (sp at' : Nat) : State := if at' < x.size sp then s.bufWrite core cid sp at' [b] else s
  if off < bufAt 1 then put 1 (off - bufAt 0)
  else if off < bufAt 3 then put 2 (off - bufAt 1)
  else if off < bufAt 2 then put 5 (off - bufAt 3)
  else put 3 (off - bufAt 2)

def execDebugWrite (die cid core off : Nat) (bytes : List Byte) (s : State) : Host.Outcome State Fault Refusal :=
  .next (
    let hi := off + bytes.length
    if (tget (s.die die).ctxs cid).isNone then s.ctlDone die 12 false 0
    else if !s.haltedOf die cid core || bytes.isEmpty then s.ctlDone die 12 true 0
    else if 0xF800 ≤ off ∧ hi ≤ 0x21D00 then
      let old := (s.coreRec core).image
      match s.patchThreads core old (old.writeBytes off bytes) (List.range 16) with
      | some s => s.ctlDone die 12 false 0
      | none => s.ctlDone die 12 true 0
    else if 0x32500 ≤ off ∧ hi ≤ areaEnd then
      ((bytes.mapIdx fun i b => (off + i, b)).foldl (fun s p => s.patchByte core cid p.1 p.2) s).ctlDone die 12 false 0
    else s.ctlDone die 12 true 0)

/-- `DEBUG_STEP`: one thread of a halted core may issue once; DONE waits for the step's end. -/
def execDebugStep (die cid core thread : Nat) (s : State) : Host.Outcome State Fault Refusal :=
  .next (
    let live := decide (thread < 16) && (match (s.thr (core, thread)).st with
      | .ready | .waiting | .guest | .node => true
      | _ => false)
    if (tget (s.die die).ctxs cid).isNone then s.ctlDone die 13 false 0
    else if !s.haltedOf die cid core || !live || (s.core core).dstep.isSome then s.ctlDone die 13 true 0
    else (s.updCore core fun c => { c with dstep := some thread }).updDie die fun d => { d with done := false, err := false })

/-- The stepped instruction has ended: the core is halted again, and the command is DONE. -/
def execDebugStepEnd (core slot : Nat) (s : State) : Host.Outcome State Fault Refusal :=
  .next (
    if (s.core core).dstep = some slot then
      (s.updCore core fun c => { c with dstep := none }).ctlDone (dieOf core) 13 false 0
    else s)

/-! ### Static energy (R350) -/

/-- Banks that a context holds on a core. -/
def CCtx.bankCount (x : CCtx) : Nat := ((x.regions.filter (·.resident)).map (·.banks)).sum

/-- Each context's part of 1,024 cycles' static energy; the remainder is the core's idle account's. -/
def execStaticEnergyTick (core : Nat) (s : State) : Host.Outcome State Fault Refusal :=
  .next (s.updCore core fun c =>
    let part (x : CCtx) : Nat := 2048 * x.bankCount / 384
    { c with
      ctxs := c.ctxs.map fun p => (p.1, p.2.owe s.now s.now (part p.2))
      idle := c.idle + (2048 - (c.ctxs.map fun p => part p.2).sum) })

/-! ### The permit audit (R345): a link direction and message class that the state does not list is at its total -/

/-- The audit of a die: a sum that is not the configured total is told, and the link is retrained within 2,048 cycles. -/
def execPermitAudit (die : Nat) (s : State) : Host.Outcome State Fault Refusal :=
  .next ((s.die die).links.foldl (fun s p =>
    if p.2.permits + p.2.slots = p.2.total ∨ p.2.retrain.isSome then s
    else
      let (n, s) := s.freeNat
      let d := n % 2048 + 1
      let s := s.postEvent { type := 7, die := die, cid := 0, w1 := wordOf p.1, w2 := 0, w3 := 0, kill := none }
      (s.updDie die fun x => { x with links := tput x.links p.1 { p.2 with retrain := some (s.now + d) } }).post d
        (.linkRetrainEnd die p.1)) s)

/-- A retrained link has delivered its flits, its permits are reset, and it resumes. -/
def execLinkRetrainEnd (die link : Nat) (s : State) : Host.Outcome State Fault Refusal :=
  .next (match tget (s.die die).links link with
    | some l =>
      if l.retrain.any fun t => decide (t ≤ s.now) then
        s.updDie die fun x => { x with links := tput x.links link { l with permits := l.total, slots := 0, retrain := none } }
      else s
    | none => s)

end Sys2Proof.Machine
end

