-- ==== Sys2Proof/Machine/HostSide.lean ====
section
/-! DEFINITION. Boot (R363), partitions and TDISP (R359, R361), peer links (R359), SPDM (R362), power (R364) and the BAR0
registers (R351). -/

namespace Sys2Proof.Machine

/-! ### Boot (R363) -/

/-- Put a die into service: its 256 cores and its arbiter exist from now on. -/
def State.enterDie (s : State) (die : Nat) : State :=
  let s := s.updDie die id
  (List.range 256).foldl (fun s i => s.updCore (die * 256 + i) id) s

/-- `ROM_VERIFY`: from RESET into ROM, then, with every image verified, EARLY with die 0 alone at 650 MHz; else FAIL. -/
def execRomVerify (s : State) : Host.Outcome State Fault Refusal :=
  .next (
    if s.boot = 0 then ({ s with boot := 1 }).postFree 1 .romVerify
    else if s.boot = 1 then
      let (ok, s) := s.freeBool
      if ok then
        ({ s with boot := 2, inService := 1, clock := 650, parts := [(0, ⟨.unlocked, [0], 0, []⟩)] }.enterDie 0).postFree 1 .fullEntry
      else { s with boot := 4 }
    else s)

/-- `FULL_ENTRY`: training and repair have ended; once no launch runs the device is in FULL, and what waited is placed. -/
def execFullEntry (s : State) : Host.Outcome State Fault Refusal :=
  .next (
    if s.boot ≠ 2 then s
    else
      let s := { s with trained := true }
      if s.launches.any fun p => p.2.st == .running then s.post 1 .fullEntry
      else
        let s := { s with boot := 3, inService := 0xFF, clock := 1300 }
        ((List.range 8).foldl (fun s d => s.enterDie d) s).placeAll)

/-! ### Partitions and TDISP (R361) -/

def Part.empty : Part := ⟨.unlocked, [], 0, []⟩
def State.updPart (s : State) (p : Nat) (f : Part → Part) : State :=
  match tget s.parts p with
  | some x => { s with parts := tput s.parts p (f x) }
  | none => s

/-- Kill every context of a partition with reason 1; its queued launches end with status 1. -/
def State.killPart (s : State) (part : Nat) : State :=
  let s := s.dies.foldl (fun s p => (p.2.ctxs.filter (·.2.part == part)).foldl (fun s c => s.startKill p.1 c.1 1) s) s
  let apps := (s.apps.filter (·.2.part == part)).map (·.1)
  (s.launches.filter fun p => apps.contains p.2.app && p.2.st == .queued).foldl
    (fun s p => s.endQueued p.1) s

/-- `TDI_ERROR`: an integrity failure, a link taken down or a configuration change while locked. -/
def execTdiError (part : Nat) (s : State) : Host.Outcome State Fault Refusal :=
  .next (match tget s.parts part with
    | some p => if p.st = .locked ∨ p.st = .run then (s.updPart part fun p => { p with st := .error }).killPart part else s
    | none => s)

/-- Whether a partition may have a device number beside the others (R359): each has its own, and those of a package alone are
numbered from 0 in the order of their indexes. -/
def State.deviceOk (s : State) (part device : Nat) : Bool :=
  let others := s.parts.filter fun p => p.1 != part && !p.2.dies.isEmpty
  others.all (fun p => p.2.dev != device) &&
    ((decide (device ≤ part) && others.all fun p => decide (p.1 < part) == decide (p.2.dev < device)) || Config.domain)

/-- Whether the partitions of a package alone are numbered 0 to n - 1 in ascending index (R359); a partition is locked only then. -/
def State.numbered (s : State) : Bool :=
  let ps := s.parts.filter fun p => !p.2.dies.isEmpty
  Config.domain || ps.all fun p => p.2.dev == (ps.filter fun q => decide (q.1 < p.1)).length

/-- Whether a configuration is one that R359, R361 and R363 allow. -/
def State.configOk (s : State) (part device : Nat) (dies keys : List Nat) : Bool :=
  decide (part < 8) && decide (device < 64) && [1, 2, 4, 8].contains dies.length && (dedup dies).length == dies.length &&
    dies.all (fun d => s.inService.getLsbD d) && keys.all (fun k => decide (1 ≤ k) && decide (k ≤ 15)) &&
    (s.parts.all fun p => p.1 == part || !(p.2.dies.any dies.contains)) &&
    (!s.early || (part == 0 && dies == [0] && device == 0)) && s.deviceOk part device

/-- `PARTITION_CONFIGURATION` (R359, R361): accepted while unlocked; a change while locked is an error of the partition. -/
def execPartitionConfiguration (part device : Nat) (dies : List Nat) (keys : List Nat) (s : State) : Host.Outcome State Fault Refusal :=
  .next (
    match (tget s.parts part).getD Part.empty with
    | ⟨.unlocked, _, _, _⟩ =>
      if s.configOk part device dies keys then { s with parts := tput s.parts part ⟨.unlocked, dies, device, keys⟩ } else s
    | _ => s.post 0 (.tdiError part))

/-- Zero the SRAM and the LPDDR-6 of a partition's dies, and their typed buffers. -/
def State.scrub (s : State) (p : Part) : State :=
  let own (loc : Nat) : Bool := decide (loc < 2 ^ 52) && p.dies.any fun d => loc / 2 ^ 43 == p.dev * 8 + d
  let core (c : Nat × Core) : Nat × Core := if p.dies.contains (dieOf c.1) then (c.1, { c.2 with ctxs := [] }) else c
  { s with
    mem := s.mem.filter fun c => !own c.1
    badLines := s.badLines.filter fun b => !own (b.1 * 64)
    cores := s.cores.map core }

def execLockInterface (part : Nat) (s : State) : Host.Outcome State Fault Refusal :=
  .next (match tget s.parts part with
    | some p => if p.st = .unlocked ∧ s.numbered then (s.scrub p).updPart part fun p => { p with st := .locked } else s
    | none => s)

def execStartInterface (part : Nat) (s : State) : Host.Outcome State Fault Refusal :=
  .next (match tget s.parts part with
    | some p => if p.st = .locked then s.updPart part fun p => { p with st := .run } else s
    | none => s)

/-- `STOP_INTERFACE`: the partition runs nothing any more. -/
def execStopInterface (part : Nat) (s : State) : Host.Outcome State Fault Refusal :=
  .next (match tget s.parts part with
    | some _ => (s.updPart part fun p => { p with st := .unlocked }).killPart part
    | none => s)

/-! ### Peer links (R359): port 2d and 2d + 1 are die d's -/

def State.port (s : State) (n : Nat) : Port := (tget s.ports n).getD ⟨false, 0, false⟩

/-- A request in flight fails with INTEGRITY if it goes to a device that its die reaches only through a port (R359). -/
def Req.cut (r : Req) (port : Nat) : Req :=
  match r.els.find? fun e => Config.onlyLink (dieOf r.core) port (e.loc / 2 ^ 46 % 64) with
  | some e => if r.tier = 2 ∧ r.accepted = false ∧ r.fault = none then { r with fault := some (0x18, e.va) } else r
  | none => r

/-- A link is down: accesses in flight to devices reached only through it fail, and partitions of its die go to ERROR (R359, R361). -/
def State.linkDown (s : State) (port : Nat) : State :=
  let parts := (s.parts.filter fun p => p.2.dies.contains (port / 2)).map (·.1)
  parts.foldl (fun s p => s.post 0 (.tdiError p)) { s with reqs := s.reqs.map fun p => (p.1, p.2.cut port) }

/-- `LINK_BLOCK_RECEIVE`: a block with a bad tag is discarded and sent again; the eighth in a row takes the link down. -/
def execLinkBlockReceive (port : Nat) (tagOk : Bool) (s : State) : Host.Outcome State Fault Refusal :=
  .next (
    let p := s.port port
    let put (q : Port) : State := { s with ports := tput s.ports port q }
    if !p.up then s
    else if tagOk then put { p with fails := 0 }
    else if p.fails + 1 < 8 then put { p with fails := p.fails + 1 }
    else (put ⟨false, 0, false⟩).linkDown port)

/-! ### SPDM (R362); the codes are SPDM 1.2's (notes/assumptions/70) -/

def State.spdmSend (s : State) (code : Nat) (ws : List (BitVec 256)) : State := { s with replies := s.replies ++ [.spdm code ws] }

/-- ERROR, unexpected request. -/
def State.spdmErr (s : State) : State := s.spdmSend 0x7F [4]

/-- A value of the responder that is not fixed: a nonce, a signature, a certificate. -/
def State.spdmValue (s : State) (n : Nat) : State × List (BitVec 256) :=
  ({ s with free := s.free + 4 * n }, (List.range n).map fun i =>
    (Config.freeWord (s.free + 4 * i) ++ (Config.freeWord (s.free + 4 * i + 1) ++
      (Config.freeWord (s.free + 4 * i + 2) ++ Config.freeWord (s.free + 4 * i + 3)))))

def execGetVersion (s : State) : Host.Outcome State Fault Refusal :=
  .next ({ s with spdm := { s.spdm with version := true, caps := false, algs := false, kex := none } }.spdmSend 0x04 [0x1200])

def execGetCapabilities (s : State) : Host.Outcome State Fault Refusal :=
  .next (
    if s.spdm.version then
      let (s, v) := s.spdmValue 1
      { s with spdm := { s.spdm with caps := true } }.spdmSend 0x61 v
    else s.spdmErr)

/-- The algorithms of R362: RSAPSS-3072, SHA-256, FFDHE3072, AES-256-GCM. -/
def execNegotiateAlgorithms (s : State) : Host.Outcome State Fault Refusal :=
  .next (
    if s.spdm.caps then { s with spdm := { s.spdm with algs := true } }.spdmSend 0x63 [0x08, 0x1, 0x2, 0x2] else s.spdmErr)

/-- A request that needs the algorithms agreed. -/
def State.spdmAsk (s : State) (code n : Nat) (ws : List (BitVec 256)) : State :=
  if s.spdm.algs then
    let (s, v) := s.spdmValue n
    s.spdmSend code (ws ++ v)
  else s.spdmErr

def execGetDigests (s : State) : Host.Outcome State Fault Refusal := .next (s.spdmAsk 0x01 1 [])
def execGetCertificate (s : State) : Host.Outcome State Fault Refusal := .next (s.spdmAsk 0x02 32 [])

/-- `CHALLENGE`: the answer holds the nonce it signs and a signature of 3,072 bits. -/
def execChallenge (nonce : BitVec 256) (s : State) : Host.Outcome State Fault Refusal := .next (s.spdmAsk 0x03 14 [nonce])

/-- A partition's configuration as a number: dies, device number, key slots (R362 index 4). -/
def Part.config (p : Part) : Nat :=
  p.dev + (p.dies.foldl (fun m d => m ||| 2 ^ d) 0) * 2 ^ 6 + (p.keys.foldl (fun m d => m ||| 2 ^ d) 0) * 2 ^ 14

/-- Measurement i; index 4 is one digest for each partition. -/
def State.measured (s : State) (i : Nat) : List (BitVec 256) :=
  if i = 4 then s.parts.map fun p => Config.measure 4 (p.2.config) else [Config.measure i 0]

/-- `GET_MEASUREMENTS`: index 0 asks how many there are, 0xFF for all. -/
def execGetMeasurements (index : Nat) (s : State) : Host.Outcome State Fault Refusal :=
  .next (
    if index = 0 then s.spdmAsk 0x60 0 [5]
    else if index = 0xFF then s.spdmAsk 0x60 0 ([1, 2, 3, 4, 5].flatMap s.measured)
    else if index ≤ 5 then s.spdmAsk 0x60 0 (s.measured index)
    else s.spdmErr)

/-- `KEY_EXCHANGE`, with the host or over a peer port. -/
def execKeyExchange (port : Option Nat) (s : State) : Host.Outcome State Fault Refusal :=
  .next (
    if s.spdm.algs then
      let (s, v) := s.spdmValue 24
      { s with spdm := { s.spdm with kex := some port } }.spdmSend 0x64 v
    else s.spdmErr)

/-- `FINISH`: the session is set up; a peer port has its key, and its link is up (R359). -/
def execFinish (port : Option Nat) (s : State) : Host.Outcome State Fault Refusal :=
  .next (
    if s.spdm.kex = some port then
      let s := { s with spdm := { s.spdm with kex := none, sessions := s.spdm.sessions + 1 } }
      let s := match port with
        | some n => { s with ports := tput s.ports n ⟨true, 0, true⟩ }
        | none => s
      s.spdmSend 0x65 []
    else s.spdmErr)

/-! ### Power (R364) -/

/-- Whether a unit holds no running context and no queued work. -/
def State.unitIdle (s : State) (unit i : Nat) : Bool :=
  match unit with
  | 0 => (s.core i).run.isNone && (s.core i).homeQ.isEmpty
  | 1 => (s.cluster i).run.isNone && (s.cluster i).eq.held.isEmpty && (coresOf [i]).all fun c => (s.core c).homeQ.isEmpty
  | 2 =>
    let d := s.die i
    (d.ctxs.all fun p => p.2.st == .out) && d.queue.toList.all (·.isEmpty) && d.walks.isEmpty && d.evq.isEmpty && d.colq.held.isEmpty &&
      s.cores.all fun p => dieOf p.1 != i || p.2.homeQ.isEmpty
  | _ => (List.range 8).all fun d => !s.inService.getLsbD d || (s.die d).off

/-- `POWER_STATE_ENTRY`: an idle unit enters its state, if the exit latency is within the tolerance. -/
def execPowerStateEntry (unit index : Nat) (s : State) : Host.Outcome State Fault Refusal :=
  .next (
    if s.boot < 2 ∨ s.tolerance.toNat < exitNs unit ∨ !s.unitIdle unit index then s
    else match unit with
      | 0 => s.updCore index fun c => { c with pwr := 1 }
      | 1 => s.updCluster index fun c => { c with pwr := 1 }
      | 2 => (s.updDie index fun d => { d with off := true }).post 0 (.powerStateEntry 3 0)
      | _ => { s with deep := true })

/-- The homes of these cores at which a request waits go on. -/
def State.homesGo (s : State) (cs : List Nat) : State :=
  (cs.filter fun c => !(s.core c).homeQ.isEmpty).foldl (fun s c => s.post 0 (.homeAccess c)) s

/-- `POWER_STATE_EXIT`: the exit latency has passed; what waited for the unit goes on. -/
def execPowerStateExit (unit index : Nat) (s : State) : Host.Outcome State Fault Refusal :=
  .next (match unit with
    | 0 => ((s.updCore index fun c => { c with pwr := 0 }).homesGo [index]).post 0 (.placement (dieOf index))
    | 1 => ((s.updCluster index fun c => { c with pwr := 0 }).homesGo (coresOf [index])).post 0 (.placement (index / 16))
    | 2 =>
      if s.deep then s
      else
        let s := s.updDie index fun d => { d with off := false }
        (s.homesGo ((s.cores.filter fun p => dieOf p.1 == index).map (·.1))).post 0 (.placement index)
    | _ => { s with deep := false })

/-- The tolerance changes; a tolerance below 20 ns keeps everything awake. -/
def State.setTolerance (s : State) (ns : Nat) : State :=
  let s := { s with tolerance := wordOf ns }
  s.dies.foldl (fun s p =>
    if ns ≥ 20 then s.sleepCheck p.1
    else (s.asleep p.1).foldl (fun s u => s.wake 0 u.1 u.2) (s.wakeDie p.1)) s

def execLatencyToleranceWrite (ns : Nat) (s : State) : Host.Outcome State Fault Refusal := .next (s.setTolerance ns)

/-- The module cap: 2,400 W, or a lower one. -/
def State.setCap (s : State) (watts : Nat) : State := { s with cap := wordOf (Nat.min watts 2400) }

def execPowerCapWrite (watts : Nat) (s : State) : Host.Outcome State Fault Refusal := .next (s.setCap watts)

/-- `CLOCK_THROTTLE`: the measured module power is above the cap, and the compute clock drops by 100 MHz. -/
def execClockThrottle (watts : Nat) (s : State) : Host.Outcome State Fault Refusal :=
  .next (if s.cap.toNat < watts ∧ 100 < s.clock then { s with clock := s.clock - 100 } else s)

/-- A host write to BAR0 (R351): device status is read only; the registers of R364 act as their own rows say. -/
def execHostRegisterWrite (off : Nat) (v : Word) (s : State) : Host.Outcome State Fault Refusal :=
  .next (
    if off = 0 ∨ 2 ^ 26 ≤ off then s
    else if off = 0x40 then s.setTolerance v.toNat
    else if off = 0x48 then s.setCap v.toNat
    else { s with bar0 := tput s.bar0 off v })

/-- The device status register (R363). -/
def State.deviceStatus (s : State) : Word := wordOf (s.boot + s.inService.toNat * 2 ^ 8)

end Sys2Proof.Machine
end

