-- ==== Sys2Proof/Machine/Scalar.lean ====
section
/-! DEFINITION. Scalar integer instructions, opcodes 0x20 to 0x3A (R116 to R126). -/

namespace Sys2Proof.Machine

/-- The width of the form. -/
def wd (w32 : Bool) : Nat := if w32 then 32 else 64

/-- `fin(v)`: sext(64, v[w−1:0]) (R116). -/
def fin (w32 : Bool) (v : Int) : Word := BitVec.ofInt 64 (Num.sgn (wd w32) (Num.wrap (wd w32) v))

def finN (w32 : Bool) (v : Nat) : Word := fin w32 (v : Int)

/-- An integer instruction on A and `opB(S)`, given as w-bit integers, signed and unsigned. -/
def aluS (i : Instr) (gd : Guard) (d a : GReg) (b : OpB) (f : Word → Word → Word) (s : State) :
    Host.Outcome State Fault Refusal :=
  issue i gd 4 (fun r s => .writeG d (f (r.t.rg a) (OpB.sx r.t b)) s) s

/-- An integer instruction on A and `opB(Z)`. -/
def aluZ (i : Instr) (gd : Guard) (d a : GReg) (b : OpB) (f : Word → Word → Word) (s : State) :
    Host.Outcome State Fault Refusal :=
  issue i gd 4 (fun r s => .writeG d (f (r.t.rg a) (OpB.zx r.t b)) s) s

def sw (w32 : Bool) (x : Word) : Int := Num.sgn (wd w32) x.toNat
def uw (w32 : Bool) (x : Word) : Nat := x.toNat % 2 ^ wd w32

/-- `r` clamped to the signed range of w bits when SAT is set (R118). -/
def satInt (w32 sat : Bool) (r : Int) : Int :=
  let hi : Int := 2 ^ (wd w32 - 1) - 1
  let lo : Int := -(2 ^ (wd w32 - 1))
  if sat then (if r < lo then lo else if hi < r then hi else r) else r

def addFn (w32 sat : Bool) (a b : Word) : Word := fin w32 (satInt w32 sat (sw w32 a + sw w32 b))
def subFn (w32 sat : Bool) (a b : Word) : Word := fin w32 (satInt w32 sat (sw w32 a - sw w32 b))
def mulFn (w32 : Bool) (a b : Word) : Word := fin w32 (sw w32 a * sw w32 b)

/-- The upper half of the product; floor division by 2^w (R118). -/
def mulhFn (w32 : Bool) (v : MulhV) (a b : Word) : Word :=
  let x : Int := if v = .u then (uw w32 a : Int) else sw w32 a
  let y : Int := if v = .s then sw w32 b else (uw w32 b : Int)
  fin w32 ((x * y) / 2 ^ wd w32)

def divFn (w32 u : Bool) (a b : Word) : Word :=
  if u then finN w32 (uw w32 a / uw w32 b) else fin w32 ((sw w32 a).tdiv (sw w32 b))

def remFn (w32 u : Bool) (a b : Word) : Word :=
  if u then finN w32 (uw w32 a % uw w32 b) else fin w32 ((sw w32 a).tmod (sw w32 b))

def shlFn (w32 : Bool) (a b : Word) : Word := finN w32 (uw w32 a * 2 ^ (b.toNat % wd w32))

def shrFn (w32 arith : Bool) (a b : Word) : Word :=
  let n := b.toNat % wd w32
  if arith then fin w32 (sw w32 a / 2 ^ n) else finN w32 (uw w32 a / 2 ^ n)

def rotFn (w32 right : Bool) (a b : Word) : Word :=
  let n := b.toNat % wd w32
  let w := wd w32
  let u := uw w32 a
  if right then finN w32 (u / 2 ^ n + u * 2 ^ (w - n)) else finN w32 (u * 2 ^ n + u / 2 ^ (w - n))

def minFn (w32 u : Bool) (a b : Word) : Word :=
  if u then finN w32 (if uw w32 a ≤ uw w32 b then a else b).toNat
  else finN w32 (if sw w32 a ≤ sw w32 b then a else b).toNat

def maxFn (w32 u : Bool) (a b : Word) : Word :=
  if u then finN w32 (if uw w32 a ≥ uw w32 b then a else b).toNat
  else finN w32 (if sw w32 a ≥ sw w32 b then a else b).toNat

/-- Leading zeros of a w-bit value; w for zero (R120). -/
def clzN (w v : Nat) : Nat := if v = 0 then w else w - 1 - v.log2

/-- Trailing zeros of a w-bit value; w for zero (R120). -/
def ctzN (v : Nat) : Nat → Nat
  | 0 => 0
  | n + 1 => if v % 2 = 1 then 0 else 1 + ctzN (v / 2) n

def popN (v : Nat) : Nat → Nat
  | 0 => 0
  | n + 1 => v % 2 + popN (v / 2) n

def plogFn (op : PlogOp) (a b : Word) : Word :=
  match op with
  | .and => a &&& b
  | .or => a ||| b
  | .xor => a ^^^ b
  | .andn => a &&& ~~~b
  | .orn => a ||| ~~~b
  | .nand => ~~~(a &&& b)
  | .nor => ~~~(a ||| b)
  | .xnor => ~~~(a ^^^ b)

/-- A bit field (R125): position, width, sign. -/
def extFn (sx : Bool) (a b : Word) : Word :=
  let pos := b.toNat % 64
  let wid := Nat.min (b.toNat / 256 % 128) 64
  let f := (a.toNat / 2 ^ pos) % 2 ^ wid
  if wid = 0 then 0 else if sx then BitVec.ofInt 64 (Num.sgn wid f) else BitVec.ofNat 64 f

/-- A field of c put into a; bits past 63 are cut (R125). -/
def insFn (a b c : Word) : Word :=
  let pos := b.toNat % 64
  let wid := Nat.min (b.toNat / 256 % 128) 64
  let m : Word := (BitVec.ofNat 64 (2 ^ wid - 1)) <<< pos
  (a &&& ~~~m) ||| ((c <<< pos) &&& m)

def execAdd (gd : Guard) (w32 sat : Bool) (d a : GReg) (b : OpB) (s : State) : Host.Outcome State Fault Refusal :=
  aluS (.add gd w32 sat d a b) gd d a b (addFn w32 sat) s

def execSub (gd : Guard) (w32 sat : Bool) (d a : GReg) (b : OpB) (s : State) : Host.Outcome State Fault Refusal :=
  aluS (.sub gd w32 sat d a b) gd d a b (subFn w32 sat) s

def execMul (gd : Guard) (w32 : Bool) (d a : GReg) (b : OpB) (s : State) : Host.Outcome State Fault Refusal :=
  aluS (.mul gd w32 d a b) gd d a b (mulFn w32) s

def execMulh (gd : Guard) (w32 : Bool) (v : MulhV) (d a : GReg) (b : OpB) (s : State) :
    Host.Outcome State Fault Refusal :=
  aluS (.mulh gd w32 v d a b) gd d a b (mulhFn w32 v) s

/-- A division traps INT_DIVIDE_BY_ZERO when the low w bits of the divisor are 0 (R118). -/
def divide (i : Instr) (gd : Guard) (w32 : Bool) (d a : GReg) (b : OpB) (f : Word → Word → Word) (s : State) :
    Host.Outcome State Fault Refusal :=
  issue i gd 4 (fun r s =>
    let y := OpB.sx r.t b
    if uw w32 y = 0 then .trap .intDivideByZero 0 else .writeG d (f (r.t.rg a) y) s) s

def execDiv (gd : Guard) (w32 u : Bool) (d a : GReg) (b : OpB) (s : State) : Host.Outcome State Fault Refusal :=
  divide (.div gd w32 u d a b) gd w32 d a b (divFn w32 u) s

def execRem (gd : Guard) (w32 u : Bool) (d a : GReg) (b : OpB) (s : State) : Host.Outcome State Fault Refusal :=
  divide (.rem gd w32 u d a b) gd w32 d a b (remFn w32 u) s

def execAnd (gd : Guard) (w32 : Bool) (d a : GReg) (b : OpB) (s : State) : Host.Outcome State Fault Refusal :=
  aluZ (.and gd w32 d a b) gd d a b (fun x y => finN w32 (x &&& y).toNat) s

def execOr (gd : Guard) (w32 : Bool) (d a : GReg) (b : OpB) (s : State) : Host.Outcome State Fault Refusal :=
  aluZ (.or gd w32 d a b) gd d a b (fun x y => finN w32 (x ||| y).toNat) s

def execXor (gd : Guard) (w32 : Bool) (d a : GReg) (b : OpB) (s : State) : Host.Outcome State Fault Refusal :=
  aluZ (.xor gd w32 d a b) gd d a b (fun x y => finN w32 (x ^^^ y).toNat) s

def execAndn (gd : Guard) (w32 : Bool) (d a : GReg) (b : OpB) (s : State) : Host.Outcome State Fault Refusal :=
  aluZ (.andn gd w32 d a b) gd d a b (fun x y => finN w32 (x &&& ~~~y).toNat) s

def execShl (gd : Guard) (w32 : Bool) (d a : GReg) (b : OpB) (s : State) : Host.Outcome State Fault Refusal :=
  aluZ (.shl gd w32 d a b) gd d a b (shlFn w32) s

def execShr (gd : Guard) (w32 arith : Bool) (d a : GReg) (b : OpB) (s : State) : Host.Outcome State Fault Refusal :=
  aluZ (.shr gd w32 arith d a b) gd d a b (shrFn w32 arith) s

def execRot (gd : Guard) (w32 right : Bool) (d a : GReg) (b : OpB) (s : State) : Host.Outcome State Fault Refusal :=
  aluZ (.rot gd w32 right d a b) gd d a b (rotFn w32 right) s

def execMin (gd : Guard) (w32 u : Bool) (d a : GReg) (b : OpB) (s : State) : Host.Outcome State Fault Refusal :=
  aluS (.min gd w32 u d a b) gd d a b (minFn w32 u) s

def execMax (gd : Guard) (w32 u : Bool) (d a : GReg) (b : OpB) (s : State) : Host.Outcome State Fault Refusal :=
  aluS (.max gd w32 u d a b) gd d a b (maxFn w32 u) s

def execClz (gd : Guard) (w32 trailing : Bool) (d a : GReg) (s : State) : Host.Outcome State Fault Refusal :=
  issue (.clz gd w32 trailing d a) gd 4 (fun r s =>
    let u := uw w32 (r.t.rg a)
    .writeG d (finN w32 (if trailing then ctzN u (wd w32) else clzN (wd w32) u)) s) s

def execPopc (gd : Guard) (w32 : Bool) (d a : GReg) (s : State) : Host.Outcome State Fault Refusal :=
  issue (.popc gd w32 d a) gd 4 (fun r s => .writeG d (finN w32 (popN (uw w32 (r.t.rg a)) (wd w32))) s) s

def execSel (gd : Guard) (w32 : Bool) (d a : GReg) (b : OpB) (c : PReg) (s : State) :
    Host.Outcome State Fault Refusal :=
  issue (.sel gd w32 d a b c) gd 4 (fun r s =>
    .writeG d (finN w32 (if (r.t.rp c).getLsbD 0 then r.t.rg a else OpB.sx r.t b).toNat) s) s

def execCmp (gd : Guard) (w32 : Bool) (cond : Cond) (d : PReg) (a : GReg) (b : OpB) (s : State) :
    Host.Outcome State Fault Refusal :=
  issue (.cmp gd w32 cond d a b) gd 4 (fun r s =>
    .writeP d (maskOf (intCond (wd w32) cond (r.t.rg a).toNat (OpB.sx r.t b).toNat)) s) s

def execPlog (gd : Guard) (op : PlogOp) (d a b : PReg) (s : State) : Host.Outcome State Fault Refusal :=
  issue (.plog gd op d a b) gd 4 (fun r s => .writeP d (plogFn op (r.t.rp a) (r.t.rp b)) s) s

/-- `opB(S)` of `MOV` (R123). -/
def MovB.val (t : Thread) : MovB → Word
  | .g r => t.rg r
  | .p r => t.rp r
  | .lit v => v.signExtend 64

def execMov (gd : Guard) (w32 : Bool) (d : MovD) (b : MovB) (s : State) : Host.Outcome State Fault Refusal :=
  issue (.mov gd w32 d b) gd 4 (fun r s =>
    let v := finN w32 (MovB.val r.t b).toNat
    match d with
    | .g x => .writeG x v s
    | .p x => .writeP x v s) s

def execMovh (gd : Guard) (d : GReg) (b : OpB) (s : State) : Host.Outcome State Fault Refusal :=
  issue (.movh gd d b) gd 4 (fun r s =>
    .writeG d ((OpB.zx r.t b).extractLsb' 0 32 ++ (r.t.rg d).extractLsb' 0 32) s) s

def execMovs (gd : Guard) (d : GReg) (r : SReg) (s : State) : Host.Outcome State Fault Refusal :=
  issueSeen (.movs gd d r) gd 4 (fun s => [s.sreg s.cur r]) (fun l _ s => .writeG d (l.headD 0) s) s

def execWrs (gd : Guard) (r : WSReg) (b : OpB) (s : State) : Host.Outcome State Fault Refusal :=
  issue (.wrs gd r b) gd 4 (fun x s =>
    let v := OpB.zx x.t b
    match r with
    | .fmode =>
      if (v.extractLsb' 0 3).toNat > 4 then .trap .illegalOperand (BitVec.ofNat 64 (0x200 + OpB.spec b))
      else .done {} (s.updThr x.k fun t => { t with fmode := v.extractLsb' 0 10 })
    | .fflags => .done {} (s.updThr x.k fun t => { t with fflags := v.extractLsb' 0 5 })) s

def execExt (gd : Guard) (sx : Bool) (d a : GReg) (b : OpB) (s : State) : Host.Outcome State Fault Refusal :=
  aluZ (.ext gd sx d a b) gd d a b (extFn sx) s

def execIns (gd : Guard) (d a : GReg) (b : OpB) (c : GReg) (s : State) : Host.Outcome State Fault Refusal :=
  issue (.ins gd d a b c) gd 4 (fun r s => .writeG d (insFn (r.t.rg a) (OpB.zx r.t b) (r.t.rg c)) s) s

def execLea (gd : Guard) (w32 : Bool) (k : Fin 5) (d a : GReg) (b : OpB) (s : State) :
    Host.Outcome State Fault Refusal :=
  aluS (.lea gd w32 k d a b) gd d a b
    (fun x y => fin w32 (x.toNat + sw w32 y * 2 ^ k.val)) s

end Sys2Proof.Machine
end

