-- ==== Sys2Proof/Machine/ScalarFp.lean ====
section
/-! DEFINITION. Scalar floating-point instructions, opcodes 0x40 to 0x4E (R127 to R137). -/

namespace Sys2Proof.Machine

/-- Commit an FP result: placed by R109, its flags raised, two turns for a subnormal (R81, R127). -/
def fpDone (d : GReg) (ty : ETy) (r : Num.Res) (s : State) : Act :=
  .done { g := [(d, placeG ty r.r)], flags := r.f, forf := if r.sub then 2 else 0 } s

/-- A scalar FP instruction on A and B. -/
def fp2 (i : Instr) (gd : Guard) (x : FpX) (d a : GReg) (b : OpB) (f : ETy → Num.Env → Nat → Nat → Num.Res)
    (s : State) : Host.Outcome State Fault Refusal :=
  issue i gd 6 (fun r s =>
    fpDone d x.ty (f x.ty (r.t.env x) (lowBits x.ty (r.t.rg a)) (lowBits x.ty (OpB.fx r.t x.ty b))) s) s

/-- A scalar FP instruction on A alone. -/
def fp1 (i : Instr) (gd : Guard) (x : FpX) (d a : GReg) (f : ETy → Num.Env → Nat → Num.Res) (s : State) :
    Host.Outcome State Fault Refusal :=
  issue i gd 6 (fun r s => fpDone d x.ty (f x.ty (r.t.env x) (lowBits x.ty (r.t.rg a))) s) s

def execFadd (gd : Guard) (x : FpX) (d a : GReg) (b : OpB) (s : State) : Host.Outcome State Fault Refusal :=
  fp2 (.fadd gd x d a b) gd x d a b Num.fadd s

def execFsub (gd : Guard) (x : FpX) (d a : GReg) (b : OpB) (s : State) : Host.Outcome State Fault Refusal :=
  fp2 (.fsub gd x d a b) gd x d a b Num.fsub s

def execFmul (gd : Guard) (x : FpX) (d a : GReg) (b : OpB) (s : State) : Host.Outcome State Fault Refusal :=
  fp2 (.fmul gd x d a b) gd x d a b Num.fmul s

def execFdiv (gd : Guard) (x : FpX) (d a : GReg) (b : OpB) (s : State) : Host.Outcome State Fault Refusal :=
  fp2 (.fdiv gd x d a b) gd x d a b Num.fdiv s

def execFfma (gd : Guard) (x : FpX) (d a : GReg) (b : OpB) (c : GReg) (s : State) : Host.Outcome State Fault Refusal :=
  issue (.ffma gd x d a b c) gd 6 (fun r s =>
    fpDone d x.ty (Num.ffma x.ty (r.t.env x) (lowBits x.ty (r.t.rg a)) (lowBits x.ty (OpB.fx r.t x.ty b))
      (lowBits x.ty (r.t.rg c))) s) s

def execFsqrt (gd : Guard) (x : FpX) (d a : GReg) (s : State) : Host.Outcome State Fault Refusal :=
  fp1 (.fsqrt gd x d a) gd x d a Num.fsqrt s

def execFmin (gd : Guard) (x : FpX) (d a : GReg) (b : OpB) (s : State) : Host.Outcome State Fault Refusal :=
  fp2 (.fmin gd x d a b) gd x d a b (fun t e => Num.fminmax t e false) s

def execFmax (gd : Guard) (x : FpX) (d a : GReg) (b : OpB) (s : State) : Host.Outcome State Fault Refusal :=
  fp2 (.fmax gd x d a b) gd x d a b (fun t e => Num.fminmax t e true) s

def execFcmp (gd : Guard) (cond : FCond) (x : FpX) (d : PReg) (a : GReg) (b : OpB) (s : State) :
    Host.Outcome State Fault Refusal :=
  issue (.fcmp gd cond x d a b) gd 6 (fun r s =>
    let (c, f, sub) := Num.fcmp x.ty (r.t.env x) cond (lowBits x.ty (r.t.rg a)) (lowBits x.ty (OpB.fx r.t x.ty b))
    .done { p := [(d, maskOf c)], flags := f, forf := if sub then 2 else 0 } s) s

def execFcvt (gd : Guard) (src : ETy) (x : FpX) (d a : GReg) (s : State) : Host.Outcome State Fault Refusal :=
  issue (.fcvt gd src x d a) gd 6 (fun r s =>
    fpDone d x.ty (Num.convert src x.ty (r.t.env x) (lowBits src (r.t.rg a))) s) s

def execFrcp (gd : Guard) (x : FpX) (d a : GReg) (s : State) : Host.Outcome State Fault Refusal :=
  fp1 (.frcp gd x d a) gd x d a (fun _ e => Num.frcp e) s

def execFrsq (gd : Guard) (x : FpX) (d a : GReg) (s : State) : Host.Outcome State Fault Refusal :=
  fp1 (.frsq gd x d a) gd x d a (fun _ e => Num.frsq e) s

def execFrstep (gd : Guard) (rsq : Bool) (x : FpX) (d a : GReg) (b : OpB) (s : State) :
    Host.Outcome State Fault Refusal :=
  fp2 (.frstep gd rsq x d a b) gd x d a b (fun _ e => Num.frstep rsq e) s

def execFclass (gd : Guard) (x : FpX) (d a : GReg) (s : State) : Host.Outcome State Fault Refusal :=
  issue (.fclass gd x d a) gd 6 (fun r s =>
    .writeG d (BitVec.ofNat 64 (Num.fclass x.ty (lowBits x.ty (r.t.rg a)))) s) s

def execFsgn (gd : Guard) (m : SgnV) (x : FpX) (d a : GReg) (b : OpB) (s : State) : Host.Outcome State Fault Refusal :=
  issue (.fsgn gd m x d a b) gd 6 (fun r s =>
    .writeG d (placeG x.ty (Num.fsgn x.ty m (lowBits x.ty (r.t.rg a)) (lowBits x.ty (OpB.fx r.t x.ty b)))) s) s

end Sys2Proof.Machine
end

