-- ==== Sys2Proof/Machine/Timeouts.lean ====
section
/-! DEFINITION. The end of waits by timeout or interrupt (R90, R107, R240, R284, R289, R335, R337), and wasted slots (R349). -/

namespace Sys2Proof.Machine

/-- What an interrupt (else the timeout) gives a wait that it ends. -/
def waitEnd (k : Key) (kind : PendK) (int : Bool) (s : State) : Option Act :=
  match kind with
  | .twany d _ | .twall d _ | .halt d => some (.writeG d (if int then 3 else 2) s)
  | .bwait _ d => some (.writeG d (if int then 2 else 1) s)
  | .mwait d => some (mwaitDone k d s)
  | _ => none

/-- A timeout runs out, or an interrupt is delivered to a waiting thread. Whatever else falls due in the cycle comes first, so a
completion wins (R240, R289); timeouts pause in debug halt (R346). -/
def execWaitTimeout (core slot serial : Nat) (s : State) : Host.Outcome State Fault Refusal :=
  .next (
    let k : Key := (core, slot)
    match (s.thr k).pend with
    | some p =>
      let late := match p.due with
        | some d => decide (d ≤ s.now)
        | none => false
      if p.serial ≠ serial then s
      else if p.kind = .iflush then
        (if late then
          let s := s.updCore core fun c => { c with iflush := serial + 1 }
          s.resume k false (.done { lat := s.cyc (dieOf core) - p.t0 } s)
        else s)
      else if s.agenda.any fun e => decide (e.1 ≤ s.now) && (match e.2 with
          | .waitTimeout .. => false
          | _ => true) then s.post 0 (.waitTimeout core slot serial)
      else
        let int := (s.thr k).intPending
        if int || (late && !s.paused core) then
          match waitEnd k p.kind int s with
          | some a => s.resume k true a
          | none => s
        else s
    | none => s)

/-- A turn of a resident thread in which it does not issue is charged 1 eu (R349). -/
def execWastedSlot (core slot : Nat) (s : State) : Host.Outcome State Fault Refusal :=
  .next (if (s.thr (core, slot)).st = .free then s else s.chargeRun core 1)

end Sys2Proof.Machine
end

