-- ==== Sys2Proof/Machine/Vector.lean ====
section
/-! DEFINITION. Vector instructions, opcodes 0x50 to 0x6D (R154 to R166), with their stream operands (R172 to R174). -/

namespace Sys2Proof.Machine

/-! ### Stream operands -/

/-- A v operand: its position, register, element type there, whether it is written, whether a stream is allowed (R172). -/
structure VOp where
  pos : Nat
  v   : VReg
  ety : ETy
  out : Bool
  ok  : Bool
  deriving DecidableEq, Repr

/-- What an instruction computes from n elements: its commit, and the elements of D (`none` leaves one unwritten). -/
structure VRes where
  c   : Commit := {}
  dst : List (Option Nat) := []
  deriving DecidableEq, Repr

/-- The v operand of source B, if it is one. -/
def OpV.vop (b : OpV) (ety : ETy) (ok : Bool) : List VOp :=
  match b with
  | .v r => [⟨2, r, ety, false, ok⟩]
  | _ => []

/-- The checks of R172 in position order. -/
def streamCheck (r : Run) (ops : List VOp) (s : State) (go : Act) : Act :=
  match ops with
  | [] => go
  | o :: ops =>
    match r.t.stream o.v with
    | none => streamCheck r ops s go
    | some x =>
      if x.st = .faulted then faultedStream r o.v x s
      else if o.ok ∧ x.st = .armed ∧ x.out = o.out ∧ x.ety = o.ety then streamCheck r ops s go
      else illegalOp o.pos (vSpecN o.v)

/-- The bound operands with their streams. -/
def boundOps (t : Thread) (ops : List VOp) : List (VOp × Stream) :=
  ops.filterMap fun o => (t.stream o.v).map fun x => (o, x)

def Stream.left (x : Stream) (e : Nat) : Nat := min e (x.total - x.pos)

/-- Element j of a v operand: the j-th held element of an input stream, else of the register. -/
def Thread.vel (t : Thread) (w : Nat) (v : VReg) (j : Nat) : Nat :=
  match t.stream v with
  | some x => ((x.held[j]?).map (·.val.toNat)).getD 0
  | none => velem w (t.rv v) j

/-- Pop n elements of an input stream (R173). -/
def State.pop (s : State) (k : Key) (v : VReg) (n : Nat) : State :=
  match (s.thr k).stream v with
  | some x => (s.setStream k v (some { x with pos := x.pos + n, held := x.held.drop n })).kick k v
  | none => s

/-- Push n elements to an output stream (R173); an element with no value is counted and not written. -/
def State.push (s : State) (k : Key) (v : VReg) (n : Nat) (xs : List (Option Nat)) : State :=
  match (s.thr k).stream v with
  | some x =>
    let els := (xs.take n).mapIdx fun j y => (⟨x.pos + j, BitVec.ofNat 32 (y.getD 0), y.isSome, none⟩ : SEl)
    (s.setStream k v (some { x with pos := x.pos + n, held := x.held ++ els })).kick k v
  | none => s

/-- STREAM_FAULT of a pop whose elements include a faulted one; executed again, the instruction has the element fetched again
(R178). -/
def popFault (r : Run) (ins : List (VOp × Stream)) (n : Nat) (need : List (Fin 8 × Bool × Nat)) (s : State) : Option Act :=
  ins.findSome? fun p => ((p.2.held.take n).findSome? (·.fault)).map fun f =>
    if p.2.told then
      let y := { p.2 with held := p.2.held.takeWhile (·.fault.isNone), told := false }
      .wait (.beats need) 0 ((s.setStream r.k p.1.v (some y)).kick r.k p.1.v)
    else .trapIn .streamFault (sfVal f) (s.setStream r.k p.1.v (some { p.2 with told := true }))

/-- An instruction of E elements with v operands in position order (R172, R173): the streams agree on n, the beats have
arrived and fit, then `f n` is committed, with the pops and the push. -/
def withStreams (r : Run) (e : Nat) (ops : List VOp) (s : State) (f : Nat → VRes) : Act :=
  streamCheck r ops s (
    let bs := boundOps r.t ops
    let order := bs.filter (·.1.pos != 0) ++ bs.filter (·.1.pos == 0)
    let n := match order with
      | [] => e
      | p :: _ => p.2.left e
    match order, order.find? fun p => p.2.left e != n with
    | p :: _, some q => .trap .streamMismatch (wordOf (vSpecN p.1.v * 256 + vSpecN q.1.v))
    | _, _ =>
      if !bs.isEmpty && n == 0 then .done {} s
      else
        let ins := bs.filter fun p => !p.1.out
        let need := bs.map fun p => (hiOf p.1.v, p.1.out, n)
        match popFault r ins n need s with
        | some a => a
        | none =>
          if bs.any fun p => !p.2.ready p.1.out n then .wait (.beats need) 0 s
          else
            let res := f n
            let regs := dedup (ins.map (·.1.v.val))
            let s := regs.foldl (fun s v => s.pop r.k (vhi ⟨v % 8, Nat.mod_lt _ (by decide)⟩) n) s
            let outs := bs.filter (·.1.out)
            let s := outs.foldl (fun s p => s.push r.k p.1.v n res.dst) s
            .done { res.c with extra := 320 * (regs.length + outs.length) } s)

/-- Results put into a v register, unless it is an output stream. -/
def Thread.vput (t : Thread) (w : Nat) (d : VReg) (xs : List (Option Nat)) (c : Commit) : Commit :=
  match t.stream d with
  | some _ => c
  | none => { c with v := [(d, vmerge w (t.rv d) xs)] }

/-! ### Element-wise instructions (R158) -/

/-- The elements e < n that are active. -/
def vact (lanes : BitVec 64) (w n e : Nat) : Bool := decide (e < n) && laneOn lanes w e

/-- Element-wise results: the flags of all active elements at once, two turns for a subnormal (R155, R156). -/
def elemwise (r : Run) (gd : Guard) (w : Nat) (d : VReg) (f : Nat → Num.Res) (n : Nat) : VRes :=
  let rs := (List.range (elems w)).map fun e => if vact (r.t.lanes gd) w n e then some (f e) else none
  let xs := rs.map (·.map (·.r))
  let all := rs.filterMap id
  ⟨r.t.vput w d xs { flags := unionF all, forf := if anySub all then 2 else 0 }, xs⟩

/-- The charge of an instruction by its type (R157). -/
def euOf (x : FpX) (fp int : Nat) : Nat := if x.ty.isInt then int else fp

/-- An instruction on A and B. -/
def vec2 (i : Instr) (gd : Guard) (x : FpX) (eu : Nat) (d a : VReg) (b : OpV) (tyB : ETy)
    (f : Num.Env → Nat → Nat → Num.Res) (s : State) : Host.Outcome State Fault Refusal :=
  issueV i gd eu (fun r s =>
    let w := x.ty.bits
    let env := r.t.env x
    withStreams r (elems w) ([⟨0, d, x.ty, true, true⟩, ⟨1, a, x.ty, false, true⟩] ++ OpV.vop b tyB true) s
      (elemwise r gd w d fun e => f env (r.t.vel w a e) (match b with
        | .v v => r.t.vel w v e
        | _ => OpV.elem r.t w b 0 e))) s

/-- An instruction on A. -/
def vec1 (i : Instr) (gd : Guard) (x : FpX) (eu : Nat) (d a : VReg) (f : Num.Env → Nat → Num.Res) (s : State) :
    Host.Outcome State Fault Refusal :=
  issueV i gd eu (fun r s =>
    let w := x.ty.bits
    let env := r.t.env x
    withStreams r (elems w) [⟨0, d, x.ty, true, true⟩, ⟨1, a, x.ty, false, true⟩] s
      (elemwise r gd w d fun e => f env (r.t.vel w a e))) s

/-- An FP or integer result by type. -/
def byType (x : FpX) (fp : Num.Res) (int : Int) : Num.Res :=
  if x.ty.isInt then plainRes (Num.finInt x.ty.bits x.sat int) else fp

def execVadd (gd : Guard) (x : FpX) (d a : VReg) (b : OpV) (s : State) : Host.Outcome State Fault Refusal :=
  vec2 (.vadd gd x d a b) gd x (euOf x 128 96) d a b x.ty
    (fun env p q => byType x (Num.fadd x.ty env p q) (Num.sgn x.ty.bits p + Num.sgn x.ty.bits q)) s

def execVsub (gd : Guard) (x : FpX) (d a : VReg) (b : OpV) (s : State) : Host.Outcome State Fault Refusal :=
  vec2 (.vsub gd x d a b) gd x (euOf x 128 96) d a b x.ty
    (fun env p q => byType x (Num.fsub x.ty env p q) (Num.sgn x.ty.bits p - Num.sgn x.ty.bits q)) s

def execVmul (gd : Guard) (x : FpX) (d a : VReg) (b : OpV) (s : State) : Host.Outcome State Fault Refusal :=
  vec2 (.vmul gd x d a b) gd x (euOf x 128 96) d a b x.ty
    (fun env p q => byType x (Num.fmul x.ty env p q) (Num.sgn x.ty.bits p * Num.sgn x.ty.bits q)) s

def execVfma (gd : Guard) (x : FpX) (d a : VReg) (b : OpV) (c : VReg) (s : State) : Host.Outcome State Fault Refusal :=
  issueV (.vfma gd x d a b c) gd (euOf x 160 96) (fun r s =>
    let w := x.ty.bits
    let env := r.t.env x
    withStreams r (elems w) ([⟨0, d, x.ty, true, true⟩, ⟨1, a, x.ty, false, true⟩] ++ OpV.vop b x.ty true ++
        [⟨3, c, x.ty, false, true⟩]) s
      (elemwise r gd w d fun e =>
        let p := r.t.vel w a e
        let q := match b with
          | .v v => r.t.vel w v e
          | _ => OpV.elem r.t w b 0 e
        let z := r.t.vel w c e
        byType x (Num.ffma x.ty env p q z) (Num.sgn w p * Num.sgn w q + Num.sgn w z))) s

/-- Integer minimum or maximum of w-bit elements, signed or unsigned. -/
def intMinMax (w : Nat) (mx u : Bool) (p q : Nat) : Nat :=
  let le := if u then decide (p ≤ q) else decide (Num.sgn w p ≤ Num.sgn w q)
  let ge := if u then decide (p ≥ q) else decide (Num.sgn w p ≥ Num.sgn w q)
  if (if mx then ge else le) then p else q

def execVmin (gd : Guard) (u : Bool) (x : FpX) (d a : VReg) (b : OpV) (s : State) : Host.Outcome State Fault Refusal :=
  vec2 (.vmin gd u x d a b) gd x (euOf x 128 96) d a b x.ty
    (fun env p q => if x.ty.isInt then plainRes (intMinMax x.ty.bits false u p q) else Num.fminmax x.ty env false p q) s

def execVmax (gd : Guard) (u : Bool) (x : FpX) (d a : VReg) (b : OpV) (s : State) : Host.Outcome State Fault Refusal :=
  vec2 (.vmax gd u x d a b) gd x (euOf x 128 96) d a b x.ty
    (fun env p q => if x.ty.isInt then plainRes (intMinMax x.ty.bits true u p q) else Num.fminmax x.ty env true p q) s

/-- The sign bit of a w-bit element. -/
def signBit (w : Nat) : Nat := 2 ^ (w - 1)

def execVabs (gd : Guard) (x : FpX) (d a : VReg) (s : State) : Host.Outcome State Fault Refusal :=
  vec1 (.vabs gd x d a) gd x (euOf x 128 96) d a
    (fun _ p => if x.ty.isInt then plainRes (Num.finInt x.ty.bits x.sat (Num.sgn x.ty.bits p).natAbs)
      else plainRes (p % signBit x.ty.bits)) s

def execVneg (gd : Guard) (x : FpX) (d a : VReg) (s : State) : Host.Outcome State Fault Refusal :=
  vec1 (.vneg gd x d a) gd x (euOf x 128 96) d a
    (fun _ p => if x.ty.isInt then plainRes (Num.finInt x.ty.bits x.sat (-(Num.sgn x.ty.bits p)))
      else plainRes (p ^^^ signBit x.ty.bits)) s

def execVsel (gd : Guard) (x : FpX) (d a : VReg) (b : OpV) (c : PReg) (s : State) : Host.Outcome State Fault Refusal :=
  issueV (.vsel gd x d a b c) gd 96 (fun r s =>
    let w := x.ty.bits
    withStreams r (elems w) ([⟨0, d, x.ty, true, true⟩, ⟨1, a, x.ty, false, true⟩] ++ OpV.vop b x.ty true) s
      (elemwise r gd w d fun e => plainRes (if (r.t.rp c).getLsbD (laneOf w e) then r.t.vel w a e
        else match b with
          | .v v => r.t.vel w v e
          | _ => OpV.elem r.t w b 0 e))) s

/-- A bitwise or shift instruction. -/
def vecBits (i : Instr) (gd : Guard) (x : FpX) (d a : VReg) (b : OpV) (f : Nat → Nat → Nat) (s : State) :
    Host.Outcome State Fault Refusal :=
  vec2 i gd x 96 d a b x.ty (fun _ p q => plainRes (f p q % 2 ^ x.ty.bits)) s

def execVand (gd : Guard) (x : FpX) (d a : VReg) (b : OpV) (s : State) : Host.Outcome State Fault Refusal :=
  vecBits (.vand gd x d a b) gd x d a b (· &&& ·) s

def execVor (gd : Guard) (x : FpX) (d a : VReg) (b : OpV) (s : State) : Host.Outcome State Fault Refusal :=
  vecBits (.vor gd x d a b) gd x d a b (· ||| ·) s

def execVxor (gd : Guard) (x : FpX) (d a : VReg) (b : OpV) (s : State) : Host.Outcome State Fault Refusal :=
  vecBits (.vxor gd x d a b) gd x d a b (· ^^^ ·) s

def execVshl (gd : Guard) (x : FpX) (d a : VReg) (b : OpV) (s : State) : Host.Outcome State Fault Refusal :=
  vecBits (.vshl gd x d a b) gd x d a b (fun p q => p * 2 ^ (q % x.ty.bits)) s

def execVshr (gd : Guard) (arith : Bool) (x : FpX) (d a : VReg) (b : OpV) (s : State) : Host.Outcome State Fault Refusal :=
  vecBits (.vshr gd arith x d a b) gd x d a b (fun p q =>
    if arith then Num.wrap x.ty.bits (Num.sgn x.ty.bits p / 2 ^ (q % x.ty.bits)) else p / 2 ^ (q % x.ty.bits)) s

def execVrcp (gd : Guard) (x : FpX) (d a : VReg) (s : State) : Host.Outcome State Fault Refusal :=
  vec1 (.vrcp gd x d a) gd x 192 d a (fun env p => Num.frcp env p) s

def execVrsq (gd : Guard) (x : FpX) (d a : VReg) (s : State) : Host.Outcome State Fault Refusal :=
  vec1 (.vrsq gd x d a) gd x 192 d a (fun env p => Num.frsq env p) s

def execVrstep (gd : Guard) (rsq : Bool) (x : FpX) (d a : VReg) (b : OpV) (s : State) : Host.Outcome State Fault Refusal :=
  vec2 (.vrstep gd rsq x d a b) gd x 192 d a b x.ty (fun env p q => Num.frstep rsq env p q) s

def execVexp2 (gd : Guard) (x : FpX) (d a : VReg) (s : State) : Host.Outcome State Fault Refusal :=
  vec1 (.vexp2 gd x d a) gd x 192 d a (fun env p => Num.vexp2 env p) s

def execVlog2 (gd : Guard) (x : FpX) (d a : VReg) (s : State) : Host.Outcome State Fault Refusal :=
  vec1 (.vlog2 gd x d a) gd x 192 d a (fun env p => Num.vlog2 env p) s

def execVszb (gd : Guard) (int : Bool) (x : FpX) (d a : VReg) (b : OpV) (s : State) : Host.Outcome State Fault Refusal :=
  vec2 (.vszb gd int x d a b) gd x 192 d a b (if int then .int32 else .fp32) (fun env p q => Num.vszb int env p q) s

/-! ### Conversion and comparison (R161, R162) -/

/-- `VCVT` (R161). A part other than 0 beside a narrower stream is tested before any stream's own trap (notes/assumptions/108, DESIGN
CHOICE: the spec gives no order). -/
def execVcvt (gd : Guard) (src : ETy) (part : Fin 4) (x : FpX) (d a : VReg) (s : State) : Host.Outcome State Fault Refusal :=
  issueV (.vcvt gd src part x d a) gd 128 (fun r s =>
    let ws := src.bits
    let wt := x.ty.bits
    let big := Nat.max ws wt
    let n0 := elems big
    let env := r.t.env x
    -- a narrower operand that is a stream needs part 0
    let narrow (pos : Nat) (v : VReg) (w : Nat) : Option Act :=
      match r.t.stream v with
      | some y => if y.st ≠ .faulted ∧ w < big ∧ part ≠ 0 then some (illegalOp pos (vSpecN v)) else none
      | none => none
    match (narrow 0 d wt).orElse fun _ => narrow 1 a ws with
    | some t => t
    | none =>
      withStreams r n0 [⟨0, d, x.ty, true, true⟩, ⟨1, a, src, false, true⟩] s fun n =>
        let si (e : Nat) : Nat := if ws < wt then part.val * n0 + e else e
        let base := if wt < ws then part.val * n0 else 0
        let rs := (List.range n0).map fun e =>
          if vact (r.t.lanes gd) big n e then some (Num.cvt src x.ty env (r.t.vel ws a (si e))) else none
        let all := rs.filterMap id
        let xs := rs.map (·.map (·.r))
        ⟨r.t.vput wt d (List.replicate base none ++ xs) { flags := unionF all, forf := if anySub all then 2 else 0 }, xs⟩) s

def execVcmp (gd : Guard) (cond : FCond) (x : FpX) (d : PReg) (a : VReg) (b : OpV) (s : State) :
    Host.Outcome State Fault Refusal :=
  issueV (.vcmp gd cond x d a b) gd (euOf x 128 96) (fun r s =>
    let w := x.ty.bits
    let env := r.t.env x
    let per := 32 / w
    withStreams r (elems w) ([⟨1, a, x.ty, false, true⟩] ++ OpV.vop b x.ty true) s fun n =>
      let one (e : Nat) : Bool × BitVec 5 × Bool :=
        let p := r.t.vel w a e
        let q := match b with
          | .v v => r.t.vel w v e
          | _ => OpV.elem r.t w b 0 e
        if x.ty.isInt then (intFCond w cond p q, 0, false) else Num.fcmp x.ty env cond p q
      let ls := (List.range 64).filter fun i => (r.t.lanes gd).getLsbD i && decide (i * per < n)
      let rs := ls.map fun i => (i, ((List.range per).map (i * per + ·)).filterMap fun e => if e < n then some (one e) else none)
      let v := rs.foldl (fun (v : Word) p =>
        if p.2.all (·.1) then v ||| (1#64 <<< p.1) else v &&& ~~~(1#64 <<< p.1)) (r.t.rp d)
      let all := rs.flatMap (·.2)
      ⟨{ p := [(d, v)], flags := all.foldl (fun f y => f ||| y.2.1) 0, forf := if all.any (·.2.2) then 2 else 0 }, []⟩) s

/-! ### Reductions and scans (R163, R164) -/

/-- One combination step of `VRED` and `VSCANP`. -/
def redStep (op : VRedOp) (u : Bool) (ty : ETy) (env : Num.Env) (p q : Nat) : Num.Res :=
  let w := ty.bits
  if ty.isInt then
    plainRes (match op with
      | .add => (p + q) % 2 ^ w
      | .min => intMinMax w false u p q
      | .max => intMinMax w true u p q
      | .and => p &&& q
      | .or => p ||| q
      | .xor => p ^^^ q)
  else match op with
    | .min => Num.fminmax ty env false p q
    | .max => Num.fminmax ty env true p q
    | _ => Num.fadd ty env p q

/-- The value of an empty reduction (R163). -/
def redEmpty (op : VRedOp) (u : Bool) (ty : ETy) : Nat :=
  let w := ty.bits
  match op with
  | .min => if ty.isInt then (if u then 2 ^ w - 1 else 2 ^ (w - 1) - 1) else Num.infOf ty false
  | .max => if ty.isInt then (if u then 0 else 2 ^ (w - 1)) else Num.infOf ty true
  | .and => 2 ^ w - 1
  | _ => 0

/-- Partial results with flags; `none` is absent. -/
abbrev Part' := Option Num.Res

/-- Combine two sides; one present side passes (R163). -/
def partComb (f : Nat → Nat → Num.Res) (a b : Part') : Part' :=
  match a, b with
  | some x, some y => let r := f x.r y.r; some ⟨r.r, x.f ||| y.f ||| r.f, x.sub || y.sub || r.sub⟩
  | some x, none => some x
  | none, y => y

/-- The tree: positions i and i + half into i, down to one (R83, R163). -/
def redTree (f : Nat → Nat → Num.Res) : Nat → List Part' → Part'
  | 0, xs => xs.headD none
  | n + 1, xs =>
    let h := xs.length / 2
    redTree f n (List.zipWith (partComb f) (xs.take h) (xs.drop h))

/-- A present element of a reduction, with the subnormal it may meet (R155). -/
def partOf (ty : ETy) (env : Num.Env) (v : Nat) : Num.Res := ⟨v, 0, !ty.isInt && Num.srcSub ty env v⟩

def execVred (gd : Guard) (op : VRedOp) (u : Bool) (x : FpX) (d : GReg) (a : VReg) (s : State) :
    Host.Outcome State Fault Refusal :=
  issueV (.vred gd op u x d a) gd (euOf x 128 96) (fun r s =>
    let w := x.ty.bits
    let env := r.t.env x
    match r.t.firstBound [d] with
    | some g => .trap .boundWrite (wordOf g.val)
    | none =>
      withStreams r (elems w) [⟨1, a, x.ty, false, true⟩] s fun n =>
        let xs := (List.range (elems w)).map fun e =>
          if vact (r.t.lanes gd) w n e then some (partOf x.ty env (r.t.vel w a e)) else none
        let v := (redTree (redStep op u x.ty env) 8 (xs ++ List.replicate (256 - elems w) none)).getD
          (plainRes (redEmpty op u x.ty))
        let g : Word := if x.ty.isInt then BitVec.ofInt 64 (Num.sgn w v.r) else placeG x.ty v.r
        ⟨{ g := [(d, g)], flags := v.f, forf := if v.sub then 2 else 0 }, []⟩) s

/-- The running combination over the present elements: outputs, then what the last step leaves; with `ex` each output is the
combination before its element. -/
def scanGo (f : Nat → Nat → Num.Res) (ex : Bool) (empty : Nat) : Part' → List (Option Num.Res) → List Part'
  | _, [] => []
  | acc, none :: xs => none :: scanGo f ex empty acc xs
  | acc, some x :: xs =>
    let acc' := partComb f acc (some x)
    (if ex then some (acc.getD ⟨empty, 0, x.sub⟩) else acc') :: scanGo f ex empty acc' xs

def execVscanp (gd : Guard) (op : VRedOp) (u ex : Bool) (x : FpX) (d a : VReg) (s : State) :
    Host.Outcome State Fault Refusal :=
  issueV (.vscanp gd op u ex x d a) gd (euOf x 128 96) (fun r s =>
    let w := x.ty.bits
    let env := r.t.env x
    withStreams r (elems w) [⟨0, d, x.ty, true, true⟩, ⟨1, a, x.ty, false, true⟩] s fun n =>
      let xs := (List.range (elems w)).map fun e =>
        if vact (r.t.lanes gd) w n e then some (partOf x.ty env (r.t.vel w a e)) else none
      let outs := scanGo (redStep op u x.ty env) ex (redEmpty op u x.ty) none xs
      let all := outs.filterMap id
      let sub := anySub all || (xs.filterMap id).any (·.sub)
      let ys := outs.map (·.map (·.r))
      ⟨r.t.vput w d ys { flags := unionF all, forf := if sub then 2 else 0 }, ys⟩) s

/-! ### Rearrangement (R165) and `NZSCAN` (R166) -/

def execVbcast (gd : Guard) (elem : Option VReg) (x : FpX) (d : VReg) (b : OpB) (s : State) :
    Host.Outcome State Fault Refusal :=
  issueV (.vbcast gd elem x d b) gd 96 (fun r s =>
    let w := x.ty.bits
    let aop : List VOp := match elem with
      | some a => [⟨1, a, x.ty, false, false⟩]
      | none => []
    withStreams r (elems w) ([⟨0, d, x.ty, true, true⟩] ++ aop) s
      (elemwise r gd w d fun _ => plainRes (match elem with
        | some a => velem w (r.t.rv a) ((OpB.zx r.t b).toNat % elems w)
        | none => (OpB.zx r.t b).toNat % 2 ^ w))) s

def execVperm (gd : Guard) (x : FpX) (d a b : VReg) (s : State) : Host.Outcome State Fault Refusal :=
  issueV (.vperm gd x d a b) gd 96 (fun r s =>
    let w := x.ty.bits
    withStreams r (elems w) [⟨0, d, x.ty, true, true⟩, ⟨1, a, x.ty, false, false⟩, ⟨2, b, x.ty, false, true⟩] s
      (elemwise r gd w d fun e => plainRes (velem w (r.t.rv a) (r.t.vel w b e % elems w)))) s

def execViota (gd : Guard) (x : FpX) (d : VReg) (b : OpB) (s : State) : Host.Outcome State Fault Refusal :=
  issueV (.viota gd x d b) gd 96 (fun r s =>
    let w := x.ty.bits
    withStreams r (elems w) [⟨0, d, x.ty, true, true⟩] s
      (elemwise r gd w d fun e => plainRes (((OpB.sx r.t b).toNat + e) % 2 ^ w))) s

/-- The index of `VEXTR` and `VINSR`. -/
def vindex (t : Thread) (w : Nat) (b : OpB) : Nat := (OpB.zx t b).toNat % elems w

def execVextr (gd : Guard) (x : FpX) (d : GReg) (a : VReg) (b : OpB) (s : State) : Host.Outcome State Fault Refusal :=
  issueV (.vextr gd x d a b) gd 96 (fun r s => noStreams r [(1, a)] s (
    let w := x.ty.bits
    let k := vindex r.t w b
    let v := velem w (r.t.rv a) k
    if laneOn (r.t.lanes gd) w k then
      .writeG d (if x.ty.isInt then BitVec.ofInt 64 (Num.sgn w v) else placeG x.ty v) s
    else match r.t.firstBound [d] with
      | some g => .trap .boundWrite (wordOf g.val)
      | none => .done {} s)) s

def execVinsr (gd : Guard) (x : FpX) (d : VReg) (a : GReg) (b : OpB) (s : State) : Host.Outcome State Fault Refusal :=
  issueV (.vinsr gd x d a b) gd 96 (fun r s => noStreams r [(0, d)] s (
    let w := x.ty.bits
    let k := vindex r.t w b
    if laneOn (r.t.lanes gd) w k then
      .done { v := [(d, vmerge w (r.t.rv d) (List.replicate k none ++ [some (lowBits x.ty (r.t.rg a))]))] } s
    else .done {} s)) s

def execNzscan (gd : Guard) (d : VReg) (a : GReg) (b : OpB) (c : GReg) (s : State) : Host.Outcome State Fault Refusal :=
  issueV (.nzscan gd d a b c) gd 96 (fun r s => noStreams r [(0, d)] s (
    let va := (memAddr r.t a b).toNat
    let x := (s.core r.k.1).ctx (s.core r.k.1).cid
    match r.t.firstBound [c] with
    | some g => .trap .boundWrite (wordOf g.val)
    | none =>
      match bufFault x 5 false false 8 [(0, va)] with
      | some (cause, v) => .trap cause (wordOf v)
      | none =>
        drain r 1 s (
          let bits := (x.z).read va 8
          let idx := ((List.range 64).filter fun j => bits.testBit j).map (8 * va + ·)
          let xs := (List.range 64).map fun i =>
            if (r.t.lanes gd).getLsbD i then some (idx.getD i 0) else none
          .done { g := [(c, wordOf idx.length)], v := [(d, vmerge 32 (r.t.rv d) xs)], lat := bufLat 5 8 } s))) s

end Sys2Proof.Machine
end

