-- ==== Sys2Proof/Machine/Dispatch.lean ====
section
/-! DEFINITION. What each instruction and each machine step does: one arm per constructor, one call of its meaning. -/

namespace Sys2Proof.Machine

def exec (i : Instr) (s : State) : Host.Outcome State Fault Refusal :=
  match i with
  | .nop gd => Sys2Proof.Machine.execNop gd s
  | .br gd off => Sys2Proof.Machine.execBr gd off s
  | .brx gd a => Sys2Proof.Machine.execBrx gd a s
  | .call gd off => Sys2Proof.Machine.execCall gd off s
  | .callx gd a => Sys2Proof.Machine.execCallx gd a s
  | .tstart gd d a b => Sys2Proof.Machine.execTstart gd d a b s
  | .tstartLight gd d a b => Sys2Proof.Machine.execTstartLight gd d a b s
  | .treap gd d b => Sys2Proof.Machine.execTreap gd d b s
  | .texit gd b => Sys2Proof.Machine.execTexit gd b s
  | .tstat gd d b => Sys2Proof.Machine.execTstat gd d b s
  | .halt gd d b => Sys2Proof.Machine.execHalt gd d b s
  | .spawn gd d a c => Sys2Proof.Machine.execSpawn gd d a c s
  | .take gd d a => Sys2Proof.Machine.execTake gd d a s
  | .fetchtile gd d a => Sys2Proof.Machine.execFetchtile gd d a s
  | .tileq gd a b => Sys2Proof.Machine.execTileq gd a b s
  | .go gd a b => Sys2Proof.Machine.execGo gd a b s
  | .hcall gd b => Sys2Proof.Machine.execHcall gd b s
  | .trap gd b => Sys2Proof.Machine.execTrap gd b s
  | .eret gd => Sys2Proof.Machine.execEret gd s
  | .sysr gd d num => Sys2Proof.Machine.execSysr gd d num s
  | .sysw gd a num => Sys2Proof.Machine.execSysw gd a num s
  | .bkpt gd b => Sys2Proof.Machine.execBkpt gd b s
  | .iflush gd => Sys2Proof.Machine.execIflush gd s
  | .vcopyb gd dest frm d a c => Sys2Proof.Machine.execVcopyb gd dest frm d a c s
  | .add gd w32 sat d a b => Sys2Proof.Machine.execAdd gd w32 sat d a b s
  | .sub gd w32 sat d a b => Sys2Proof.Machine.execSub gd w32 sat d a b s
  | .mul gd w32 d a b => Sys2Proof.Machine.execMul gd w32 d a b s
  | .mulh gd w32 v d a b => Sys2Proof.Machine.execMulh gd w32 v d a b s
  | .div gd w32 u d a b => Sys2Proof.Machine.execDiv gd w32 u d a b s
  | .rem gd w32 u d a b => Sys2Proof.Machine.execRem gd w32 u d a b s
  | .and gd w32 d a b => Sys2Proof.Machine.execAnd gd w32 d a b s
  | .or gd w32 d a b => Sys2Proof.Machine.execOr gd w32 d a b s
  | .xor gd w32 d a b => Sys2Proof.Machine.execXor gd w32 d a b s
  | .andn gd w32 d a b => Sys2Proof.Machine.execAndn gd w32 d a b s
  | .shl gd w32 d a b => Sys2Proof.Machine.execShl gd w32 d a b s
  | .shr gd w32 arith d a b => Sys2Proof.Machine.execShr gd w32 arith d a b s
  | .rot gd w32 right d a b => Sys2Proof.Machine.execRot gd w32 right d a b s
  | .min gd w32 u d a b => Sys2Proof.Machine.execMin gd w32 u d a b s
  | .max gd w32 u d a b => Sys2Proof.Machine.execMax gd w32 u d a b s
  | .clz gd w32 trailing d a => Sys2Proof.Machine.execClz gd w32 trailing d a s
  | .popc gd w32 d a => Sys2Proof.Machine.execPopc gd w32 d a s
  | .sel gd w32 d a b c => Sys2Proof.Machine.execSel gd w32 d a b c s
  | .cmp gd w32 cond d a b => Sys2Proof.Machine.execCmp gd w32 cond d a b s
  | .plog gd op d a b => Sys2Proof.Machine.execPlog gd op d a b s
  | .mov gd w32 d b => Sys2Proof.Machine.execMov gd w32 d b s
  | .movh gd d b => Sys2Proof.Machine.execMovh gd d b s
  | .movs gd d r => Sys2Proof.Machine.execMovs gd d r s
  | .wrs gd r b => Sys2Proof.Machine.execWrs gd r b s
  | .ext gd sx d a b => Sys2Proof.Machine.execExt gd sx d a b s
  | .ins gd d a b c => Sys2Proof.Machine.execIns gd d a b c s
  | .lea gd w32 k d a b => Sys2Proof.Machine.execLea gd w32 k d a b s
  | .fadd gd x d a b => Sys2Proof.Machine.execFadd gd x d a b s
  | .fsub gd x d a b => Sys2Proof.Machine.execFsub gd x d a b s
  | .fmul gd x d a b => Sys2Proof.Machine.execFmul gd x d a b s
  | .ffma gd x d a b c => Sys2Proof.Machine.execFfma gd x d a b c s
  | .fdiv gd x d a b => Sys2Proof.Machine.execFdiv gd x d a b s
  | .fsqrt gd x d a => Sys2Proof.Machine.execFsqrt gd x d a s
  | .fmin gd x d a b => Sys2Proof.Machine.execFmin gd x d a b s
  | .fmax gd x d a b => Sys2Proof.Machine.execFmax gd x d a b s
  | .fcmp gd cond x d a b => Sys2Proof.Machine.execFcmp gd cond x d a b s
  | .fcvt gd src x d a => Sys2Proof.Machine.execFcvt gd src x d a s
  | .frcp gd x d a => Sys2Proof.Machine.execFrcp gd x d a s
  | .frsq gd x d a => Sys2Proof.Machine.execFrsq gd x d a s
  | .frstep gd rsq x d a b => Sys2Proof.Machine.execFrstep gd rsq x d a b s
  | .fclass gd x d a => Sys2Proof.Machine.execFclass gd x d a s
  | .fsgn gd m x d a b => Sys2Proof.Machine.execFsgn gd m x d a b s
  | .vadd gd x d a b => Sys2Proof.Machine.execVadd gd x d a b s
  | .vsub gd x d a b => Sys2Proof.Machine.execVsub gd x d a b s
  | .vmul gd x d a b => Sys2Proof.Machine.execVmul gd x d a b s
  | .vfma gd x d a b c => Sys2Proof.Machine.execVfma gd x d a b c s
  | .vmin gd u x d a b => Sys2Proof.Machine.execVmin gd u x d a b s
  | .vmax gd u x d a b => Sys2Proof.Machine.execVmax gd u x d a b s
  | .vabs gd x d a => Sys2Proof.Machine.execVabs gd x d a s
  | .vneg gd x d a => Sys2Proof.Machine.execVneg gd x d a s
  | .vcvt gd src part x d a => Sys2Proof.Machine.execVcvt gd src part x d a s
  | .vcmp gd cond x d a b => Sys2Proof.Machine.execVcmp gd cond x d a b s
  | .vsel gd x d a b c => Sys2Proof.Machine.execVsel gd x d a b c s
  | .vand gd x d a b => Sys2Proof.Machine.execVand gd x d a b s
  | .vor gd x d a b => Sys2Proof.Machine.execVor gd x d a b s
  | .vxor gd x d a b => Sys2Proof.Machine.execVxor gd x d a b s
  | .vshl gd x d a b => Sys2Proof.Machine.execVshl gd x d a b s
  | .vshr gd arith x d a b => Sys2Proof.Machine.execVshr gd arith x d a b s
  | .vred gd op u x d a => Sys2Proof.Machine.execVred gd op u x d a s
  | .vbcast gd elem x d b => Sys2Proof.Machine.execVbcast gd elem x d b s
  | .vperm gd x d a b => Sys2Proof.Machine.execVperm gd x d a b s
  | .viota gd x d b => Sys2Proof.Machine.execViota gd x d b s
  | .vrcp gd x d a => Sys2Proof.Machine.execVrcp gd x d a s
  | .vrsq gd x d a => Sys2Proof.Machine.execVrsq gd x d a s
  | .vrstep gd rsq x d a b => Sys2Proof.Machine.execVrstep gd rsq x d a b s
  | .vexp2 gd x d a => Sys2Proof.Machine.execVexp2 gd x d a s
  | .vlog2 gd x d a => Sys2Proof.Machine.execVlog2 gd x d a s
  | .vszb gd int x d a b => Sys2Proof.Machine.execVszb gd int x d a b s
  | .vextr gd x d a b => Sys2Proof.Machine.execVextr gd x d a b s
  | .vinsr gd x d a b => Sys2Proof.Machine.execVinsr gd x d a b s
  | .vscanp gd op u ex x d a => Sys2Proof.Machine.execVscanp gd op u ex x d a s
  | .nzscan gd d a b c => Sys2Proof.Machine.execNzscan gd d a b c s
  | .scfg gd out ety space ndim d a b => Sys2Proof.Machine.execScfg gd out ety space ndim d a b s
  | .sstart gd d => Sys2Proof.Machine.execSstart gd d s
  | .sstop gd d => Sys2Proof.Machine.execSstop gd d s
  | .sstat gd what d a => Sys2Proof.Machine.execSstat gd what d a s
  | .ld gd sx x d a b => Sys2Proof.Machine.execLd gd sx x d a b s
  | .st gd x a b c => Sys2Proof.Machine.execSt gd x a b c s
  | .ldp gd sx x d a b => Sys2Proof.Machine.execLdp gd sx x d a b s
  | .stp gd x a b c => Sys2Proof.Machine.execStp gd x a b c s
  | .vld gd x d a b => Sys2Proof.Machine.execVld gd x d a b s
  | .vst gd zb x a b c => Sys2Proof.Machine.execVst gd zb x a b c s
  | .vldx gd k x d a b => Sys2Proof.Machine.execVldx gd k x d a b s
  | .vstx gd zb k x a b c => Sys2Proof.Machine.execVstx gd zb k x a b c s
  | .stq gd a b c => Sys2Proof.Machine.execStq gd a b c s
  | .fence gd obs => Sys2Proof.Machine.execFence gd obs s
  | .amoadd gd x d a b c => Sys2Proof.Machine.execAmoadd gd x d a b c s
  | .amoand gd x d a b c => Sys2Proof.Machine.execAmoand gd x d a b c s
  | .amoor gd x d a b c => Sys2Proof.Machine.execAmoor gd x d a b c s
  | .amoxor gd x d a b c => Sys2Proof.Machine.execAmoxor gd x d a b c s
  | .amoswap gd x d a b c => Sys2Proof.Machine.execAmoswap gd x d a b c s
  | .amomin gd u x d a b c => Sys2Proof.Machine.execAmomin gd u x d a b c s
  | .amomax gd u x d a b c => Sys2Proof.Machine.execAmomax gd u x d a b c s
  | .amofadd gd x d a b c => Sys2Proof.Machine.execAmofadd gd x d a b c s
  | .amofmin gd x d a b c => Sys2Proof.Machine.execAmofmin gd x d a b c s
  | .amofmax gd x d a b c => Sys2Proof.Machine.execAmofmax gd x d a b c s
  | .cas gd x d a b c => Sys2Proof.Machine.execCas gd x d a b c s
  | .cas2 gd x d a b c => Sys2Proof.Machine.execCas2 gd x d a b c s
  | .red gd op u ety a b c => Sys2Proof.Machine.execRed gd op u ety a b c s
  | .bind gd x d a b c => Sys2Proof.Machine.execBind gd x d a b c s
  | .unbind gd slot => Sys2Proof.Machine.execUnbind gd slot s
  | .unbindAll gd => Sys2Proof.Machine.execUnbindAll gd s
  | .clst gd d b => Sys2Proof.Machine.execClst gd d b s
  | .clhold gd => Sys2Proof.Machine.execClhold gd s
  | .clrel gd => Sys2Proof.Machine.execClrel gd s
  | .marm gd a b => Sys2Proof.Machine.execMarm gd a b s
  | .mdis gd a b => Sys2Proof.Machine.execMdis gd a b s
  | .mdisAll gd => Sys2Proof.Machine.execMdisAll gd s
  | .mwait gd d b => Sys2Proof.Machine.execMwait gd d b s
  | .breg gd n a => Sys2Proof.Machine.execBreg gd n a s
  | .bcfg gd n a => Sys2Proof.Machine.execBcfg gd n a s
  | .barr gd n => Sys2Proof.Machine.execBarr gd n s
  | .bwait gd n d b => Sys2Proof.Machine.execBwait gd n d b s
  | .twany gd d a b => Sys2Proof.Machine.execTwany gd d a b s
  | .twall gd d a b => Sys2Proof.Machine.execTwall gd d a b s
  | .tffr gd d a => Sys2Proof.Machine.execTffr gd d a s
  | .tclr gd d b => Sys2Proof.Machine.execTclr gd d b s
  | .tstatus gd d b => Sys2Proof.Machine.execTstatus gd d b s
  | .qstat gd d b => Sys2Proof.Machine.execQstat gd d b s
  | .ginvoke gd d a b => Sys2Proof.Machine.execGinvoke gd d a b s
  | .emit gd a b => Sys2Proof.Machine.execEmit gd a b s
  | .sigt gd d b => Sys2Proof.Machine.execSigt gd d b s
  | .sigq gd d b => Sys2Proof.Machine.execSigq gd d b s
  | .sigv gd d b => Sys2Proof.Machine.execSigv gd d b s
  | .retract gd b => Sys2Proof.Machine.execRetract gd b s
  | .retractAll gd => Sys2Proof.Machine.execRetractAll gd s
  | .pause gd => Sys2Proof.Machine.execPause gd s
  | .dget gd d a => Sys2Proof.Machine.execDget gd d a s
  | .dset gd d b => Sys2Proof.Machine.execDset gd d b s
  | .chw gd d b => Sys2Proof.Machine.execChw gd d b s
  | .chr gd d a => Sys2Proof.Machine.execChr gd d a s
  | .sigpre gd val d b => Sys2Proof.Machine.execSigpre gd val d b s
  | .gend gd => Sys2Proof.Machine.execGend gd s
  | .memoryReply req => Sys2Proof.Machine.execMemoryReply req s
  | .homeAccess core => Sys2Proof.Machine.execHomeAccess core s
  | .atomicRequest req => Sys2Proof.Machine.execAtomicRequest req s
  | .redAcknowledgement req => Sys2Proof.Machine.execRedAcknowledgement req s
  | .relaxedAccessPerformed req => Sys2Proof.Machine.execRelaxedAccessPerformed req s
  | .postedStoreAccepted req => Sys2Proof.Machine.execPostedStoreAccepted req s
  | .postedStoreAck req => Sys2Proof.Machine.execPostedStoreAck req s
  | .translationWalk die walk => Sys2Proof.Machine.execTranslationWalk die walk s
  | .waitTimeout core slot serial => Sys2Proof.Machine.execWaitTimeout core slot serial s
  | .threadStartMessage core cid => Sys2Proof.Machine.execThreadStartMessage core cid s
  | .migrationArrival m => Sys2Proof.Machine.execMigrationArrival m s
  | .migrationRetry m => Sys2Proof.Machine.execMigrationRetry m s
  | .landingSlotClaim core => Sys2Proof.Machine.execLandingSlotClaim core s
  | .guestExitMessage core slot cid v => Sys2Proof.Machine.execGuestExitMessage core slot cid v s
  | .hcallReply die cid call status r1 r2 => Sys2Proof.Machine.execHcallReply die cid call status r1 r2 s
  | .streamPrefetch core slot reg => Sys2Proof.Machine.execStreamPrefetch core slot reg s
  | .streamElementWrite core slot reg => Sys2Proof.Machine.execStreamElementWrite core slot reg s
  | .cardAdmission cluster => Sys2Proof.Machine.execCardAdmission cluster s
  | .copyJobStart core => Sys2Proof.Machine.execCopyJobStart core s
  | .copyChunk core => Sys2Proof.Machine.execCopyChunk core s
  | .copyJobComplete core => Sys2Proof.Machine.execCopyJobComplete core s
  | .copySteal core => Sys2Proof.Machine.execCopySteal core s
  | .mmaFire core => Sys2Proof.Machine.execMmaFire core s
  | .mmaComplete core => Sys2Proof.Machine.execMmaComplete core s
  | .ellipsisJobStart cluster => Sys2Proof.Machine.execEllipsisJobStart cluster s
  | .mergeJob cluster => Sys2Proof.Machine.execMergeJob cluster s
  | .unmergeJob cluster => Sys2Proof.Machine.execUnmergeJob cluster s
  | .routeJob cluster => Sys2Proof.Machine.execRouteJob cluster s
  | .mapfreeJob cluster => Sys2Proof.Machine.execMapfreeJob cluster s
  | .collectiveComplete coll => Sys2Proof.Machine.execCollectiveComplete coll s
  | .monitorArmRequest core slot k => Sys2Proof.Machine.execMonitorArmRequest core slot k s
  | .monitorDisarmRequest core slot k => Sys2Proof.Machine.execMonitorDisarmRequest core slot k s
  | .monitorAck core slot serial => Sys2Proof.Machine.execMonitorAck core slot serial s
  | .fireNoticeArrival core slot k arm => Sys2Proof.Machine.execFireNoticeArrival core slot k arm s
  | .monitorLostNotice core slot k arm => Sys2Proof.Machine.execMonitorLostNotice core slot k arm s
  | .barrierArrival core id => Sys2Proof.Machine.execBarrierArrival core id s
  | .barrierPhaseComplete core id => Sys2Proof.Machine.execBarrierPhaseComplete core id s
  | .skipperTick core => Sys2Proof.Machine.execSkipperTick core s
  | .skipperOccupancy frm dest n => Sys2Proof.Machine.execSkipperOccupancy frm dest n s
  | .skipperOffer frm dest k => Sys2Proof.Machine.execSkipperOffer frm dest k s
  | .skipperGrant frm dest g => Sys2Proof.Machine.execSkipperGrant frm dest g s
  | .skipperTransfer frm dest g entries => Sys2Proof.Machine.execSkipperTransfer frm dest g entries s
  | .tileRequest core slot serial => Sys2Proof.Machine.execTileRequest core slot serial s
  | .tileReply core slot serial tile => Sys2Proof.Machine.execTileReply core slot serial tile s
  | .invocationMessage m => Sys2Proof.Machine.execInvocationMessage m s
  | .invocationReply m => Sys2Proof.Machine.execInvocationReply m s
  | .instantBegin cluster graph => Sys2Proof.Machine.execInstantBegin cluster graph s
  | .nodeStart cluster graph node => Sys2Proof.Machine.execNodeStart cluster graph node s
  | .emitMessage cluster graph node sig v => Sys2Proof.Machine.execEmitMessage cluster graph node sig v s
  | .signalQuery cluster graph node => Sys2Proof.Machine.execSignalQuery cluster graph node s
  | .channelRequest cluster graph node => Sys2Proof.Machine.execChannelRequest cluster graph node s
  | .instantEnd cluster graph => Sys2Proof.Machine.execInstantEnd cluster graph s
  | .causalityFreeze cluster graph => Sys2Proof.Machine.execCausalityFreeze cluster graph s
  | .frozenInvocation cluster graph => Sys2Proof.Machine.execFrozenInvocation cluster graph s
  | .regionForcedReadout cluster => Sys2Proof.Machine.execRegionForcedReadout cluster s
  | .staticEnergyTick core => Sys2Proof.Machine.execStaticEnergyTick core s
  | .permitAudit die => Sys2Proof.Machine.execPermitAudit die s
  | .linkRetrainEnd die link => Sys2Proof.Machine.execLinkRetrainEnd die link s
  | .placement die => Sys2Proof.Machine.execPlacement die s
  | .launchComplete launch => Sys2Proof.Machine.execLaunchComplete launch s
  | .lazySave core cid => Sys2Proof.Machine.execLazySave core cid s
  | .preemptComplete die cid => Sys2Proof.Machine.execPreemptComplete die cid s
  | .contextSave core cid => Sys2Proof.Machine.execContextSave core cid s
  | .contextRestore core cid => Sys2Proof.Machine.execContextRestore core cid s
  | .killMessageArrival core cid => Sys2Proof.Machine.execKillMessageArrival core cid s
  | .killWindowEnd core cid => Sys2Proof.Machine.execKillWindowEnd core cid s
  | .killDone die cid => Sys2Proof.Machine.execKillDone die cid s
  | .unhandledTrapKill die cid reason => Sys2Proof.Machine.execUnhandledTrapKill die cid reason s
  | .eventAcceptance die => Sys2Proof.Machine.execEventAcceptance die s
  | .debugStepEnd core slot => Sys2Proof.Machine.execDebugStepEnd core slot s
  | .tdiError part => Sys2Proof.Machine.execTdiError part s
  | .romVerify => Sys2Proof.Machine.execRomVerify s
  | .fullEntry => Sys2Proof.Machine.execFullEntry s
  | .powerStateEntry unit index => Sys2Proof.Machine.execPowerStateEntry unit index s
  | .powerStateExit unit index => Sys2Proof.Machine.execPowerStateExit unit index s
  | .clockThrottle watts => Sys2Proof.Machine.execClockThrottle watts s
  | .nodeDoneMessage cluster graph node sigs kind => Sys2Proof.Machine.execNodeDoneMessage cluster graph node sigs kind s
  | .wastedSlot core slot => Sys2Proof.Machine.execWastedSlot core slot s
  | .collectivePhaseEnd coll => Sys2Proof.Machine.execCollectivePhaseEnd coll s
  | .waitCallTimeout app launch => Sys2Proof.Machine.execWaitCallTimeout app launch s
  | .invalidate die cid va count => Sys2Proof.Machine.execInvalidate die cid va count s
  | .interrupt die cid core thread word => Sys2Proof.Machine.execInterrupt die cid core thread word s
  | .saveResume die cid core => Sys2Proof.Machine.execSaveResume die cid core s
  | .idleRead die core => Sys2Proof.Machine.execIdleRead die core s
  | .debugHalt die core => Sys2Proof.Machine.execDebugHalt die core s
  | .debugGo die core => Sys2Proof.Machine.execDebugGo die core s
  | .groupSet die group npart members => Sys2Proof.Machine.execGroupSet die group npart members s
  | .saveArea die cid core base len => Sys2Proof.Machine.execSaveArea die cid core base len s
  | .debugRead die cid core off len buf => Sys2Proof.Machine.execDebugRead die cid core off len buf s
  | .debugWrite die cid core off bytes => Sys2Proof.Machine.execDebugWrite die cid core off bytes s
  | .debugStep die cid core thread => Sys2Proof.Machine.execDebugStep die cid core thread s
  | .exit app code => Sys2Proof.Machine.execExit app code s
  | .log app addr len => Sys2Proof.Machine.execLog app addr len s
  | .mapx app words tail => Sys2Proof.Machine.execMapx app words tail s
  | .translatorQuotaExhausted app => Sys2Proof.Machine.execTranslatorQuotaExhausted app s
  | .launch app die desc => Sys2Proof.Machine.execLaunch app die desc s
  | .wait app launch timeout => Sys2Proof.Machine.execWait app launch timeout s
  | .alloc app bytes word0 => Sys2Proof.Machine.execAlloc app bytes word0 s
  | .free app va => Sys2Proof.Machine.execFree app va s
  | .event app buf cap => Sys2Proof.Machine.execEvent app buf cap s
  | .partitionInfo app buf => Sys2Proof.Machine.execPartitionInfo app buf s
  | .lockInterface part => Sys2Proof.Machine.execLockInterface part s
  | .startInterface part => Sys2Proof.Machine.execStartInterface part s
  | .stopInterface part => Sys2Proof.Machine.execStopInterface part s
  | .getVersion => Sys2Proof.Machine.execGetVersion s
  | .getCapabilities => Sys2Proof.Machine.execGetCapabilities s
  | .negotiateAlgorithms => Sys2Proof.Machine.execNegotiateAlgorithms s
  | .getDigests => Sys2Proof.Machine.execGetDigests s
  | .getCertificate => Sys2Proof.Machine.execGetCertificate s
  | .challenge nonce => Sys2Proof.Machine.execChallenge nonce s
  | .getMeasurements index => Sys2Proof.Machine.execGetMeasurements index s
  | .keyExchange port => Sys2Proof.Machine.execKeyExchange port s
  | .finish port => Sys2Proof.Machine.execFinish port s
  | .latencyToleranceWrite ns => Sys2Proof.Machine.execLatencyToleranceWrite ns s
  | .powerCapWrite watts => Sys2Proof.Machine.execPowerCapWrite watts s
  | .hostRegisterWrite off v => Sys2Proof.Machine.execHostRegisterWrite off v s
  | .applicationImageLoad app img => Sys2Proof.Machine.execApplicationImageLoad app img s
  | .partitionConfiguration part device dies keys => Sys2Proof.Machine.execPartitionConfiguration part device dies keys s
  | .linkBlockReceive port tagOk => Sys2Proof.Machine.execLinkBlockReceive port tagOk s
  | .preempt die cid forced => Sys2Proof.Machine.execPreempt die cid forced s
  | .kill die cid => Sys2Proof.Machine.execKill die cid s

end Sys2Proof.Machine
end

