-- ==== Sys2Proof/Machine/Fetch.lean ====
section
/-! DEFINITION. Whose turn it is (R89), instruction fetch (R45, R57, R322), the clock's tick, and the state in which a given
word is the next instruction. -/

namespace Sys2Proof.Machine

/-! ### Turns (R89) -/

/-- The slot of a core in the current cycle. -/
def State.slotNow (s : State) (core : Nat) : Nat := s.cyc (dieOf core) % 16

/-- Whether the thread k is ready in its slot: its context runs and is not stopped (the nodes of a running
instant go on until a read-out is forced, R312), its core is not halted, it neither waits nor
forfeits (R89, R346). -/
def State.issuing (s : State) (k : Key) : Bool :=
  let c := s.core k.1
  let t := s.thr k
  (match c.run with
   | some cid =>
     let x := (s.ctx (dieOf k.1) cid).st
     x == .running || (x == .preempting && t.isNode && !((s.cluster (clusterOf k.1)).pre.any (·.2)))
   | none => false) &&
  (!c.halted || c.dstep == some k.2) &&
  (match t.st with
   | .ready | .guest | .node => true
   | _ => false) &&
  t.pend.isNone && decide (t.next ≤ s.cyc (dieOf k.1))

/-- The first core from slotPos on whose slot holds a resident thread; a powered-off die has no turns (R364). -/
def State.nextCore (s : State) : Option Nat :=
  (s.cores.find? fun p => decide (s.slotPos ≤ p.1) && p.2.run.isSome && !(s.die (dieOf p.1)).off &&
    (p.2.thr (s.slotNow p.1)).st != .free).map (·.1)

/-- The events that fall due in a cycle by the clock alone: Skipper (R292), static energy (R350), the permit audit (R345). -/
def State.periodic (s : State) : List Instr :=
  let at' (m : Nat) (d : Nat) : Bool := s.cyc d % m == 0
  (s.cores.filterMap fun p =>
    if p.2.run.isSome && at' 4096 (dieOf p.1) && !(s.die (dieOf p.1)).off then some (Instr.skipperTick p.1) else none) ++
  (s.cores.filterMap fun p =>
    if at' 1024 (dieOf p.1) && !(s.die (dieOf p.1)).off then some (Instr.staticEnergyTick p.1) else none) ++
  (s.dies.filterMap fun p => if at' 65536 p.1 && !p.2.off then some (Instr.permitAudit p.1) else none)

/-- One cycle passes; a die that is off counts a lost cycle (R113, R364). -/
def State.tick (s : State) : State :=
  let ds := s.dies.map fun (p : Nat × Die) => (p.1, if p.2.off then { p.2 with lost := p.2.lost + 1 } else p.2)
  let s := { s with now := s.now + 1, slotPos := 0, dies := ds }.dmaDue
  s.periodic.foldl (fun s e => s.post 0 e) s

/-- The die that a request in flight to a peer's home waits for: in this package, and off (R364). -/
def State.peerDie (s : State) (req : Nat) : Option Nat :=
  (tget s.reqs req).bind fun r =>
    if r.tier = 2 ∧ r.fault = none then (r.els.head?).bind fun e => s.offDie 2 r.home e.loc else none

/-- The die on which an application's memory lies. -/
def State.appDie (s : State) (app : Nat) : Option Nat :=
  (tget s.apps app).bind fun a => (tget s.parts a.part).bind (·.dies.head?)

/-- The die, off, for whose exit an event waits (R364): a command to its context control, a call or a load of the runtime that
reaches memory there, an access of a peer. -/
def State.heldUp (s : State) (e : Instr) : Option Nat :=
  let off (d : Nat) : Option Nat := if (s.die d).off then some d else none
  match e with
  | .invalidate d .. | .interrupt d .. | .saveResume d .. | .idleRead d _ | .debugHalt d _ | .debugGo d _ | .groupSet d ..
  | .saveArea d .. | .debugRead d .. | .debugWrite d .. | .debugStep d .. | .preempt d .. | .kill d _ => off d
  | .log a .. | .mapx a .. | .launch a .. | .alloc a .. | .free a _ | .partitionInfo a _ | .applicationImageLoad a _ =>
    (s.appDie a).bind off
  | .memoryReply q | .relaxedAccessPerformed q | .redAcknowledgement q | .atomicRequest q | .postedStoreAck q => s.peerDie q
  | _ => none

/-- The answers after which a thread may issue in the same cycle (R19, R90); every other event of a cycle comes after the
issues of that cycle, which do not see it (R113). -/
def State.isAnswer (s : State) (e : Instr) : Bool :=
  match e with
  | .memoryReply q => (s.peerDie q).isNone
  | .monitorAck .. | .tileReply .. => true
  | .waitTimeout c t n => (match (s.thr (c, t)).pend with
    | some p => p.kind == .iflush && p.serial == n
    | none => false)
  | _ => false

/-- The first event of an agenda that is due and of a kind, and the other events. -/
def takeFirst (now : Nat) (kind : Instr → Bool) : List (Nat × Instr) → Option (Instr × List (Nat × Instr))
  | [] => none
  | (t, e) :: l =>
    if now < t then none
    else if kind e then some (e, l)
    else (takeFirst now kind l).map fun p => (p.1, (t, e) :: p.2)

/-- The first due answer, and the other events. -/
def State.takeEarly (s : State) : Option (Instr × List (Nat × Instr)) := takeFirst s.now s.isAnswer s.agenda

/-- The thread whose wait for earlier accesses ends with an event: its instruction is executed in this cycle (R90). -/
def State.waitOver (s : State) (e : Instr) : Option Key :=
  match e with
  | .waitTimeout c t n => (match (s.thr (c, t)).pend with
    | some ⟨.retry 0, _, _, m, _⟩ => if m = n then some (c, t) else none
    | _ => none)
  | _ => none

/-- The place of an event among those of its cycle that come after the issues. Executions of the cycle come before what follows
from the commits of all its issues: the ends of relaxed accesses (R214), the executions that they let go on (R90); then every event but
the claims of slots by arriving threads, then by nodes (R99), and the admission of cards (R221); last what still waits for a die
(R364). -/
def State.rank (s : State) (e : Instr) : Nat :=
  if (s.heldUp e).isSome then 6
  else if (s.waitOver e).isSome then 1
  else match e with
    | .relaxedAccessPerformed _ | .redAcknowledgement _ => 0
    | .postedStoreAccepted q => if (tget s.reqs q).any s.isRlx then 0 else 2
    | .landingSlotClaim .. => 3
    | .nodeStart .. => 4
    | .cardAdmission .. => 5
    | _ => 2

/-- The first due event of the lowest place, and the other events. -/
def State.takeDue (s : State) : Option (Instr × List (Nat × Instr)) :=
  (List.range 7).findSome? fun r => takeFirst s.now (fun e => s.rank e == r) s.agenda

/-- The thread is out of its wait, its instruction to be executed now: issued anew in this cycle W, so that the E of R92 of an
instruction without an access is W + 1 (notes/assumptions/85, DEDUCED: the list of R92 does not name this wait). -/
def State.waitDone (s : State) (k : Key) : State :=
  s.updThr k fun t => { t with st := if t.st = .waiting then .ready else t.st, pend := none, next := s.cyc (dieOf k.1) }

/-! ### Fetch (R45) -/

/-- The check of one 4-byte word of an instruction: an access of kind execute (R208, R70). -/
def State.fetchChk (s : State) (w : Who) (i va : Nat) : Chk :=
  match s.trans w.k va with
  | .walk => .walk va
  | .absent => .fault 3 .pageAbsent va
  | .leaf e =>
    if !permitted w.keys .exec w.task e then .fault 4 .permission va
    else if !Entry.pairOk e then .fault 5 .formatMismatch va
    else .ok [⟨Entry.homeCore e va, Entry.tier e, ⟨i, va, Entry.loc e va, 4, 0⟩⟩] []

/-- The values that a word has had, and no longer has, since the last `IFLUSH` of a core (R322). -/
def State.older (s : State) (core loc : Nat) : List (BitVec 32) :=
  ((s.oldWords.filter fun x => x.loc == loc && decide ((s.core core).iflush ≤ x.at')).map (·.w)).filter
    (· != BitVec.ofNat 32 (s.mem.read loc 4))

/-- One word through the instruction cache (R322): the value now, or one that a write has replaced since the core's last
`IFLUSH`; which one is free. -/
def State.fetchWord (s : State) (k : Key) (h : Hit) : State × BitVec 32 :=
  let m := BitVec.ofNat 32 (s.mem.read h.el.loc 4)
  match s.older k.1 h.el.loc with
  | [] => (s, m)
  | l =>
    let (n, s) := s.freeNat
    (s, (m :: l).getD (n % (l.length + 1)) m)

/-- What a fetch comes to. -/
inductive Fetched
  | instr (i : Instr)
  | trap (c : Cause) (val : Word)
  | walk (va : Nat)
  deriving DecidableEq, Repr

/-- Fetch and check of the word at PC (R45, R57 steps 1 to 3). -/
def State.fetch (s : State) (k : Key) : State × Fetched :=
  let t := s.thr k
  let w := s.who k
  match Chk.all false ((List.range 3).map fun i => s.fetchChk w i ((t.pc.toNat + 4 * i) % 2 ^ 48)) with
  | .walk va => (s, .walk va)
  | .fault _ c va => (s, .trap c (wordOf va))
  | .ok hs _ =>
    match hs.findSome? fun h => (s.badAt h.el.loc 4).map fun c => (c, h.el.va) with
    | some (c, va) => (s, .trap (causeOf c) (wordOf va))
    | none =>
      let (s, v) := hs.foldl (fun p h => let (s, x) := p.1.fetchWord k h; (s, p.2 + x.toNat * 2 ^ (32 * h.el.idx))) (s, 0)
      match decodeWord t.isNode (BitVec.ofNat 96 v) with
      | .ok i => (s, .instr i)
      | .error .illegalInstruction => (s, .trap .illegalInstruction (wordOf (v % 2 ^ 64)))
      | .error (.illegalOperand x) => (s, .trap .illegalOperand (wordOf x))

/-- A fetch that gives no instruction: the trap, or the wait for a walk. -/
def State.fetchStop (s : State) (k : Key) (f : Fetched) : State :=
  match f with
  | .instr _ => s
  | .trap c v => s.trapStep k 4 c v
  | .walk va =>
    s.settle k (s.cyc (dieOf k.1)) none 4 s.serial (.wait .walk 0 (s.startWalk k va))

/-! ### Placing a word where the next step fetches it -/

/-- The page that `placeWord` maps: readable, writable, executable, task mode, raw bytes, tier 0, home 0, at physical 0. -/
def placeLeaf : Entry := BitVec.ofNat 128 0xB1F

/-- A running context on core 0, its thread of the current slot READY at address 0 with the bytes there; a word that decodes
only in a node stands in a NODE thread. -/
def State.placeWord (s : State) (bytes : List Byte) : State :=
  let slot := s.slotNow 0
  let plain := (decode false bytes).toOption.isSome
  let t := { Thread.empty with
    st := if plain then TSt.ready else TSt.node
    node := if plain then none else some (0, 0, 0) }
  let s := { s with
    mem := s.mem.writeBytes 0 bytes
    oldWords := []
    agenda := s.agenda.filter fun e => decide (s.now < e.1)
    slotPos := 0 }
  let s := s.updDie 0 fun d => { d with
    off := false
    ctxs := tput d.ctxs 1 { ((tget d.ctxs 1).getD Ctx.empty) with st := .running, grid := [0] } }
  s.updCore 0 fun c => { (c.setThr slot t) with
    run := some 1
    halted := false
    tlb := [⟨1, 0, placeLeaf⟩] }

end Sys2Proof.Machine
end

