-- ==== Sys2Proof/Machine/Step.lean ====
section
/-! DEFINITION. One step: a due answer by which a thread may issue in this cycle, else the next core's slot of the cycle, else
another due event, after which no slot of the cycle is left, else the clock (R20, R89, R113). Core keys lie below 2048. -/

namespace Sys2Proof.Machine

/-- A thread issues an instruction. Where it would wait only for relaxed accesses that are ripe, these are performed and it does not
wait (R316, `State.eased`); it names at most a few waits, one after the other. -/
def State.issueTurn (i : Instr) (k : Key) : Nat → State → Host.Outcome State Fault Refusal
  | 0, s => exec i { s with cur := k }
  | n + 1, s =>
    match exec i { s with cur := k } with
    | .next s' => (match s.eased s' k with
      | some u => u.issueTurn i k n
      | none => .next s')
    | o => o

/-- The turn of a thread whose slot it is: a ready thread issues one instruction, else the slot is wasted (R59, R89). -/
def State.turn (s : State) (k : Key) : Host.Outcome State Fault Refusal :=
  if s.issuing k then
    match s.fetch k with
    | (s, .instr i) => s.issueTurn i k 4
    | (s, f) => .next (s.fetchStop k f)
  else exec (.wastedSlot k.1 k.2) s

/-- An event of the agenda: the end of a wait for earlier accesses is an execution of the instruction that waited; what needs a
die that is off waits for its exit (R364). -/
def State.event (s : State) (e : Instr) : Host.Outcome State Fault Refusal :=
  match s.waitOver e with
  | some k =>
    let s := s.waitDone k
    if s.issuing k then s.turn k else .next s
  | none =>
    match s.heldUp e with
    | some d => .next (s.awaitDie d e)
    | none => exec e s

def step (s : State) : Host.Outcome State Fault Refusal :=
  match s.takeEarly with
  | some (e, rest) => exec e { s with agenda := rest }
  | none =>
    match s.nextCore with
    | some c => State.turn { s with slotPos := c + 1 } (c, s.slotNow c)
    | none =>
      match s.takeDue with
      | some (e, rest) => State.event { s with agenda := rest, slotPos := 2048 } e
      | none => .next s.tick

/-- The state whose next step fetches and runs the instruction of a word: nbits of it, zeros above, up to 12 bytes. -/
def State.withFetchWord (s : State) (nbits w : Nat) : State :=
  s.placeWord (leBytes 12 (w % 2 ^ Nat.min nbits 96))

end Sys2Proof.Machine
end

