-- ==== Sys2Proof/Safety.lean ====
section
/-! DEFINITION. The terms of the statements: the invariant that steps keep, the thread whose instruction nothing stands in the
way of, and the state after an instruction that completes. -/

namespace Sys2Proof.Machine

/-- The memories of the machine are in canonical form. -/
def State.memOk (s : State) : Bool := s.mem.wf && s.appMem.wf

/-- The thread that issues. -/
abbrev State.me (s : State) : Thread := s.thr s.cur

/-- The context that its core runs, as the core holds it. -/
abbrev State.myCtx (s : State) : CCtx := (s.core s.cur.1).ctx (s.core s.cur.1).cid

/-- The current thread may issue and nothing but its instruction has an effect in the step: it holds a slot of a running context, waits for
nothing and did not, has no relaxed access out (R214), no clause (R144), no interrupt to take (R335), and is not stepped by a debugger
(R358). -/
structure State.Clear (s : State) : Prop where
  here : s.resident s.cur = true
  idle : s.me.pend = none
  awake : s.me.st ≠ .waiting
  rlx : s.me.rlx = []
  dfault : s.me.dfault = []
  seen : s.me.seen = none
  clause : ∀ i, s.me.clause i = none
  quiet : (s.me.intPending && s.me.ie && !s.me.mode) = false
  free : (s.core s.cur.1).dstep ≠ some s.cur.2

/-- The current thread may issue, its clauses as they are. -/
structure State.Ready (s : State) : Prop where
  here : s.resident s.cur = true
  idle : s.me.pend = none
  awake : s.me.st ≠ .waiting
  rlx : s.me.rlx = []
  dfault : s.me.dfault = []
  quiet : (s.me.intPending && s.me.ie && !s.me.mode) = false
  free : (s.core s.cur.1).dstep ≠ some s.cur.2

/-- Turns that an evaluation of a cost forfeits after an instruction of the current thread that accesses no memory (R92). -/
def State.forfeits (s : State) (cost : Nat) : Nat :=
  let y := s.cyc (dieOf s.cur.1) + 1
  (alignUp (y + cost) s.cur.2 - alignUp y s.cur.2) / 16

/-- A thread whose PC is `pc`, with no walk answered and nothing read in an earlier cycle. -/
def Thread.atPc (t : Thread) (pc : Addr) : Thread := { t with pc := pc, walked := [], seen := none }

/-- A thread with its next turn and its count of forfeited turns. -/
def Thread.due (t : Thread) (next : Nat) (forfeit : Word) : Thread := { t with next := next, forfeit := forfeit }

/-- A thread after an instruction: `f` of it with PC at the next word, its next turn, and the turns forfeited. -/
def Thread.retire (t : Thread) (next forf : Nat) (f : Thread → Thread) : Thread :=
  (f (t.atPc (pcNext t.pc))).due next (t.forfeit + BitVec.ofNat 64 forf)

/-- The state after an instruction of the current thread that completes: the thread's change `f`; the energy counted (R349); the
next turn: the first in the thread's slot when the latency has passed (R19, R89), after `forf` forfeited ones (R91). -/
def State.retired (s : State) (eu lat forf : Nat) (f : Thread → Thread) : State :=
  (s.updThr s.cur fun t => t.retire (alignUp (s.cyc (dieOf s.cur.1) + Nat.max lat 1) s.cur.2 + 16 * forf) forf f).chargeIn
    s.cur.1 (Nat.max lat 1) eu

/-! ### Instructions and steps -/

/-- A Pyrdal instruction on d or ch registers: it decodes only in a node (R47). -/
def nodeReg : Instr → Bool
  | .dget .. | .dset .. | .chw .. | .chr .. => true
  | _ => false

/-- The privileged instructions (R332, R336). -/
def privileged : Instr → Bool
  | .eret .. | .sysr .. | .sysw .. => true
  | _ => false

/-- The lane-wise opcodes (R50): the vector instructions, and the vector loads and stores. -/
def laneWise (op : Nat) : Bool := (0x50 ≤ op && op ≤ 0x6D) || (0x84 ≤ op && op ≤ 0x87)

/-- The agenda holds steps of the machine, and no Pyrdal instruction. -/
def State.planned (s : State) : Prop := ∀ e ∈ s.agenda, encode e.2 = none

/-- The slot of core c is the next to be served in this cycle. -/
def State.served (s : State) (c : Nat) : Prop := s.takeEarly = none ∧ s.nextCore = some c

/-- The three addresses of the word at the PC of thread k (R45). -/
def State.fetchVa (s : State) (k : Key) (j : Fin 3) : Nat := ((s.thr k).pc.toNat + 4 * j.val) % 2 ^ 48

/-- The word at the PC of thread k can be fetched, and is w (R45): its pages allow it, and no line of memory is bad. -/
def State.fetches (s : State) (k : Key) (w : IWord) : Prop :=
  s.badLines = [] ∧ ∀ j : Fin 3, ∃ e, s.trans k (s.fetchVa k j) = .leaf e ∧
    permitted (s.partOf (dieOf k.1) (s.core k.1).cid).keys .exec (!(s.thr k).mode) e = true ∧ Entry.pairOk e = true ∧
    s.mem.read (Entry.loc e (s.fetchVa k j)) 4 = (w.extractLsb' (32 * j.val) 32).toNat

/-- No write has replaced a word at the PC of thread k since its core's last `IFLUSH` (R322). -/
def State.unwritten (s : State) (k : Key) : Prop :=
  ∀ (j : Fin 3) (e : Entry), s.trans k (s.fetchVa k j) = .leaf e → s.older k.1 (Entry.loc e (s.fetchVa k j)) = []

/-! ### What an instruction comes to -/

/-- It completes with the change f of its thread (R59). -/
abbrev State.does (s : State) (i : Instr) (eu lat : Nat) (f : Thread → Thread) : Prop :=
  exec i s = .next (s.retired eu lat 0 f)

/-- It completes, its other effects being those of s'. -/
abbrev State.doesIn (s s' : State) (i : Instr) (eu lat : Nat) (f : Thread → Thread) : Prop :=
  exec i s = .next (s'.retired eu lat 0 f)

/-- It traps (R60, R333). -/
abbrev State.traps (s : State) (i : Instr) (eu : Nat) (c : Cause) (v : Word) : Prop :=
  exec i s = .next (s.trapStep s.cur eu c v)

/-- The `%tid` of the current thread (R97). -/
def State.tid (s : State) : Nat := if s.me.st = .guest then s.me.origin.2 else s.cur.2

/-- A thread as `TSTART` starts it (R103). -/
def Thread.born (light : Bool) (pc : Addr) (arg : Word) (fmode : BitVec 10) (next : Nat) : Thread :=
  { Thread.empty with st := .ready, light := light, pc := pc, g := Thread.empty.g.set 1 arg, fmode := fmode, next := next }

/-- A thread that has exited with v: its clauses, streams and monitors are gone (R105). -/
def Thread.done (t : Thread) (v : Word) : Thread :=
  { t with
    st := .exited, exitV := v, pend := none, walked := [], cl := Vector.replicate 8 none, str := Vector.replicate 8 none
    mon := Vector.replicate 4 none }

/-! ### Waits (R90) -/

/-- The current thread has begun to wait in its instruction, as number n: in the agenda the end of its timeout, 0 for none. -/
def State.waiting (s : State) (n eu timeout : Nat) (kind : PendK) : State :=
  let due := if timeout = 0 then none else some (s.now + timeout)
  let t0 := s.cyc (dieOf s.cur.1)
  let s := { s with serial := Nat.max s.serial (n + 1) }.updThr s.cur fun t =>
    { t with st := if t.st = TSt.ready then TSt.waiting else t.st, pend := some ⟨kind, t0, eu, n, due⟩ }
  match due with
  | some d => { s with agenda := agendaAdd s.agenda d (.waitTimeout s.cur.1 s.cur.2 n) }
  | none => s

/-- It waits. -/
abbrev State.blocks (s : State) (i : Instr) (eu timeout : Nat) (kind : PendK) : Prop :=
  exec i s = .next (s.waiting s.serial eu timeout kind)

/-- Thread k waits for a thing, and nothing but its instruction has an effect when the wait ends: no clause (R144), no interrupt to
take (R335), no debug step (R358). -/
structure State.Waits (s : State) (k : Key) (kind : PendK) (t0 eu n : Nat) (due : Option Nat) : Prop where
  slot : k.2 < 16
  pend : (s.thr k).pend = some ⟨kind, t0, eu, n, due⟩
  clause : ∀ i, (s.thr k).clause i = none
  quiet : ((s.thr k).intPending && (s.thr k).ie && !(s.thr k).mode) = false
  free : (s.core k.1).dstep ≠ some k.2

/-- A thread out of its wait, PC at the next word. -/
def Thread.resumed (t : Thread) : Thread :=
  { t with st := if t.st = .waiting then .ready else t.st, pend := none, walked := [], seen := none, pc := pcNext t.pc }

/-- The instruction that thread k waited in has completed with the change f; its next turn. -/
def State.over (s : State) (k : Key) (next eu : Nat) (f : Thread → Thread) : State :=
  (s.updThr k fun t => (f t.resumed).due next t.forfeit).chargeRun k.1 eu

/-- The cycle E of R92 after a wait with a latency that ends now (R19, R90). -/
def State.endL (s : State) (k : Key) (t0 : Nat) : Nat := Nat.max (s.cyc (dieOf k.1)) (t0 + 1)

/-- The instruction that thread k waited in, with a latency, completes in cycle e with the change f: charged there, and the thread's
next turn is the first from there on. -/
def State.overL (s : State) (k : Key) (e eu : Nat) (f : Thread → Thread) : State :=
  (s.updThr k fun t => (f t.resumed).due (alignUp e k.2) t.forfeit).chargeIn k.1 (e - s.cyc (dieOf k.1)) eu

/-- `MWAIT` reports (R284): the word, with the reason `els` where no entry is FIRED or LOST; FIRED cleared, LOST entries freed. -/
def Thread.told (d : GReg) (els : Nat) (t : Thread) : Thread :=
  let fired := t.monMask (·.fired)
  let lost := t.monMask (·.lost)
  let reason := if fired ≠ 0 then 1 else if lost ≠ 0 then 4 else els
  Thread.setG { t with mon := t.mon.map fun m => match m with
    | some e => if e.lost then none else some { e with fired := false }
    | none => none } d (BitVec.ofNat 64 (lost * 2 ^ 12 + fired * 2 ^ 8 + reason))

/-- The next turn after another wait that ends now (R90). -/
def State.turnW (s : State) (k : Key) : Nat := alignUp (s.cyc (dieOf k.1) + 1) k.2

/-! ### The instant controller (R298) -/

/-- The controller of a cluster may handle the message ev now, and has no other. -/
def State.onTurn (s : State) (cl : Nat) (ev : Instr) : Prop :=
  ∃ m : CtlMsg, (s.cluster cl).inbox = [m] ∧ m.ev = ev ∧ m.due ≤ s.now ∧ (s.cluster cl).cfree ≤ s.now

/-- The controller has handled its message. -/
def State.handled (s : State) (cl : Nat) : State := s.updCluster cl fun c => { c with inbox := [], cfree := s.now + 1 }

/-- The next turn of a node that the controller answers now: the answer takes 6 cycles (R306). -/
def State.turnC (s : State) (k : Key) (t0 : Nat) : Nat := alignUp (Nat.max (s.cyc (dieOf k.1)) t0 + 6) k.2

/-! ### Jobs of cards (R218, R219) -/

/-- No thread waits. -/
def State.noWaits (s : State) : Prop := ∀ k, (s.thr k).pend = none

/-- The tag t is w when one of its jobs has ended in class cls: with SAT or not, or with a fault, a code and an address. -/
def Tag.ends (t w : Tag) (cls : Nat) (sat : Bool) (fault : Option (Nat × Nat)) : Prop :=
  w.count = t.count - 1 ∧ (w.done = true ↔ t.done = true ∨ t.count = 1) ∧
  match fault with
  | none => w.err = t.err ∧ (t.status = 0 → w.status = BitVec.ofNat 64 (sat.toNat * 2 ^ 16 + cls * 2 ^ 8))
  | some (code, addr) =>
    w.err = true ∧ (t.status &&& 0xFF = 0 → w.status = BitVec.ofNat 64 (addr % 2 ^ 52 / 16 * 2 ^ 16 + cls * 2 ^ 8 + code))

/-- From s to u the job of a card of queue n has ended, its card the only one of the queue: the tag of its core, and the queue. -/
def State.cardEnds (s u : State) (n : Nat) (q : QCard) (cls : Nat) (sat : Bool) (fault : Option (Nat × Nat)) : Prop :=
  ((s.core q.core).tagAt (Card.tag q.card)).ends ((u.core q.core).tagAt (Card.tag q.card)) cls sat fault ∧
  (u.queue q.core n).cards = [] ∧ (u.queue q.core n).cons = (s.queue q.core n).cons + 1

/-- The card q is the only one of its queue n, which its context, running, has posted, and no thread waits. -/
structure State.Sole (s : State) (n : Nat) (q : QCard) : Prop where
  queue : (s.queue q.core n).cards = [q]
  held : q.released = false
  run : (s.core q.core).run = some q.cid
  goes : (s.ctx (dieOf q.core) q.cid).st = .running
  waits : s.noWaits

/-! ### What engines access (R209, R230, R234, R235) -/

/-- A space as an engine of the card q's context sees it: global memory, or a buffer of the posting core. -/
def State.space (s : State) (q : QCard) (sp : Nat) : Mem := if sp = 0 then s.mem else ((s.core q.core).ctx q.cid).buf sp

/-- n bytes at a in a space, for an element of type t, which an engine of the card q's context may access: at `loc` of global memory,
raw, in one page that is not a peer's or the host's, whatever stands in the bytes that `w` names; or at offset `loc` of a buffer. -/
def State.engAt (s : State) (q : QCard) (acc : AccK) (t : ETy) (sp : Nat) (a : Int) (n loc : Nat) (w : Nat → Prop) : Prop :=
  if sp = 0 then
    let va := (a % 2 ^ 48).toNat
    va % 2 ^ 16 + n ≤ 2 ^ 16 ∧ ∃ e : Entry,
      (∀ m : Mem, (∀ b, ¬w b → m.get b = s.mem.get b) → State.transEng { s with mem := m } q.core q.cid va = .leaf e) ∧
      permitted (s.partOf (dieOf q.core) q.cid).keys acc true e = true ∧ pageMeets e t (acc = .store) = .raw ∧ Entry.tier e ≤ 1 ∧
      Entry.loc e va = loc
  else agentOk .copy sp (acc = .store) = true ∧ 0 ≤ a ∧ a + n ≤ ((s.core q.core).ctx q.cid).size sp ∧ a = loc

/-- The addresses of element n of a copy job in its source and in its destination, `ix` the indices of its rows. -/
def Card.srcAt (c : Card) (ix : Nat → Nat) (n : Nat) : Int :=
  let r := n / jobLen c
  Card.addr c 64 + (n % jobLen c * ((jobIn c).bits / 8) : Nat) + match Card.type c with
    | 1 => Card.fs c 287 256 * r
    | 2 => (Card.f c 383 352 * ix r : Nat)
    | _ => Card.fs c 415 384 * r

def Card.dstAt (c : Card) (ix : Nat → Nat) (n : Nat) : Int :=
  let r := n / jobLen c
  Card.addr c 128 + (n % jobLen c * ((jobOut c).bits / 8) : Nat) + match Card.type c with
    | 1 | 4 => Card.fs c 319 288 * r
    | 2 => Card.fs c 415 384 * r
    | _ => (Card.f c 383 352 * ix r : Nat)

/-- n bytes at a and m bytes at b have no byte in common. -/
def apart (a n b m : Nat) : Prop := a + n ≤ b ∨ b + m ≤ a

/-- The controller of a cluster may store n words at va for a context (R304, R311): word i at `loc i`, all of them apart. -/
def State.ctlRoom (s : State) (cl cid va n : Nat) (loc : Nat → Nat) : Prop :=
  let w (b : Nat) : Prop := ∃ i, i < n ∧ loc i ≤ b ∧ b < loc i + 8
  s.badLines = [] ∧ s.mem.wf = true ∧
  (∀ i, i < n → s.engAt ⟨0, coreIn cl 0, cid, 0, false, 0⟩ .store .int64 0 (va + 8 * i : Nat) 8 (loc i) w) ∧
  ∀ i j, i < j → j < n → apart (loc i) 8 (loc j) 8

/-- From s to u the words of a list have been stored, word i at `loc i`, and nothing else in memory has changed. -/
def State.ctlStored (s u : State) (loc : Nat → Nat) (l : List Word) : Prop :=
  (∀ i, i < l.length → u.mem.read (loc i) 8 = (l.getD i 0).toNat) ∧
  ∀ b, (∀ i, i < l.length → apart b 1 (loc i) 8) → u.mem.get b = s.mem.get b

/-! ### The context control (R357, R358) -/

/-- A command of the context control is DONE, with ERR or not, and its answer leaves the machine. -/
def State.commandDone (s : State) (die code : Nat) (err : Bool) (v : Word) : State :=
  { s.updDie die fun d => { d with done := true, err := err } with replies := s.replies ++ [.ctl die code err v] }

/-- A thread at an instruction boundary with no clause, stream, monitor or deferred fault. -/
structure Thread.Plain (t : Thread) : Prop where
  st : t.st = .ready
  pend : t.pend = none
  reply : t.hreply = none
  was : t.waitWas = 0
  fault : t.dfault = []
  clause : ∀ i, t.clause i = none
  stream : ∀ v, t.stream v = none
  mon : ∀ i : Fin 4, t.mon.get i = none

/-! ### Integers of w bits (R116) -/

/-- The signed value of the low w bits. -/
def Spec.sw (w : Nat) (x : Word) : Int := (x.setWidth w).toInt

/-- The unsigned value of the low w bits. -/
def Spec.uw (w : Nat) (x : Word) : Nat := (x.setWidth w).toNat

/-- `fin`: the low w bits, sign-extended to 64. -/
def Spec.fin (w : Nat) (r : Int) : Word := (BitVec.ofInt w r).signExtend 64

/-! ### Exact values (R62, R74) -/

/-- The number (−1)^neg × m × 2^e. -/
def Spec.val (neg : Bool) (m : Nat) (e : Int) : Rat :=
  (if neg then -1 else 1) * (m * 2 ^ e.toNat : Nat) / (2 ^ (-e).toNat : Nat)

/-- The number that a value stands for; none for a NaN or an infinity. -/
def Spec.number : Num.Val → Option Rat
  | .num n m e => some (Spec.val n m e)
  | _ => none

/-- An instruction that raises flags ends (R79): its change of the thread, with the flags ORed in and two turns forfeited for a
subnormal (R81), or, where an enabled flag is among them, FP_EXCEPTION with nothing written. -/
def State.ends (s : State) (i : Instr) (eu : Nat) (flags : BitVec 5) (sub : Bool) (f : Thread → Thread) : Prop :=
  (flags &&& s.me.fmode.extractLsb' 5 5 = 0 →
    exec i s = .next (s.retired eu 0 (if sub then 2 else 0) fun t => { f t with fflags := t.fflags ||| flags })) ∧
  (flags &&& s.me.fmode.extractLsb' 5 5 ≠ 0 → exec i s = .next (s.trapStep s.cur eu .fpException (flags.zeroExtend 64)))

/-! ### Memory (R17, R19, R208) -/

/-- The own home slice is free to serve the thread at once: no request waits there, its port is idle, it watches no line, no
atomic has written there, no line of memory is bad; and no posted store of the thread is out. -/
structure State.PortIdle (s : State) : Prop where
  queue : (s.core s.cur.1).homeQ = []
  free : (s.core s.cur.1).portFree ≤ s.now
  mons : (s.core s.cur.1).mons = []
  atoms : (s.core s.cur.1).amoW = []
  lines : s.badLines = []
  postD : s.me.postD = []
  postH : s.me.postH = []

/-- An aligned access of n bytes of type t at `va` passes the checks of R208, its page is raw, and it lies in the own slice, at
`loc`, which is a slice's (R198). -/
def State.reach (s : State) (acc : AccK) (t : ETy) (n va loc : Nat) : Prop :=
  va % n = 0 ∧ ∃ e, s.trans s.cur (va % 2 ^ 48) = .leaf e ∧
    permitted (s.partOf (dieOf s.cur.1) (s.core s.cur.1).cid).keys acc (!s.me.mode) e = true ∧
    pageMeets e t (acc ≠ .load) = .raw ∧ Entry.tier e = 0 ∧ Entry.homeCore e (va % 2 ^ 48) = s.cur.1 ∧
    Entry.loc e (va % 2 ^ 48) = loc ∧ loc % 2 ^ 43 + n ≤ 2 ^ 40

/-- The own slice has served a request that holds its port for `hold` cycles. -/
def State.usePort (s : State) (hold : Nat) : State :=
  s.updCore s.cur.1 fun c => { c with portFree := s.now + hold, lastIn := 0 }

/-- A loaded value of n bytes in a g register: sign-extended or zero-extended (R211). -/
def Spec.loaded (sx : Bool) (n v : Nat) : Word :=
  if sx then BitVec.ofInt 64 (BitVec.ofNat (8 * n) v).toInt else BitVec.ofNat 64 v

/-! ### Vectors (R154 to R156) -/

/-- A heavy thread with no stream bound and some lane active. -/
structure State.Lanes (s : State) (gd : Guard) : Prop where
  heavy : s.me.light = false
  stream : ∀ v, s.me.stream v = none
  some : s.me.lanes gd ≠ 0

/-- The active elements of w bits: those whose 32-bit lane is. -/
def State.active (s : State) (gd : Guard) (w n : Nat) : List Nat :=
  (List.range n).filter fun e => (s.me.lanes gd).getLsbD (e * w / 32)

/-- Element e of source B. -/
def State.srcB (s : State) (w : Nat) (b : OpV) (e : Nat) : Nat :=
  match b with
  | .v r => velem w (s.me.rv r) e
  | .g r => (s.me.rg r).toNat % 2 ^ w
  | .lit x => x.toNat % 2 ^ w

/-- An element-wise instruction: the active elements of D take `f`, the others stay; the flags of all of them together. -/
def State.lanewise (s : State) (i : Instr) (gd : Guard) (eu w : Nat) (d : VReg) (f : Nat → Num.Res) : Prop :=
  let act := s.active gd w (2048 / w)
  ∃ v : VWord,
    s.ends i eu (act.foldl (fun g e => g ||| (f e).f) 0) (act.any fun e => (f e).sub) (·.setV d v) ∧
    ∀ e, e < 2048 / w → velem w v e = if e ∈ act then (f e).r % 2 ^ w else velem w (s.me.rv d) e

/-! ### Stream operands (R172, R173) -/

/-- Element e of an input: of the stream that the register holds the e-th held element, else of the register. -/
def State.el (s : State) (w : Nat) (v : VReg) (e : Nat) : Nat :=
  match s.me.stream v with
  | some x => ((x.held[e]?).map (·.val.toNat)).getD 0
  | none => velem w (s.me.rv v) e

/-- Element e of source B, which may be a stream. -/
def State.elB (s : State) (w : Nat) (b : OpV) (e : Nat) : Nat :=
  match b with
  | .v r => s.el w r e
  | _ => s.srcB w b e

/-- The v register of source B, with its type. -/
def insB (b : OpV) (ty : ETy) : List (VReg × ETy) :=
  match b with
  | .v r => [(r, ty)]
  | _ => []

/-- Some operand is a stream, and all that are give and take n elements of a beat: each is ARMED, of the right direction and type,
has n elements to go, and holds n good ones, or room for n. -/
structure State.Flows (s : State) (gd : Guard) (ty : ETy) (n : Nat) (ins : List (VReg × ETy)) (d : VReg) : Prop where
  heavy : s.me.light = false
  lane : s.me.lanes gd ≠ 0
  bound : (∃ p ∈ ins, s.me.stream p.1 ≠ none) ∨ s.me.stream d ≠ none
  pos : 0 < n
  pops : ∀ p ∈ ins, ∀ x, s.me.stream p.1 = some x → x.st = .armed ∧ x.out = false ∧ x.ety = p.2 ∧
    min (2048 / ty.bits) (x.total - x.pos) = n ∧ n ≤ x.held.length ∧ ∀ e ∈ x.held.take n, e.fault = none
  push : ∀ x, s.me.stream d = some x → x.st = .armed ∧ x.out = true ∧ x.ety = ty ∧
    min (2048 / ty.bits) (x.total - x.pos) = n ∧ x.held.length + n ≤ 4 * (2048 / ty.bits)

/-- An element-wise instruction on streams: each input stream gives its next n elements; the active ones of the n results go into D,
or all n into the output stream D, where those of inactive lanes are only counted; an enabled flag traps before any effect. -/
def State.streamwise (s : State) (i : Instr) (gd : Guard) (eu w : Nat) (d : VReg) (ins : List (VReg × ETy)) (n : Nat)
    (f : Nat → Num.Res) : Prop :=
  let act := (s.active gd w (2048 / w)).filter (· < n)
  let flags := act.foldl (fun g e => g ||| (f e).f) 0
  (flags &&& s.me.fmode.extractLsb' 5 5 ≠ 0 → exec i s = .next (s.trapStep s.cur eu .fpException (flags.zeroExtend 64))) ∧
  (flags &&& s.me.fmode.extractLsb' 5 5 = 0 → ∃ u, exec i s = .next u ∧ u.mem = s.mem ∧ (∀ k, k ≠ s.cur → u.thr k = s.thr k) ∧
    u.me.pc = pcNext s.me.pc ∧ u.me.g = s.me.g ∧ u.me.p = s.me.p ∧ u.me.fflags = s.me.fflags ||| flags ∧
    (∀ p ∈ ins, ∀ x, s.me.stream p.1 = some x → ∃ busy, u.me.stream p.1 =
      some { x with pos := x.pos + n, held := x.held.drop n, busy := busy }) ∧
    (∀ x, s.me.stream d = some x → u.me.v = s.me.v ∧ ∃ (busy : Bool) (z : Nat → BitVec 32), u.me.stream d = some { x with
      pos := x.pos + n, busy := busy
      held := x.held ++ (List.range n).map fun e => ⟨x.pos + e, z e, decide (e ∈ act), none⟩ } ∧
      ∀ e ∈ act, (z e).toNat % 2 ^ min w 32 = (f e).r % 2 ^ min w 32) ∧
    (s.me.stream d = none → ∃ v : VWord, u.me.v = (s.me.setV d v).v ∧
      ∀ e, e < 2048 / w → velem w v e = if e ∈ act then (f e).r % 2 ^ w else velem w (s.me.rv d) e))

end Sys2Proof.Machine
end

