-- ==== Sys2Proof/Certificates/Slice0/Obligations.lean ====
section
/-! DEFINITION. The statements for the provers. Each says for which states an instruction or a machine step completes, with the
state that follows; the terms are those of `Safety`. -/

open Sys2Proof Sys2Proof.Machine

/-- R118. Addition and subtraction, saturating or not, products, and the upper half of a product. -/
def Obligations.ArithmeticResults : Prop :=
  ∀ (s : State) (gd : Guard) (w32 : Bool) (d a : GReg) (b : OpB), s.Clear → s.me.guardOn gd = true →
    let w := if w32 then 32 else 64
    let x := s.me.rg a
    let y := OpB.sx s.me b
    let clamp (sat : Bool) (r : Int) : Int := if sat then min (max r (-(2 ^ (w - 1)))) (2 ^ (w - 1) - 1) else r
    let writes (v : Word) := Host.Outcome.next (s.retired 4 0 0 (·.setG d v))
    (∀ sat, exec (.add gd w32 sat d a b) s = writes (Spec.fin w (clamp sat (Spec.sw w x + Spec.sw w y)))) ∧
    (∀ sat, exec (.sub gd w32 sat d a b) s = writes (Spec.fin w (clamp sat (Spec.sw w x - Spec.sw w y)))) ∧
    exec (.mul gd w32 d a b) s = writes (Spec.fin w (Spec.sw w x * Spec.sw w y)) ∧
    exec (.mulh gd w32 .s d a b) s = writes (Spec.fin w ((Spec.sw w x * Spec.sw w y) / 2 ^ w)) ∧
    exec (.mulh gd w32 .u d a b) s = writes (Spec.fin w ((Spec.uw w x * Spec.uw w y : Nat) / 2 ^ w)) ∧
    exec (.mulh gd w32 .su d a b) s = writes (Spec.fin w ((Spec.sw w x * Spec.uw w y) / 2 ^ w)) ∧
    (∀ u, Spec.uw w y = 0 →
      exec (.div gd w32 u d a b) s = .next (s.trapStep s.cur 4 .intDivideByZero 0) ∧
      exec (.rem gd w32 u d a b) s = .next (s.trapStep s.cur 4 .intDivideByZero 0)) ∧
    (Spec.uw w y ≠ 0 →
      exec (.div gd w32 false d a b) s = writes (Spec.fin w ((Spec.sw w x).tdiv (Spec.sw w y))) ∧
      exec (.div gd w32 true d a b) s = writes (Spec.fin w (Spec.uw w x / Spec.uw w y : Nat)) ∧
      exec (.rem gd w32 false d a b) s =
        writes (Spec.fin w (Spec.sw w x - (Spec.sw w x).tdiv (Spec.sw w y) * Spec.sw w y)) ∧
      exec (.rem gd w32 true d a b) s = writes (Spec.fin w (Spec.uw w x % Spec.uw w y : Nat)))

/-- R119. Logic, shifts and rotations. -/
def Obligations.LogicAndShifts : Prop :=
  ∀ (s : State) (gd : Guard) (w32 : Bool) (d a : GReg) (b : OpB), s.Clear → s.me.guardOn gd = true →
    let w := if w32 then 32 else 64
    let x := s.me.rg a
    let y := OpB.zx s.me b
    let n := y.toNat % w
    let writes (v : Word) := Host.Outcome.next (s.retired 4 0 0 (·.setG d v))
    let low (v : Word) : Word := Spec.fin w v.toNat
    exec (.and gd w32 d a b) s = writes (low (x &&& y)) ∧
    exec (.or gd w32 d a b) s = writes (low (x ||| y)) ∧
    exec (.xor gd w32 d a b) s = writes (low (x ^^^ y)) ∧
    exec (.andn gd w32 d a b) s = writes (low (x &&& ~~~y)) ∧
    exec (.shl gd w32 d a b) s = writes (Spec.fin w (Spec.uw w x * 2 ^ n : Nat)) ∧
    exec (.shr gd w32 false d a b) s = writes (Spec.fin w (Spec.uw w x / 2 ^ n : Nat)) ∧
    exec (.shr gd w32 true d a b) s = writes (Spec.fin w (Spec.sw w x / 2 ^ n)) ∧
    exec (.rot gd w32 false d a b) s = writes (Spec.fin w (Spec.uw w x * 2 ^ n + Spec.uw w x / 2 ^ (w - n) : Nat)) ∧
    exec (.rot gd w32 true d a b) s = writes (Spec.fin w (Spec.uw w x / 2 ^ n + Spec.uw w x * 2 ^ (w - n) : Nat))

/-- R120. Minimum, maximum, selection, and the counts of leading zeros, trailing zeros and ones. -/
def Obligations.SelectionAndCounting : Prop :=
  ∀ (s : State) (gd : Guard) (w32 : Bool) (d a : GReg) (b : OpB) (c : PReg), s.Clear → s.me.guardOn gd = true →
    let w := if w32 then 32 else 64
    let x := s.me.rg a
    let y := OpB.sx s.me b
    let writes (v : Word) := Host.Outcome.next (s.retired 4 0 0 (·.setG d v))
    let low (v : Word) : Word := Spec.fin w v.toNat
    exec (.min gd w32 false d a b) s = writes (low (if Spec.sw w x ≤ Spec.sw w y then x else y)) ∧
    exec (.min gd w32 true d a b) s = writes (low (if Spec.uw w x ≤ Spec.uw w y then x else y)) ∧
    exec (.max gd w32 false d a b) s = writes (low (if Spec.sw w x ≥ Spec.sw w y then x else y)) ∧
    exec (.max gd w32 true d a b) s = writes (low (if Spec.uw w x ≥ Spec.uw w y then x else y)) ∧
    exec (.sel gd w32 d a b c) s = writes (low (if (s.me.rp c).getLsbD 0 then x else y)) ∧
    (∃ n, n ≤ w ∧ exec (.clz gd w32 false d a) s = writes (BitVec.ofNat 64 n) ∧
      (∀ i, i < w → w ≤ i + n → x.getLsbD i = false) ∧ (n < w → x.getLsbD (w - 1 - n) = true)) ∧
    (∃ n, n ≤ w ∧ exec (.clz gd w32 true d a) s = writes (BitVec.ofNat 64 n) ∧
      (∀ i, i < n → x.getLsbD i = false) ∧ (n < w → x.getLsbD n = true)) ∧
    exec (.popc gd w32 d a) s = writes (BitVec.ofNat 64 ((List.range w).filter (x.getLsbD ·)).length)

/-- R121, R122. `CMP` writes all ones or zero; `PLOG` combines 64 bits of two predicates. p0 keeps its value (R48). -/
def Obligations.ComparesAndPredicates : Prop :=
  ∀ (s : State) (gd : Guard) (w32 : Bool) (d : PReg) (a : GReg) (b : OpB) (p q : PReg), s.Clear → s.me.guardOn gd = true →
    let w := if w32 then 32 else 64
    let x := s.me.rg a
    let y := OpB.sx s.me b
    let f := s.me.rp p
    let g := s.me.rp q
    let writes (v : Word) := Host.Outcome.next (s.retired 4 0 0 (·.setP d v))
    let holds (c : Prop) [Decidable c] := writes (if c then BitVec.allOnes 64 else 0)
    exec (.cmp gd w32 .eq d a b) s = holds (Spec.sw w x = Spec.sw w y) ∧
    exec (.cmp gd w32 .ne d a b) s = holds (Spec.sw w x ≠ Spec.sw w y) ∧
    exec (.cmp gd w32 .lt d a b) s = holds (Spec.sw w x < Spec.sw w y) ∧
    exec (.cmp gd w32 .ge d a b) s = holds (Spec.sw w x ≥ Spec.sw w y) ∧
    exec (.cmp gd w32 .le d a b) s = holds (Spec.sw w x ≤ Spec.sw w y) ∧
    exec (.cmp gd w32 .gt d a b) s = holds (Spec.sw w x > Spec.sw w y) ∧
    exec (.cmp gd w32 .ltu d a b) s = holds (Spec.uw w x < Spec.uw w y) ∧
    exec (.cmp gd w32 .geu d a b) s = holds (Spec.uw w x ≥ Spec.uw w y) ∧
    exec (.plog gd .and d p q) s = writes (f &&& g) ∧
    exec (.plog gd .or d p q) s = writes (f ||| g) ∧
    exec (.plog gd .xor d p q) s = writes (f ^^^ g) ∧
    exec (.plog gd .andn d p q) s = writes (f &&& ~~~g) ∧
    exec (.plog gd .orn d p q) s = writes (f ||| ~~~g) ∧
    exec (.plog gd .nand d p q) s = writes (~~~(f &&& g)) ∧
    exec (.plog gd .nor d p q) s = writes (~~~(f ||| g)) ∧
    exec (.plog gd .xnor d p q) s = writes (~~~(f ^^^ g)) ∧
    (∀ t : Thread, t.rp 0 = BitVec.allOnes 64 ∧ t.setP 0 (x &&& y) = t)

/-- R123, R124. Moves between g and p registers and literals, `MOVH`, and the writes of `%fmode` and `%fflags`. -/
def Obligations.MovesAndModeWrites : Prop :=
  ∀ (s : State) (gd : Guard) (d : GReg) (p : PReg) (b : OpB) (m : MovB), s.Clear → s.me.guardOn gd = true →
    let v := match m with
      | .g r => s.me.rg r
      | .p r => s.me.rp r
      | .lit x => x.signExtend 64
    let z := OpB.zx s.me b
    let old := s.me.rg d
    exec (.mov gd false (.g d) m) s = .next (s.retired 4 0 0 (·.setG d v)) ∧
    exec (.mov gd true (.g d) m) s = .next (s.retired 4 0 0 (·.setG d ((v.setWidth 32).signExtend 64))) ∧
    exec (.mov gd false (.p p) m) s = .next (s.retired 4 0 0 (·.setP p v)) ∧
    exec (.mov gd true (.p p) m) s = .next (s.retired 4 0 0 (·.setP p ((v.setWidth 32).signExtend 64))) ∧
    exec (.movh gd d b) s =
      .next (s.retired 4 0 0 (·.setG d ((old &&& 0xFFFFFFFF#64) ||| ((z &&& 0xFFFFFFFF#64) <<< 32)))) ∧
    ((z &&& 7#64).toNat ≤ 4 →
      exec (.wrs gd .fmode b) s = .next (s.retired 4 0 0 fun t => { t with fmode := z.setWidth 10 })) ∧
    ((z &&& 7#64).toNat > 4 →
      exec (.wrs gd .fmode b) s = .next (s.trapStep s.cur 4 .illegalOperand (match b with
        | .g r => BitVec.ofNat 64 (0x200 + r.val)
        | .lit _ => 0x200))) ∧
    exec (.wrs gd .fflags b) s = .next (s.retired 4 0 0 fun t => { t with fflags := z.setWidth 5 })

/-- R112, R113. What `MOVS` reads, register by register. The model's choices in it: notes/assumptions/24, and 89: the
cycle from which `%cycles` counts, less those in which the die was off, is the model's choice. -/
def Obligations.SpecialRegisterReads : Prop :=
  ∀ (s : State) (gd : Guard) (d : GReg), s.Clear → s.me.guardOn gd = true →
    let k := s.cur.1
    let c := s.core k
    let x := s.ctx (k / 256) c.cid
    let reads (r : SReg) (v : Word) : Prop := exec (.movs gd d r) s = .next (s.retired 4 0 0 (·.setG d v))
    let n (v : Nat) : Word := BitVec.ofNat 64 v
    reads .tid (n (if s.me.st = .guest then s.me.origin.2 else s.cur.2)) ∧
    reads .core (n (4 * (k / 16 % 4) + k % 4)) ∧ reads .cx (n (k % 16)) ∧ reads .cy (n (k / 16 % 16)) ∧
    reads .die (n (k / 256)) ∧ reads .lanes 64 ∧ reads .mtile 0x204020 ∧ reads .cid (n (c.cid % 65536)) ∧
    reads .fmode (s.me.fmode.zeroExtend 64) ∧ reads .fflags (s.me.fflags.zeroExtend 64) ∧
    reads .energy ((s.myCtx.settle s.now).energy.zeroExtend 64) ∧ reads .cycles (n (s.now - (s.die (k / 256)).lost)) ∧
    reads .forfeit s.me.forfeit ∧ reads .wlocc (n c.wl.length) ∧ reads .light (if s.me.light then 1 else 0) ∧
    reads .args (n (x.args % 2 ^ 48)) ∧ reads .scb (n x.scb) ∧
    (s.me.node = none → reads .node (BitVec.allOnes 64) ∧ reads .graph (BitVec.allOnes 64) ∧ reads .instant 0) ∧
    (∀ cl g nd, s.me.node = some (cl, g, nd) → reads .node (n nd) ∧ reads .graph (n g) ∧
      ∀ gr, tget (s.cluster cl).graphs g = some gr → reads .instant (n gr.instant)) ∧
    (∀ i, x.grid[i]? = some (clusterOf k) → clusterOf k ∉ x.grid.take i →
      reads .cluster (n i) ∧ reads .stage (n (x.stages.getD i 0))) ∧
    (∃ v, reads .tags v ∧ ∀ i : Fin 64, v.getLsbD i.val = (c.tags.get i).done) ∧
    (∃ v, reads .tagerr v ∧ ∀ i : Fin 64, v.getLsbD i.val = (c.tags.get i).err) ∧
    (∃ v, reads .monstat v ∧ ∀ i : Fin 4, v.getLsbD i.val = (match s.me.mon.get i with
      | some m => m.armed
      | none => false)) ∧
    reads .wsize (n (2048 * ((s.myCtx.regions.filter (·.buf == 0)).map (·.banks)).sum)) ∧
    reads .asize (n (1024 * ((s.myCtx.regions.filter (·.buf == 1)).map (·.banks)).sum)) ∧
    reads .csize (n (1024 * ((s.myCtx.regions.filter (·.buf == 2)).map (·.banks)).sum))

/-- R125, R126. Bit fields, and scaled addresses without translation. -/
def Obligations.BitFieldsAndLea : Prop :=
  ∀ (s : State) (gd : Guard) (w32 : Bool) (k : Fin 5) (d a c : GReg) (b : OpB), s.Clear → s.me.guardOn gd = true →
    let x := s.me.rg a
    let z := OpB.zx s.me b
    let pos := (z &&& 63#64).toNat
    let wid := min ((z >>> 8) &&& 127#64).toNat 64
    let w := if w32 then 32 else 64
    (∃ v, exec (.ext gd false d a b) s = .next (s.retired 4 0 0 (·.setG d v)) ∧
      ∀ i, i < 64 → v.getLsbD i = (decide (i < wid) && x.getLsbD (pos + i))) ∧
    (∃ v, exec (.ext gd true d a b) s = .next (s.retired 4 0 0 (·.setG d v)) ∧
      ∀ i, i < 64 → v.getLsbD i = (decide (0 < wid) && x.getLsbD (pos + min i (wid - 1)))) ∧
    (∃ v, exec (.ins gd d a b c) s = .next (s.retired 4 0 0 (·.setG d v)) ∧
      ∀ i, i < 64 → v.getLsbD i =
        if pos ≤ i ∧ i < pos + wid then (s.me.rg c).getLsbD (i - pos) else x.getLsbD i) ∧
    exec (.lea gd w32 k d a b) s =
      .next (s.retired 4 0 0 (·.setG d (Spec.fin w ((x.toNat : Int) + Spec.sw w (OpB.sx s.me b) * 2 ^ k.val))))

/-- R127, R129, R130, R132 to R135. Where the result goes, its flags, the turns a subnormal costs, and the trap of an enabled
flag, for the instructions that compute an FP result; the numbers are those of `Num`. -/
def Obligations.FpResultsCommit : Prop :=
  ∀ (s : State) (gd : Guard) (x : FpX) (src : ETy) (rsq : Bool) (d a : GReg) (b : OpB) (c : GReg), s.Clear →
    s.me.guardOn gd = true →
    let rm := match x.rnd with
      | .rne => 0
      | .rtz => 1
      | .rdn => 2
      | .rup => 3
      | .rna => 4
      | .dyn => (s.me.fmode.extractLsb' 0 3).toNat
    let env : Num.Env := ⟨rm, s.me.fmode.getLsbD 3, s.me.fmode.getLsbD 4, x.sat⟩
    let low (v : Word) : Nat := v.toNat % 2 ^ x.ty.bits
    let p := low (s.me.rg a)
    let q := low (OpB.fx s.me x.ty b)
    let z := low (s.me.rg c)
    let gives (i : Instr) (r : Num.Res) : Prop := s.ends i 6 r.f r.sub (·.setG d (placeG x.ty r.r))
    gives (.fadd gd x d a b) (Num.fadd x.ty env p q) ∧ gives (.fsub gd x d a b) (Num.fsub x.ty env p q) ∧
    gives (.fmul gd x d a b) (Num.fmul x.ty env p q) ∧ gives (.fdiv gd x d a b) (Num.fdiv x.ty env p q) ∧
    gives (.ffma gd x d a b c) (Num.ffma x.ty env p q z) ∧ gives (.fsqrt gd x d a) (Num.fsqrt x.ty env p) ∧
    gives (.fmin gd x d a b) (Num.fminmax x.ty env false p q) ∧ gives (.fmax gd x d a b) (Num.fminmax x.ty env true p q) ∧
    gives (.fcvt gd src x d a) (Num.convert src x.ty env ((s.me.rg a).toNat % 2 ^ src.bits)) ∧
    gives (.frcp gd x d a) (Num.frcp env p) ∧ gives (.frsq gd x d a) (Num.frsq env p) ∧
    gives (.frstep gd rsq x d a b) (Num.frstep rsq env p q)

/-- R129, R83. The sum, the difference, the product and the fused product-sum of finite operands are exact and are rounded
once. The model's choices in it: notes/assumptions/18. -/
def Obligations.FpExactBeforeRounding : Prop :=
  ∀ (t : ETy) (env : Num.Env) (a b c : Nat) (u v w : Rat), Spec.number (Num.rd t env a) = some u →
    Spec.number (Num.rd t env b) = some v → Spec.number (Num.rd t env c) = some w →
    let once (r : Num.Res) (x : Rat) : Prop := ∃ n m e sub, Spec.val n m e = x ∧ r.r = (Num.roundTo t env n m e).r ∧
      r.f = (Num.roundTo t env n m e).f ∧ r.sub = ((Num.roundTo t env n m e).sub || sub)
    once (Num.fadd t env a b) (u + v) ∧ once (Num.fsub t env a b) (u - v) ∧ once (Num.fmul t env a b) (u * v) ∧
    once (Num.ffma t env a b c) (u * v + w)

/-- R74. A finite value of an FP format rounds to its own encoding in every mode, and raises nothing. -/
def Obligations.FpRepresentableRoundsToItself : Prop :=
  ∀ (t : ETy) (f : Num.Fmt) (env : Num.Env) (b : Nat) (n : Bool) (m : Nat) (e : Int), Num.fmt t = some f → b < 2 ^ f.width →
    b % 2 ^ f.low = 0 → Num.valOf t b = (.num n m e, false) → (env.ftz = false ∨ Num.isSub t b = false) →
    (Num.roundTo t env n m e).r = b ∧ (Num.roundTo t env n m e).f = 0

/-- R131, R136, R137. Comparison, classification and sign transfer, on the bits. -/
def Obligations.FpCompareClassSign : Prop :=
  ∀ (s : State) (gd : Guard) (x : FpX) (p : PReg) (d a : GReg) (b : OpB) (eb fb : Nat), s.Clear → s.me.guardOn gd = true →
    (x.ty, eb, fb) ∈ [(ETy.fp32, 8, 23), (.fp64, 11, 52), (.fp16, 5, 10), (.bf16, 8, 7)] →
    let env : Num.Env := s.me.env x
    let w := 1 + eb + fb
    let A := s.me.rg a
    let B := OpB.fx s.me x.ty b
    let va := Num.rd x.ty env (A.toNat % 2 ^ w)
    let vb := Num.rd x.ty env (B.toNat % 2 ^ w)
    let sub := Num.srcSub x.ty env (A.toNat % 2 ^ w) || Num.srcSub x.ty env (B.toNat % 2 ^ w)
    let un := va.isNan || vb.isNan
    let quiet : BitVec 5 := if va.isSnan || vb.isSnan then 1 else 0
    let any : BitVec 5 := if un then 1 else 0
    let gives (c : FCond) (f : BitVec 5) (v : Bool) : Prop :=
      s.ends (.fcmp gd c x p a b) 6 f sub (·.setP p (if v then BitVec.allOnes 64 else 0))
    (un = true → gives .eq quiet false ∧ gives .ne quiet true ∧ gives .lt any false ∧ gives .le any false ∧
      gives .gt any false ∧ gives .ge any false ∧ gives .c6 quiet true ∧ gives .c7 quiet false) ∧
    (∀ u v : Rat, Spec.number va = some u → Spec.number vb = some v →
      gives .eq 0 (decide (u = v)) ∧ gives .ne 0 (decide (u ≠ v)) ∧ gives .lt 0 (decide (u < v)) ∧
      gives .le 0 (decide (u ≤ v)) ∧ gives .gt 0 (decide (u > v)) ∧ gives .ge 0 (decide (u ≥ v)) ∧
      gives .c6 0 false ∧ gives .c7 0 true) ∧
    (let e := A.toNat / 2 ^ fb % 2 ^ eb
     let f := A.toNat % 2 ^ fb
     let neg := A.getLsbD (eb + fb)
     exec (.fclass gd x d a) s = .next (s.retired 6 0 0 (·.setG d (1 <<<
      (if e = 2 ^ eb - 1 then (if f = 0 then (if neg then 0 else 7) else if A.getLsbD (fb - 1) then 9 else 8)
       else if e = 0 then (if f = 0 then (if neg then 3 else 4) else if neg then 2 else 5)
       else if neg then 1 else 6))))) ∧
    (∀ m : SgnV, ∃ v, exec (.fsgn gd m x d a b) s = .next (s.retired 6 0 0 (·.setG d v)) ∧
      (∀ i, i < eb + fb → v.getLsbD i = A.getLsbD i) ∧ (∀ i, w ≤ i → v.getLsbD i = false) ∧
      v.getLsbD (eb + fb) = (match m with
        | .copy => B.getLsbD (eb + fb)
        | .neg => !B.getLsbD (eb + fb)
        | .xor => A.getLsbD (eb + fb) != B.getLsbD (eb + fb)))

/-- R155 to R160, R172, R173. The element-wise vector instructions, on registers and on streams. The model's choices in it: notes/assumptions/44. -/
def Obligations.VectorElementwise : Prop :=
  ∀ (s : State) (gd : Guard) (x : FpX) (d a : VReg) (b : OpV) (c : VReg) (p : PReg), s.Clear → x.ty.native = true →
    let w := x.ty.bits
    let env : Num.Env := s.me.env x
    let A (e : Nat) : Nat := s.el w a e
    let B (e : Nat) : Nat := s.elB w b e
    let C (e : Nat) : Nat := s.el w c e
    let sg (v : Nat) : Int := (BitVec.ofNat w v).toInt
    let int (r : Int) : Num.Res :=
      ⟨(BitVec.ofInt w (if x.sat then min (max r (-(2 ^ (w - 1)))) (2 ^ (w - 1) - 1) else r)).toNat, 0, false⟩
    let bits (v : Nat) : Num.Res := ⟨v, 0, false⟩
    let eu (fp : Nat) : Nat := if x.ty.isInt then 96 else fp
    let one : List (VReg × ETy) := [(a, x.ty)]
    let two := one ++ insB b x.ty
    -- on registers, and on streams that agree on n elements
    let go (i : Instr) (eu : Nat) (ins : List (VReg × ETy)) (f : Nat → Num.Res) : Prop :=
      (s.Lanes gd → s.lanewise i gd eu w d f) ∧ ∀ n, s.Flows gd x.ty n ins d → s.streamwise i gd eu w d ins n f
    let by' (fp : Num.Res) (r : Int) : Num.Res := if x.ty.isInt then int r else fp
    go (.vadd gd x d a b) (eu 128) two (fun e => by' (Num.fadd x.ty env (A e) (B e)) (sg (A e) + sg (B e))) ∧
    go (.vsub gd x d a b) (eu 128) two (fun e => by' (Num.fsub x.ty env (A e) (B e)) (sg (A e) - sg (B e))) ∧
    go (.vmul gd x d a b) (eu 128) two (fun e => by' (Num.fmul x.ty env (A e) (B e)) (sg (A e) * sg (B e))) ∧
    go (.vfma gd x d a b c) (eu 160) (two ++ [(c, x.ty)])
      (fun e => by' (Num.ffma x.ty env (A e) (B e) (C e)) (sg (A e) * sg (B e) + sg (C e))) ∧
    (∀ u, go (.vmin gd u x d a b) (eu 128) two fun e =>
      if x.ty.isInt then bits (if (if u then A e ≤ B e else sg (A e) ≤ sg (B e)) then A e else B e)
      else Num.fminmax x.ty env false (A e) (B e)) ∧
    (∀ u, go (.vmax gd u x d a b) (eu 128) two fun e =>
      if x.ty.isInt then bits (if (if u then A e ≥ B e else sg (A e) ≥ sg (B e)) then A e else B e)
      else Num.fminmax x.ty env true (A e) (B e)) ∧
    go (.vabs gd x d a) (eu 128) one (fun e => by' (bits (A e % 2 ^ (w - 1))) (sg (A e)).natAbs) ∧
    go (.vneg gd x d a) (eu 128) one (fun e => by' (bits (A e ^^^ 2 ^ (w - 1))) (-sg (A e))) ∧
    go (.vsel gd x d a b p) 96 two (fun e => bits (if (s.me.rp p).getLsbD (e * w / 32) then A e else B e)) ∧
    go (.vand gd x d a b) 96 two (fun e => bits (A e &&& B e)) ∧
    go (.vor gd x d a b) 96 two (fun e => bits (A e ||| B e)) ∧
    go (.vxor gd x d a b) 96 two (fun e => bits (A e ^^^ B e)) ∧
    go (.vshl gd x d a b) 96 two (fun e => bits (A e * 2 ^ (B e % w))) ∧
    go (.vshr gd false x d a b) 96 two (fun e => bits (A e / 2 ^ (B e % w))) ∧
    go (.vshr gd true x d a b) 96 two (fun e => bits (BitVec.ofInt w (sg (A e) / 2 ^ (B e % w))).toNat) ∧
    (x.ty = .fp32 →
      go (.vrcp gd x d a) 192 one (fun e => Num.frcp env (A e)) ∧
      go (.vrsq gd x d a) 192 one (fun e => Num.frsq env (A e)) ∧
      (∀ q, go (.vrstep gd q x d a b) 192 two (fun e => Num.frstep q env (A e) (B e))) ∧
      go (.vexp2 gd x d a) 192 one (fun e => Num.vexp2 env (A e)) ∧
      go (.vlog2 gd x d a) 192 one (fun e => Num.vlog2 env (A e)) ∧
      (∀ q, go (.vszb gd q x d a b) 192 (one ++ insB b (if q then .int32 else .fp32)) (fun e => Num.vszb q env (A e) (B e))))

/-- R165, R172, R173. Broadcast, permutation, index vectors, and the moves of one element between a v and a g register. -/
def Obligations.VectorRearrangement : Prop :=
  ∀ (s : State) (gd : Guard) (x : FpX) (d a c : VReg) (g h : GReg) (b : OpB), s.Clear → x.ty.native = true →
    let w := x.ty.bits
    let n := 2048 / w
    let bits (v : Nat) : Num.Res := ⟨v, 0, false⟩
    let k := (OpB.zx s.me b).toNat % n
    let on := (s.me.lanes gd).getLsbD (k * w / 32)
    let go (i : Instr) (ins : List (VReg × ETy)) (f : Nat → Num.Res) : Prop :=
      (s.Lanes gd → s.lanewise i gd 96 w d f) ∧ ∀ n, s.Flows gd x.ty n ins d → s.streamwise i gd 96 w d ins n f
    go (.vbcast gd none x d b) [] (fun _ => bits (OpB.zx s.me b).toNat) ∧
    (s.me.stream a = none → go (.vbcast gd (some a) x d b) [] (fun _ => bits (velem w (s.me.rv a) k))) ∧
    (s.me.stream a = none →
      go (.vperm gd x d a c) [(c, x.ty)] (fun e => bits (velem w (s.me.rv a) (s.el w c e % n)))) ∧
    go (.viota gd x d b) [] (fun e => bits ((OpB.sx s.me b).toNat + e)) ∧
    (s.Lanes gd → on = true → exec (.vextr gd x g a b) s = .next (s.retired 96 0 0 (·.setG g
      (if x.ty.isInt then BitVec.ofInt 64 (BitVec.ofNat w (velem w (s.me.rv a) k)).toInt
       else BitVec.ofNat 64 (velem w (s.me.rv a) k))))) ∧
    (s.Lanes gd → on = false → exec (.vextr gd x g a b) s = .next (s.retired 96 0 0 id)) ∧
    (s.Lanes gd → on = true → ∃ v, exec (.vinsr gd x d h b) s = .next (s.retired 96 0 0 (·.setV d v)) ∧
      ∀ e, e < n → velem w v e = if e = k then (s.me.rg h).toNat % 2 ^ w else velem w (s.me.rv d) e) ∧
    (s.Lanes gd → on = false → exec (.vinsr gd x d h b) s = .next (s.retired 96 0 0 id))

/-- R161 to R164. Conversion, comparison, reduction and prefix combination on registers.
The model's choices in it: notes/assumptions/19. -/
def Obligations.VectorConvertCompareReduce : Prop :=
  ∀ (s : State) (gd : Guard) (x : FpX) (src : ETy) (part : Fin 4) (cond : FCond) (op : VRedOp) (u ex : Bool) (d a : VReg) (b : OpV)
    (p : PReg) (g : GReg), s.Clear → s.Lanes gd → x.ty.native = true → src.native = true →
    part.val < Nat.max src.bits x.ty.bits / Nat.min src.bits x.ty.bits →
    let w := x.ty.bits
    let big := Nat.max src.bits w
    let n := 2048 / big
    let env : Num.Env := s.me.env x
    let A (e : Nat) : Nat := velem w (s.me.rv a) e
    let eu : Nat := if x.ty.isInt then 96 else 128
    -- conversion: element `from e` of A, in lanes of the wider type, to element `to e` of D
    (let act := s.active gd big n
     let frm (e : Nat) : Nat := if src.bits < w then part.val * n + e else e
     let dest (e : Nat) : Nat := if w < src.bits then part.val * n + e else e
     let r (e : Nat) : Num.Res := Num.cvt src x.ty env (velem src.bits (s.me.rv a) (frm e))
     ∃ v : VWord,
       s.ends (.vcvt gd src part x d a) 128 (act.foldl (fun g e => g ||| (r e).f) 0) (act.any fun e => (r e).sub) (·.setV d v) ∧
       (∀ e, e ∈ act → velem w v (dest e) = (r e).r % 2 ^ w) ∧
       ∀ j, j < 2048 / w → (∀ e ∈ act, j ≠ dest e) → velem w v j = velem w (s.me.rv d) j) ∧
    -- comparison: a lane's bit is set where all its elements satisfy the relation; the bits of inactive lanes stay
    (let one (e : Nat) : Bool × BitVec 5 × Bool :=
       if x.ty.isInt then (intFCond w cond (A e) (s.srcB w b e), 0, false) else Num.fcmp x.ty env cond (A e) (s.srcB w b e)
     let act := s.active gd w (2048 / w)
     ∃ v : Word,
       s.ends (.vcmp gd cond x p a b) eu (act.foldl (fun f e => f ||| (one e).2.1) 0) (act.any fun e => (one e).2.2)
         (·.setP p v) ∧
       ∀ i, i < 64 → v.getLsbD i = if (s.me.lanes gd).getLsbD i then
         decide (∀ e, e < 2048 / w → e * w / 32 = i → (one e).1 = true) else (s.me.rp p).getLsbD i) ∧
    -- reduction and prefix combination, over the active elements
    (let el (e : Nat) : Option Num.Res := if (s.me.lanes gd).getLsbD (e * w / 32) then
         some ⟨A e, 0, !x.ty.isInt && Num.srcSub x.ty env (A e)⟩ else none
     let xs := (List.range (2048 / w)).map el
     let f := redStep op u x.ty env
     let v := (redTree f 8 (xs ++ List.replicate (256 - 2048 / w) none)).getD ⟨redEmpty op u x.ty, 0, false⟩
     let outs := scanGo f ex (redEmpty op u x.ty) none xs
     let all := outs.filterMap id
     s.ends (.vred gd op u x g a) eu v.f v.sub (·.setG g
       (if x.ty.isInt then BitVec.ofInt 64 (BitVec.ofNat w v.r).toInt else placeG x.ty v.r)) ∧
     ∃ z : VWord,
       s.ends (.vscanp gd op u ex x d a) eu (all.foldl (fun f r => f ||| r.f) 0)
         (all.any (·.sub) || (xs.filterMap id).any (·.sub)) (·.setV d z) ∧
       ∀ e, e < 2048 / w → velem w z e = ((outs[e]?).join).elim (velem w (s.me.rv d) e) (·.r % 2 ^ w))

/-- R4. A memory read back after a write of bytes: the bytes written at their addresses, the first at the lowest, every
other byte as before, and a read of n bytes is little-endian. That the canonical form stays is about the model's own form of a
memory (notes/assumptions/3, DESIGN CHOICE). -/
def Obligations.MemoryReadsBackWrites : Prop :=
  ∀ (m : Mem) (a n v : Nat) (bs : List Byte), m.wf = true →
    (m.writeBytes a bs).wf = true ∧
    (∀ x, (m.writeBytes a bs).get x = if a ≤ x ∧ x < a + bs.length then bs.getD (x - a) 0 else m.get x) ∧
    (m.writeBytes a (leBytes n v)).read a n = v % 256 ^ n ∧
    m.read a (n + 1) = (m.get a).toNat + 256 * m.read (a + 1) n

/-- R211, R19. The scalar loads and stores of the own slice: 4 cycles; a pair is one access of both elements.
The model's choices in it: notes/assumptions/10. -/
def Obligations.ScalarLoadsAndStores : Prop :=
  ∀ (s : State) (gd : Guard) (sx : Bool) (x : MemX) (d a c : GReg) (b : OpB) (loc : Nat), s.Clear → s.me.guardOn gd = true →
    s.PortIdle → x.space = .glob → x.rx = false → x.ety.isMem = true → s.mem.wf = true →
    let n := x.ety.bits / 8
    let va := (s.me.rg a + OpB.sx s.me b).toNat
    let v (r : GReg) : Nat := (s.me.rg r).toNat % 2 ^ x.ety.bits
    let served (m : Mem) (old : List OldWord) : State := State.usePort { s with mem := m, oldWords := old } 1
    (s.reach .load x.ety n va loc →
      exec (.ld gd sx x d a b) s =
        .next ((served s.mem s.oldWords).retired 24 4 0 (·.setG d (Spec.loaded sx n (s.mem.read loc n))))) ∧
    (s.reach .load x.ety (2 * n) va loc →
      exec (.ldp gd sx x d a b) s =
        .next ((served s.mem s.oldWords).retired 24 4 0 fun t => (t.setG d (Spec.loaded sx n (s.mem.read loc n))).setG (nextG d)
          (Spec.loaded sx n (s.mem.read (loc + n) n)))) ∧
    (s.reach .store x.ety n va loc → ∃ (m : Mem) (old : List OldWord),
      exec (.st gd x a b c) s = .next ((served m old).retired 24 4 0 id) ∧ m.read loc n = v c ∧
      ∀ y, y < loc ∨ loc + n ≤ y → m.get y = s.mem.get y) ∧
    (s.reach .store x.ety (2 * n) va loc → ∃ (m : Mem) (old : List OldWord),
      exec (.stp gd x a b c) s = .next ((served m old).retired 24 4 0 id) ∧ m.read loc n = v c ∧
      m.read (loc + n) n = v (nextG c) ∧ ∀ y, y < loc ∨ loc + 2 * n ≤ y → m.get y = s.mem.get y)

/-- R212, R213, R19. The vector loads and stores of the own slice: only active elements are read or written; the elements of
`VLDX` and `VSTX` lie at base + index × 2^k. The model's choices in it: notes/assumptions/10. -/
def Obligations.VectorLoadsAndStores : Prop :=
  ∀ (s : State) (gd : Guard) (k : Fin 4) (x : MemX) (d a c : VReg) (g : GReg) (b : OpB) (loc : Nat → Nat), s.Clear → s.Lanes gd →
    s.PortIdle → x.space = .glob → x.rx = false → x.ety.native = true → s.mem.wf = true →
    let w := x.ety.bits
    let n := w / 8
    let va (e : Nat) : Nat := ((s.me.rg g + OpB.sx s.me b).toNat + e * n) % 2 ^ 64
    let at' (i : Nat) : Nat :=
      (s.me.rg g + (BitVec.ofNat 32 (velem 32 (s.me.rv a) i)).signExtend 64 * BitVec.ofNat 64 (2 ^ k.val)).toNat
    let act := s.active gd w (2048 / w)
    let bytes := n * act.length
    let served (m : Mem) (old : List OldWord) : State := State.usePort { s with mem := m, oldWords := old } ((bytes + 127) / 128)
    let lat := 4 + (bytes - 1) / 128
    let apart := ∀ e f, e ∈ act → f ∈ act → e < f → loc e + n ≤ loc f ∨ loc f + n ≤ loc e
    ((∀ e, e < 2048 / w → s.reach .load x.ety n (va e) (loc e)) → ∃ v : VWord,
      exec (.vld gd x d g b) s = .next ((served s.mem s.oldWords).retired 320 lat 0 (·.setV d v)) ∧
      ∀ e, e < 2048 / w → velem w v e = if e ∈ act then s.mem.read (loc e) n else velem w (s.me.rv d) e) ∧
    (w = 32 → (∀ i ∈ act, s.reach .load x.ety 4 (at' i) (loc i)) → ∃ v : VWord,
      exec (.vldx gd k x d g a) s = .next ((served s.mem s.oldWords).retired 320 lat 0 (·.setV d v)) ∧
      ∀ e, e < 64 → velem 32 v e = if e ∈ act then s.mem.read (loc e) 4 else velem 32 (s.me.rv d) e) ∧
    ((∀ e, e < 2048 / w → s.reach .store x.ety n (va e) (loc e)) → apart → ∃ (m : Mem) (old : List OldWord),
      exec (.vst gd false x g b c) s = .next ((served m old).retired 320 lat 0 id) ∧
      (∀ e ∈ act, m.read (loc e) n = velem w (s.me.rv c) e) ∧
      ∀ y, (∀ e ∈ act, y < loc e ∨ loc e + n ≤ y) → m.get y = s.mem.get y) ∧
    (w = 32 → (∀ i ∈ act, s.reach .store x.ety 4 (at' i) (loc i)) → apart → ∃ (m : Mem) (old : List OldWord),
      exec (.vstx gd false k x g a c) s = .next ((served m old).retired 320 lat 0 id) ∧
      (∀ e ∈ act, m.read (loc e) 4 = velem 32 (s.me.rv c) e) ∧
      ∀ y, (∀ e ∈ act, y < loc e ∨ loc e + 4 ≤ y) → m.get y = s.mem.get y)

/-- R101, R102. `NOP`, branches and calls; a target that is no multiple of 4 traps MISALIGNED. -/
def Obligations.ControlTransfers : Prop :=
  ∀ (s : State) (gd : Guard) (off : BitVec 32) (a : GReg), s.Clear → s.me.guardOn gd = true →
    let rel : Addr := s.me.pc + off.signExtend 48
    let ind : Addr := (s.me.rg a).setWidth 48
    let link : Word := (s.me.pc + 12).setWidth 64
    let jump (p : Addr) (t : Thread) : Thread := t.atPc p
    let call (p : Addr) (t : Thread) : Thread := (t.setG 31 link).atPc p
    s.does (.nop gd) 4 0 id ∧
    (rel.toNat % 4 = 0 → s.does (.br gd off) 4 0 (jump rel) ∧ s.does (.call gd off) 4 0 (call rel)) ∧
    (ind.toNat % 4 = 0 → s.does (.brx gd a) 4 0 (jump ind) ∧ s.does (.callx gd a) 4 0 (call ind)) ∧
    (rel.toNat % 4 ≠ 0 → s.traps (.br gd off) 4 .misaligned (rel.setWidth 64) ∧
      s.traps (.call gd off) 4 .misaligned (rel.setWidth 64)) ∧
    (ind.toNat % 4 ≠ 0 → s.traps (.brx gd a) 4 .misaligned (ind.setWidth 64) ∧
      s.traps (.callx gd a) 4 .misaligned (ind.setWidth 64))

/-- R95, R99, R103. `TSTART`, heavy and light: the lowest slot that is FREE and can be claimed; all ones where there is none.
The model's choices in it: notes/assumptions/8, 32. -/
def Obligations.ThreadsStart : Prop :=
  ∀ (s : State) (gd : Guard) (light : Bool) (d a : GReg) (b : OpB), s.Clear → s.me.guardOn gd = true →
    let i := if light then Instr.tstartLight gd d a b else .tstart gd d a b
    let y := s.cyc (dieOf s.cur.1)
    let entry : Addr := (s.me.rg a).setWidth 48
    let open' (m : Nat) : Prop := (s.thr (s.cur.1, m)).st = .free ∧ (s.thr (s.cur.1, m)).next ≤ y
    (s.tid ≠ 0 → s.traps i 4 .threadMgmt 6) ∧
    (s.tid = 0 → entry.toNat % 4 ≠ 0 → s.traps i 4 .misaligned (entry.setWidth 64)) ∧
    (s.tid = 0 → entry.toNat % 4 = 0 → ∀ n, 1 ≤ n → n ≤ 15 → open' n → (∀ m, 1 ≤ m → m < n → ¬open' m) →
      s.doesIn (s.claim s.cur.1 n (Thread.born light entry (OpB.sx s.me b) s.me.fmode (alignUp (y + 16) n))) i 4 0
        (·.setG d (BitVec.ofNat 64 n))) ∧
    (s.tid = 0 → entry.toNat % 4 = 0 → (∀ m, 1 ≤ m → m ≤ 15 → ¬open' m) → s.does i 4 0 (·.setG d (BitVec.allOnes 64)))

/-- R104, R105. `TREAP` of a slot, and `TEXIT` on the origin core and as a guest.
The model's choices in it: notes/assumptions/31, 32. -/
def Obligations.ThreadsEnd : Prop :=
  ∀ (s : State) (gd : Guard) (d : GReg) (b : OpB), s.Clear → s.me.guardOn gd = true →
    let core := s.cur.1
    let y := s.cyc (dieOf core)
    let n := (OpB.zx s.me b).toNat
    let st (m : Nat) : TSt := (s.thr (core, m)).st
    let v := OpB.sx s.me b
    let cid := (s.core core).cid
    let live (m : Nat) : Prop := 1 ≤ m ∧ m ≤ 15 ∧ (st m = .ready ∨ st m = .waiting ∨ st m = .exited ∨ st m = .away)
    let gone : State := (s.chargeIn core 1 4).setThr s.cur (s.me.done v)
    (s.tid ≠ 0 → s.traps (.treap gd d b) 4 .threadMgmt 7) ∧
    (s.tid = 0 → (n = 0 ∨ n > 15 ∨ st n = .free ∨ st n = .guest ∨ st n = .node) →
      s.traps (.treap gd d b) 4 .threadMgmt (OpB.zx s.me b)) ∧
    (s.tid = 0 → 1 ≤ n → n ≤ 15 → st n = .exited →
      s.doesIn (s.setThr (core, n) (Thread.empty.due (y + 1) 0)) (.treap gd d b) 4 0 (·.setG d (s.thr (core, n)).exitV)) ∧
    (s.tid = 0 → 1 ≤ n → n ≤ 15 → (st n = .ready ∨ st n = .waiting ∨ st n = .away) → s.blocks (.treap gd d b) 4 0 (.treap d n)) ∧
    (s.me.node = none → (s.tid = 0 → ∀ m, ¬live m) → (∀ x, some x ∈ s.me.str.toList → x.st ≠ .faulted ∧ x.undrained = false) →
      (∀ m, some m ∈ s.me.mon.toList → m.armed = false) →
      (s.me.st ≠ .guest → s.cur.2 ≠ 0 → (∀ p, (s.thr (core, 0)).pend = some p → ∀ r, p.kind ≠ .treap r s.cur.2) →
        exec (.texit gd b) s = .next gone) ∧
      (s.me.st ≠ .guest → s.cur.2 = 0 →
        exec (.texit gd b) s = .next (gone.post 1 (.launchComplete (s.ctx (dieOf core) cid).launch))) ∧
      (s.me.st = .guest → exec (.texit gd b) s =
        .next (((s.chargeIn core 1 4).setThr s.cur (Thread.empty.due (y + 1) 0)).post (msgTime core s.me.origin.1 1)
          (.guestExitMessage s.me.origin.1 s.me.origin.2 cid v)))) ∧
    (s.me.node = none → s.tid = 0 → (∃ m, live m) → ∃ w : Word, s.traps (.texit gd b) 4 .threadMgmt w ∧
      ∀ m, m < 64 → (w.getLsbD m = true ↔ live m))

/-- R106. `TSTAT`: the status word of a slot of the core. -/
def Obligations.ThreadStatus : Prop :=
  ∀ (s : State) (gd : Guard) (d : GReg) (b : OpB), s.Clear → s.me.guardOn gd = true →
    let n := (OpB.zx s.me b).toNat
    let t := s.thr (s.cur.1, n)
    let code : Nat := match t.st with
      | .free => 0
      | .ready => 1
      | .waiting => 2
      | .exited => 3
      | .away => 4
      | .guest => 5
      | .node => 6
    let wait : Nat := match t.st, t.pend with
      | .waiting, some p => PendK.code p.kind
      | _, _ => 0
    (n > 15 → s.traps (.tstat gd d b) 4 .threadMgmt (OpB.zx s.me b)) ∧
    (n ≤ 15 → t.place < 2048 → ∃ v : Word, s.does (.tstat gd d b) 4 0 (·.setG d v) ∧
      (v.extractLsb' 0 3).toNat = code ∧ v.getLsbD 3 = t.light ∧ v.getLsbD 4 = (s.core s.cur.1).halted ∧
      v.extractLsb' 5 3 = 0 ∧ (v.extractLsb' 8 4).toNat = wait ∧ v.extractLsb' 12 4 = 0 ∧
      (v.extractLsb' 16 11).toNat = (if t.st = .away then t.place else 0) ∧ v.extractLsb' 27 37 = 0)

/-- R107, R240, R289, R90, R337. Waits with a timeout: `HALT` begins one; a timeout or an interrupt ends it with its code, in the
first turn after; `IFLUSH` ends after its 32 cycles. The model's choices in it: notes/assumptions/31, 66. -/
def Obligations.WaitsEnd : Prop :=
  (∀ (s : State) (gd : Guard) (d : GReg) (b : OpB), s.Clear → s.me.guardOn gd = true →
    (s.me.intPending = true → s.does (.halt gd d b) 4 0 (·.setG d 3)) ∧
    (s.me.intPending = false → s.blocks (.halt gd d b) 4 (OpB.zx s.me b).toNat (.halt d))) ∧
  ∀ (s : State) (k : Key) (kind : PendK) (t0 eu n : Nat) (due : Option Nat), s.Waits k kind t0 eu n due →
    (∀ e, e ∈ s.agenda → e.1 ≤ s.now → ∃ c t m, e.2 = .waitTimeout c t m) →
    let late := ∃ x, due = some x ∧ x ≤ s.now
    let ends (d : GReg) (v : Word) : Prop :=
      exec (.waitTimeout k.1 k.2 n) s = .next (s.over k (s.turnW k) eu (·.setG d v))
    (late → (s.ctx (dieOf k.1) (s.core k.1).cid).halts = 0 → (s.thr k).intPending = false →
      (∀ d, kind = .halt d → ends d 2) ∧ (∀ d m, kind = .twany d m → ends d 2) ∧ (∀ d m, kind = .twall d m → ends d 2) ∧
      ∀ b d, kind = .bwait b d → ends d 1) ∧
    ((s.thr k).intPending = true →
      (∀ d, kind = .halt d → ends d 3) ∧ (∀ d m, kind = .twany d m → ends d 3) ∧ (∀ d m, kind = .twall d m → ends d 3) ∧
      ∀ b d, kind = .bwait b d → ends d 2) ∧
    (late → kind = .iflush → exec (.waitTimeout k.1 k.2 n) s =
      .next ((s.updCore k.1 fun c => { c with iflush := n + 1 }).overL k (s.endL k t0) eu id))

/-- R291. `SPAWN` pushes a pair, `TAKE` takes the pair pushed last; neither waits. -/
def Obligations.WorkListIsLastInFirstOut : Prop :=
  ∀ (s : State) (gd : Guard) (d : PReg) (a c : GReg), s.Clear → s.me.guardOn gd = true →
    let w := (s.core s.cur.1).wl
    let with' (l : List (Word × Word)) : State := s.updCore s.cur.1 fun x => { x with wl := l }
    (w.length + (s.core s.cur.1).wres < 64 →
      s.doesIn (with' ((s.me.rg a, s.me.rg c) :: w)) (.spawn gd d a c) 24 0 (·.setP d (BitVec.allOnes 64))) ∧
    (w.length + (s.core s.cur.1).wres ≥ 64 → s.does (.spawn gd d a c) 24 0 (·.setP d 0)) ∧
    (w = [] → s.does (.take gd d a) 24 0 (·.setP d 0)) ∧
    (∀ x y rest, w = (x, y) :: rest → s.doesIn (with' rest) (.take gd d a) 24 0
      fun t => ((t.setG a x).setG ⟨(a.val + 1) % 32, Nat.mod_lt _ (by decide)⟩ y).setP d (BitVec.allOnes 64))

/-- R293, R294. `TILEQ` sets the tile space; `FETCHTILE` asks, the cluster's unit hands out tiles row by row, one request a cycle, in
the order of arrival and, of one cycle, of core numbers, and the answer arrives 12 cycles on. -/
def Obligations.TilesAreHandedOut : Prop :=
  (∀ (s : State) (gd : Guard) (d : PReg) (a : GReg) (b : OpB), s.Clear → s.me.guardOn gd = true →
    let x := s.me.rg a
    let y := OpB.zx s.me b
    (x.toNat < 2 ^ 32 → y.toNat < 2 ^ 32 → y.toNat % 2 ^ 16 ≠ 0 → y.toNat / 2 ^ 16 ≠ 0 →
      s.doesIn (s.updCluster (clusterOf s.cur.1) fun c =>
        { c with tileq := BitVec.ofNat 64 (x.toNat + y.toNat * 2 ^ 32), tnext := 0 }) (.tileq gd a b) 4 0 id) ∧
    (x.toNat ≥ 2 ^ 32 → s.traps (.tileq gd a b) 4 .illegalOperand (BitVec.ofNat 64 (0x100 + a.val))) ∧
    exec (.fetchtile gd d a) s =
      .next ((s.tileAsk s.cur s.serial).waiting s.serial 24 0 (.tile d a))) ∧
  (∀ (r : TileReq) (l : List TileReq), (tileInsert r l).Perm (r :: l) ∧
    ((l.Pairwise fun p q => q.before p = false) → (tileInsert r l).Pairwise fun p q => q.before p = false)) ∧
  (∀ (s : State) (k : Key) (n : Nat) (x : TileReq) (rest : List TileReq),
    let cl := clusterOf k.1
    (s.cluster cl).tiles.filter s.tileLive = x :: rest →
    let q := (s.cluster cl).tileq.toNat
    let i := (s.cluster cl).tnext
    let R := q % 2 ^ 16
    let C := q / 2 ^ 16 % 2 ^ 16
    let th := q / 2 ^ 32 % 2 ^ 16
    let tw := q / 2 ^ 48
    let cols := (C + tw - 1) / tw
    let more := th ≠ 0 ∧ tw ≠ 0 ∧ i < (R + th - 1) / th * cols
    let r0 := i / cols * th
    let c0 := i % cols * tw
    let next (j : Nat) : State := s.updCluster cl fun c => { c with tfree := s.now + 1, tnext := j, tiles := rest }
    let serve := exec (.tileRequest k.1 k.2 n) s
    ((s.cluster cl).tfree > s.now → serve = .next (s.post ((s.cluster cl).tfree - s.now) (.tileRequest k.1 k.2 n))) ∧
    ((s.cluster cl).tfree ≤ s.now → more → serve =
      .next ((next (i + 1)).post 12 (.tileReply x.core x.slot x.serial (some (BitVec.ofNat 64
        (r0 + c0 * 2 ^ 16 + min th (R - r0) * 2 ^ 32 + min tw (C - c0) * 2 ^ 48)))))) ∧
    ((s.cluster cl).tfree ≤ s.now → ¬more → serve = .next ((next i).post 12 (.tileReply x.core x.slot x.serial none)))) ∧
  ∀ (s : State) (k : Key) (d : PReg) (a : GReg) (t0 eu n : Nat) (due : Option Nat), s.Waits k (.tile d a) t0 eu n due →
    (∀ w, exec (.tileReply k.1 k.2 n (some w)) s = .next (s.overL k (s.endL k t0) eu fun t => (t.setG a w).setP d 0)) ∧
    exec (.tileReply k.1 k.2 n none) s = .next (s.overL k (s.endL k t0) eu (·.setP d (BitVec.allOnes 64)))

/-- R292. Skipper: every 4,096 cycles of `%cycles` a core tells its mesh neighbours in the context its occupancy and may offer work to
the least loaded, of equals the first of N, E, S, W; the grant reserves room, and the oldest entries go.
The model's choices in it: notes/assumptions/26. -/
def Obligations.SkipperMovesTheOldestEntries : Prop :=
  ∀ (s : State) (x y k g dir : Nat) (es : List (Word × Word)),
    let c := s.core x
    let e := s.core y
    let told := (s.skipNbrs x).foldl (fun s p => s.post (msgTime x p.2 1) (.skipperOccupancy x p.2 c.wl.length)) s
    let runs := ∃ cid, c.run = some cid ∧ (s.ctx (dieOf x) cid).st = .running
    -- (dir, y) is the neighbour picked: none is less loaded by the last reports, and none as loaded stands before it
    let pick := (dir, y) ∈ s.skipNbrs x ∧ ∀ q, q ∈ s.skipNbrs x →
      vget c.nbr dir 0 < vget c.nbr q.1 0 ∨ vget c.nbr dir 0 = vget c.nbr q.1 0 ∧ dir ≤ q.1
    let same := ∃ cid, c.run = some cid ∧ e.run = some cid ∧
      ((s.ctx (dieOf x) cid).st = .running ∨ (s.ctx (dieOf x) cid).st = .preempting)
    let m := min g c.wl.length
    (∃ u : State, u.now = s.now + 1 ∧ s.tick = u.periodic.foldl (fun s e => s.post 0 e) u) ∧
    (.skipperTick x ∈ s.periodic ↔ (∃ v : Core, (x, v) ∈ s.cores ∧ v.run ≠ none) ∧ s.cyc (dieOf x) % 4096 = 0 ∧
      (s.die (dieOf x)).off = false) ∧
    ((dir, y) ∈ s.skipNbrs x ↔ (c.run ≠ none ∧ e.run = c.run) ∧
      ((dir = 0 ∧ 0 < x / 16 % 16 ∧ y = x - 16) ∨ (dir = 1 ∧ x % 16 < 15 ∧ y = x + 1) ∨
       (dir = 2 ∧ x / 16 % 16 < 15 ∧ y = x + 16) ∨ (dir = 3 ∧ 0 < x % 16 ∧ y = x - 1))) ∧
    (runs → s.skipNbrs x = [] → exec (.skipperTick x) s = .next s) ∧
    (runs → pick → c.xfer = true ∨ c.wl.length < vget c.nbr dir 0 + 8 → exec (.skipperTick x) s = .next told) ∧
    (runs → pick → c.xfer = false → vget c.nbr dir 0 + 8 ≤ c.wl.length →
      exec (.skipperTick x) s = .next ((told.updCore x fun c => { c with xfer := true }).post (msgTime x y 1)
        (.skipperOffer x y (min 16 ((c.wl.length - vget c.nbr dir 0) / 2))))) ∧
    ((dir, x) ∈ neighbours y → exec (.skipperOccupancy x y k) s =
      .next (s.updCore y fun e => { e with nbr := vset e.nbr dir k })) ∧
    (same → exec (.skipperOffer x y k) s =
      .next ((s.updCore y fun e => { e with wres := e.wres + min k (64 - e.wl.length - e.wres) }).post (msgTime y x 1)
        (.skipperGrant x y (min k (64 - e.wl.length - e.wres))))) ∧
    (same → exec (.skipperGrant x y g) s =
      .next (((s.updCore x fun c => { c with wl := c.wl.take (c.wl.length - m) }).chargeRun x (20 * ((16 * m + 63) / 64))).post
        (msgTime x y (flits (16 * m))) (.skipperTransfer x y g (c.wl.drop (c.wl.length - m))))) ∧
    (same → exec (.skipperTransfer x y g es) s =
      .next ((s.updCore y fun e => { e with wl := e.wl ++ es, wres := e.wres - g }).updCore x fun c => { c with xfer := false }))

/-- R217, R97, R98. `GO`: a light thread at its home goes on; elsewhere it waits for the landing queue of the home while its context
travels; a refused one traps with its reason. The model's choices in it: notes/assumptions/11, 36. -/
def Obligations.GoMovesALightThread : Prop :=
  ∀ (s : State) (gd : Guard) (a : GReg) (b : OpB) (e : BitVec 128), s.Clear → s.me.guardOn gd = true →
    let core := s.cur.1
    let c := s.core core
    let va := (s.me.rg a + OpB.sx s.me b).toNat
    let home := Entry.homeCore e (va % 2 ^ 48)
    let x := s.ctx (dieOf core) c.cid
    let refused (n : Nat) : Prop := s.traps (.go gd a b) 24 .migrationRefused (BitVec.ofNat 64 (n * 2 ^ 48 + va % 2 ^ 48))
    let reach := s.me.light = true ∧ s.me.node = none ∧ s.trans s.cur (va % 2 ^ 48) = .leaf e ∧
      permitted (s.partOf (dieOf core) c.cid).keys .load (!s.me.mode) e = true
    let near := dieOf home = dieOf core ∧ clusterOf home ∈ x.grid
    let unarmed := ∀ m, some m ∈ s.me.mon.toList → m.armed = false
    let unbarred := ∀ r, r ∈ c.bar.toList → r.mask.getLsbD s.cur.2 = false
    (s.me.light = false → refused 1) ∧
    (s.me.light = true → s.me.node ≠ none → refused 2) ∧
    (reach → Entry.tier e ≥ 2 → refused 3) ∧
    (reach → Entry.tier e < 2 → ¬near → refused 4) ∧
    (reach → Entry.tier e < 2 → near → ¬unarmed → refused 5) ∧
    (reach → Entry.tier e < 2 → near → unarmed → ¬unbarred → refused 6) ∧
    (reach → Entry.tier e < 2 → near → unarmed → unbarred →
      (home = core → s.does (.go gd a b) 24 0 id) ∧
      (home ≠ core → ∃ g : Mig,
        exec (.go gd a b) s = .next
          ((State.post { s with serial := s.serial + 2, migs := tput s.migs (s.serial + 1) g } (msgTime core home 29)
            (.migrationArrival (s.serial + 1))).waiting s.serial 24 0 (.landing (s.serial + 1))) ∧
        (g.src, g.slot, g.dst, g.cid, g.home) = (core, s.cur.2, home, c.cid, false) ∧
        g.thr.origin = (if s.me.st = .guest then s.me.origin else s.cur) ∧ g.thr.light = true ∧ g.thr.pc = s.me.pc + 12 ∧
        g.thr.g = s.me.g ∧ g.thr.p = s.me.p ∧ g.thr.cl = s.me.cl ∧ g.thr.hold = s.me.hold ∧ g.thr.fmode = s.me.fmode ∧
        g.thr.fflags = s.me.fflags ∧ g.thr.forfeit = s.me.forfeit ∧ g.thr.tcause = s.me.tcause ∧ g.thr.tval = s.me.tval ∧
        g.thr.tepc = s.me.tepc ∧ g.thr.tstat = s.me.tstat))

/-- R97, R99, R105. A migration arrives: a full landing queue refuses it, and it comes again in the thread's next slot; else the
origin is AWAY and the context lands in the lowest free slot as GUEST; a guest moves on, or home; a guest's exit value makes the origin
EXITED. The model's choices in it: notes/assumptions/11, 36, 104, and 87: that `%tint` moves with the guest is the model's choice. -/
def Obligations.MigrationsLand : Prop :=
  ∀ (s : State) (m : Nat) (g : Mig), tget s.migs m = some g →
    let k : Key := (g.src, g.slot)
    let o := g.thr.origin
    let q := (s.core g.dst).landing
    let away := (s.core g.src).run = some g.cid ∧ k.2 < 16 ∧ (s.core g.src).dstep ≠ some k.2 ∧
      (∃ t0 eu n due, (s.thr k).pend = some ⟨.landing m, t0, eu, n, due⟩) ∧ (s.ctx (dieOf g.src) g.cid).st ≠ .preempting
    let y := s.cyc (dieOf g.dst)
    let open' (n : Nat) : Prop := (s.thr (g.dst, n)).st = .free ∧ (s.thr (g.dst, n)).next ≤ y
    let quiet := ((s.thr k).intPending && (s.thr k).ie && !(s.thr k).mode) = false
    (away → quiet → q.length < 4 → g.home = false → g.dst ≠ o.1 → k = o → g.dst ≠ g.src →
      let sent : Mig := { g with
        thr := { (s.thr k).travel o g.thr.pc with postD := g.thr.postD, postH := g.thr.postH } }
      let gone : State := (s.chargeRun g.src 24).updThr k fun t =>
        { t with st := .away, place := g.dst, pend := none, walked := [], pc := g.thr.pc }
      let left := { gone with migs := tput s.migs m sent }.updCore g.dst fun c => { c with landing := c.landing ++ [m] }
      exec (.migrationArrival m) s = .next (if q = [] then left.post 0 (.landingSlotClaim g.dst) else left)) ∧
    -- a guest moves on, or home
    (away → quiet → q.length < 4 → g.home = false → k ≠ o → (s.thr k).origin = o → (s.thr k).st = .guest → o.2 < 16 → g.dst ≠ g.src →
      let sent : Thread := { (s.thr k).travel o g.thr.pc with postD := g.thr.postD, postH := g.thr.postH }
      let tint := if (s.thr k).intPending then (s.thr k).tint else (s.thr o).tint
      ∃ t, exec (.migrationArrival m) s = .next t ∧ t.mem = s.mem ∧ t.thr k = .freed (s.cyc (dieOf g.src)) ∧
        (g.dst ≠ o.1 → (t.thr o).place = g.dst ∧ (t.thr o).tint = tint ∧ (t.thr o).st = (s.thr o).st ∧
          (t.core g.dst).landing = q ++ [m] ∧ tget t.migs m = some { g with thr := sent }) ∧
        (g.dst = o.1 → t.migs = tdel s.migs m ∧ (t.core g.dst).landing = q ∧ t.thr o =
          { sent with st := .ready, origin := (0, 0), tint := tint, next := alignUp (s.cyc (dieOf o.1) + 1) o.2 })) ∧
    (away → q.length = 4 → exec (.migrationArrival m) s = .next (s.post (msgTime g.dst g.src 1) (.migrationRetry m))) ∧
    (away → ∃ t, exec (.migrationRetry m) s = .next t ∧ (t.thr k).forfeit = (s.thr k).forfeit + 1 ∧ t.mem = s.mem ∧
      (t.thr k).pend = (s.thr k).pend ∧ t.agenda = agendaAdd s.agenda (s.now + (alignUp (s.cyc (dieOf g.src) + 1) g.slot -
        s.cyc (dieOf g.src) + msgTime g.src g.dst 29)) (.migrationArrival m)) ∧
    (∀ n, q = [m] → 1 ≤ n → n ≤ 15 → open' n → (∀ j, 1 ≤ j → j < n → ¬open' j) → o.1 ≠ g.dst → o.2 < 16 →
      ∃ t, exec (.landingSlotClaim g.dst) s = .next t ∧ (t.core g.dst).landing = [] ∧ t.mem = s.mem ∧ t.migs = tdel s.migs m ∧
        t.thr (g.dst, n) = { g.thr with st := .guest, tint := (s.thr o).tint, next := alignUp (y + 1) n } ∧
        (t.thr o).tint = 0) ∧
    (∀ v : Word, (s.core o.1).run = some g.cid → (s.thr o).st = .away → 1 ≤ o.2 → o.2 < 16 →
      (∀ p, (s.thr (o.1, 0)).pend = some p → ∀ r, p.kind ≠ .treap r o.2) →
      exec (.guestExitMessage o.1 o.2 g.cid v) s = .next (s.updThr o (·.done v)))

/-- R333, R58, R335. What a trap does: the cause, the value and the address are saved; with a handler, mode and interrupt enable are
kept and the thread enters system mode at `%tvec`; without one, the thread stops and the event tells it, whose kill has reason 3,
or 4 in system mode. Nothing of the instruction is written. The model's choices in it: notes/assumptions/29, 55. -/
def Obligations.TrapEntry : Prop :=
  ∀ (s : State) (eu : Nat) (c : Cause) (v : Word), s.Clear → c ≠ .integrity →
    let core := s.cur.1
    let cid := (s.core core).cid
    let tvec := s.myCtx.tvec
    let saved (t : Thread) : Thread :=
      { t with tcause := BitVec.ofNat 8 c.code, tval := v, tepc := t.pc, walked := [], next := s.turnW s.cur }
    let charged := (s.chargeRun core eu).chargeRun core 4
    let o := if s.me.st = .guest then s.me.origin else s.cur
    (s.me.mode = false → tvec ≠ 0 → s.trapStep s.cur eu c v = charged.setThr s.cur
      { saved s.me with pc := tvec, tstat := packStat s.me.ie false false true }) ∧
    (s.me.mode = true ∨ tvec = 0 → s.trapStep s.cur eu c v =
      (charged.setThr s.cur { saved s.me with pend := some ⟨.stopped, s.now, 0, 0, none⟩ }).postEvent
        { type := 2, die := dieOf core, cid := cid, w1 := BitVec.ofNat 64 (idxOf o.1 * 16 + o.2),
          w2 := BitVec.ofNat 64 (c.code * 2 ^ 48 + s.me.pc.toNat), w3 := v, kill := some (if s.me.mode then 4 else 3) })

/-- R336, R337, R346. `TRAP` takes SOFTWARE_TRAP; `BKPT` takes BREAKPOINT, or halts the core of a context under debug, PC staying;
`ERET` restores mode, interrupt enable and PC, and is privileged; `IFLUSH` waits 32 cycles. -/
def Obligations.TrapsAndReturn : Prop :=
  ∀ (s : State) (gd : Guard) (b : OpB), s.Clear → s.me.guardOn gd = true →
    let core := s.cur.1
    let die := dieOf core
    let x := s.ctx die (s.core core).cid
    s.traps (.trap gd b) 4 .softwareTrap (OpB.zx s.me b) ∧
    (x.debug = false → s.traps (.bkpt gd b) 4 .breakpoint (OpB.zx s.me b)) ∧
    (x.debug = true → (s.core core).halted = false → ∃ t, exec (.bkpt gd b) s = .next t ∧ (t.core core).halted = true ∧
      t.thr s.cur = { s.me with next := s.turnW s.cur, walked := [] } ∧ t.mem = s.mem ∧ t.agenda = s.agenda ∧
      t.ctx die (s.core core).cid =
        { x with halts := x.halts + 1, haltAt := if x.halts = 0 then s.cyc die else x.haltAt }) ∧
    (s.me.mode = true → s.me.tepc.toNat % 4 = 0 → (s.me.intPending && s.me.pie && !s.me.pmode) = false →
      s.does (.eret gd) 4 0 fun t => { t with tstat := packStat t.pie t.pie t.pmode t.pmode, pc := t.tepc }) ∧
    (s.me.mode = false → s.traps (.eret gd) 4 .privileged 0x11) ∧
    s.blocks (.iflush gd) 4 32 .iflush

/-- R332. What `SYSR` reads and `SYSW` writes, number by number; both are privileged. -/
def Obligations.SystemRegisters : Prop :=
  ∀ (s : State) (gd : Guard) (d a : GReg) (n : BitVec 32), s.Clear → s.me.guardOn gd = true →
    let core := s.cur.1
    let c := s.core core
    let x := s.myCtx
    let v := s.me.rg a
    let reads (m : BitVec 32) (w : Word) : Prop := s.does (.sysr gd d m) 4 0 (·.setG d w)
    let writes (m : BitVec 32) (ok : Prop) (f : Thread → Thread) : Prop :=
      (ok → s.does (.sysw gd a m) 4 0 f) ∧ (¬ok → s.traps (.sysw gd a m) 4 .illegalOperand 0x200)
    let address := v.toNat < 2 ^ 48 ∧ v.toNat % 4 = 0
    let listed := n.toNat ∈ [0, 1, 2, 3, 4, 5, 0x10, 0x11, 0x12, 0x20, 0x21, 0x22, 0x23, 0x24, 0x25, 0x26, 0x27, 0x30]
    (s.me.mode = false → s.traps (.sysr gd d n) 4 .privileged 0x12 ∧ s.traps (.sysw gd a n) 4 .privileged 0x13) ∧
    (s.me.mode = true →
      reads 0 (x.tvec.zeroExtend 64) ∧ reads 1 (s.me.tcause.zeroExtend 64) ∧ reads 2 s.me.tval ∧
      reads 3 (s.me.tepc.zeroExtend 64) ∧ reads 4 (BitVec.ofNat 64 (s.me.tstat.toNat + x.esat.toNat * 2 ^ 8)) ∧
      reads 5 s.me.tint ∧ reads 0x10 (x.savebase.zeroExtend 64) ∧ reads 0x11 (BitVec.ofNat 64 x.savelen) ∧
      reads 0x12 (BitVec.ofNat 64 (s.ctx (dieOf core) c.cid).mapspill) ∧
      (∀ i : Fin 8, reads (BitVec.ofNat 32 (0x20 + i.val)) (BitVec.ofNat 64 ((c.bar.get i).mask.toNat * 2 ^ 48 +
        (c.bar.get i).cset.toNat * 2 ^ 32 + (c.bar.get i).phase.toNat * 2 ^ 2 + (c.bar.get i).scope.toNat))) ∧
      reads 0x30 (s.cluster (clusterOf core)).tileq ∧
      (¬listed → s.traps (.sysr gd d n) 4 .illegalOperand 0x200 ∧ s.traps (.sysw gd a n) 4 .illegalOperand 0x200) ∧
      (n.toNat ∈ [0x10, 0x11, 0x12, 0x30] → s.traps (.sysw gd a n) 4 .illegalOperand 0x200) ∧
      (address → s.doesIn (s.updCore core fun c => c.updCtx c.cid fun x => { x with tvec := v.setWidth 48 }) (.sysw gd a 0) 4 0 id) ∧
      (¬address → s.traps (.sysw gd a 0) 4 .illegalOperand 0x200) ∧
      writes 1 (v.toNat < 2 ^ 8) (fun t => { t with tcause := v.setWidth 8 }) ∧
      writes 2 True (fun t => { t with tval := v }) ∧ writes 3 address (fun t => { t with tepc := v.setWidth 48 }) ∧
      writes 4 (v.toNat < 2 ^ 9 ∧ v.extractLsb' 4 4 = 0)
        (fun t => { t with tstat := packStat (v.getLsbD 3) (v.getLsbD 2) (v.getLsbD 1) true }) ∧
      writes 5 (v.extractLsb' 32 31 = 0) (fun t => { t with tint := v }))

/-- R338, R347. `HCALL` copies g1 to g6 to memory of the application cores, posts the event and waits; the reply to that call writes g1
and g2, or traps HCALL_RETURN_ERROR with its status; while the thread is stopped for a pre-emption it is kept with it, while the
context is switched out with the runtime, and after a kill it has no effect. Where the copy stands is free (notes/assumptions/2).
The model's choices in it: notes/assumptions/61. -/
def Obligations.HcallAndReply : Prop :=
  (∀ (s : State) (gd : Guard) (b : OpB), s.Clear → s.me.guardOn gd = true →
    let core := s.cur.1
    let o := if s.me.st = .guest then s.me.origin else s.cur
    let buf := Config.freeNat s.free % 2 ^ 40 * 64
    let args := [1, 2, 3, 4, 5, 6].flatMap fun r => leBytes 8 (s.me.rg r).toNat
    exec (.hcall gd b) s = .next ((State.postEvent { s with free := s.free + 1, appMem := s.appMem.writeBytes buf args } {
      type := 8, die := dieOf core, cid := (s.core core).cid, w1 := BitVec.ofNat 64 (idxOf o.1 * 16 + o.2), w2 := OpB.zx s.me b,
      w3 := BitVec.ofNat 64 buf, kill := none, call := s.serial }).waiting s.serial 4 0 .hcall)) ∧
  ∀ (s : State) (k : Key) (t0 eu n cid status : Nat) (due : Option Nat) (r1 r2 : Word) (x : Ctx), s.Waits k .hcall t0 eu n due →
    tget (s.die (dieOf k.1)).ctxs cid = some x → k.1 ∈ x.cores → (∀ j, (s.thr j).calls n = true → j = k) →
    let reply := exec (.hcallReply (dieOf k.1) cid n status r1 r2) s
    (x.killed = none → x.st = .running → status = 0 → reply = .next (s.over k (s.turnW k) eu fun t => (t.setG 1 r1).setG 2 r2)) ∧
    (x.killed = none → x.st = .running → status ≠ 0 → reply =
      .next (s.trapStep k eu .hcallError (BitVec.ofNat 64 status))) ∧
    (x.killed = none → x.st = .preempting → (s.thr k).node = none → reply =
      .next (s.updThr k fun t => { t with hreply := some (status, r1, r2) })) ∧
    (x.killed = none → x.st = .out ∨ x.st = .restoring → reply = .next (State.post { s with free := s.free + 1 }
      (1 + Config.freeNat s.free) (.hcallReply (dieOf k.1) cid n status r1 r2))) ∧
    (x.killed ≠ none → reply = .next s)

/-- R45, R57, R59, R89, R322, R364. A step: a due answer by which a thread may still issue in this cycle comes first, then the next core's
slot. A ready thread runs `exec` of the instruction that the word at its PC decodes to, a word that is none traps, and the slot
of a thread that is not ready is wasted. A word that a write has replaced since the core's last `IFLUSH` may be
fetched as it was before. An instruction that would wait only for ripe relaxed accesses does not wait. Then come the other due events,
those that execute an instruction before those that follow from the cycle's commits, one that needs a die that is off waiting for it,
then the clock. The model's choices in it: notes/assumptions/1, 12, 33, 85, 92. -/
def Obligations.StepRunsTheDecodedInstruction : Prop :=
  ∀ (s : State),
    (∀ e rest, s.takeEarly = some (e, rest) → step s = exec e { s with agenda := rest }) ∧
    (∀ c, s.served c →
      let k : Key := (c, s.slotNow c)
      let u : State := { s with slotPos := c + 1 }
      (s.issuing k = false → step s = exec (.wastedSlot k.1 k.2) u) ∧
      ∀ w, s.issuing k = true → s.fetches k w →
        (s.unwritten k →
          (∀ i, decodeWord (s.thr k).isNode w = .ok i →
            step s = u.issueTurn i k 4 ∧ (s.ripeOf k = [] → step s = exec i { u with cur := k })) ∧
          (decodeWord (s.thr k).isNode w = .error .illegalInstruction →
            step s = .next (u.trapStep k 4 .illegalInstruction (w.setWidth 64))) ∧
          ∀ n, decodeWord (s.thr k).isNode w = .error (.illegalOperand n) →
            step s = .next (u.trapStep k 4 .illegalOperand (BitVec.ofNat 64 n))) ∧
        ∃ (v : IWord) (f : Nat), (∀ (j : Fin 3) (e : Entry), s.trans k (s.fetchVa k j) = .leaf e →
            v.extractLsb' (32 * j.val) 32 ∈ w.extractLsb' (32 * j.val) 32 :: s.older k.1 (Entry.loc e (s.fetchVa k j))) ∧
          ∀ i, decodeWord (s.thr k).isNode v = .ok i → step s = { u with free := f }.issueTurn i k 4 ∧
            (s.ripeOf k = [] → step s = exec i { u with free := f, cur := k })) ∧
    (s.takeEarly = none → s.nextCore = none →
      (∀ e rest, s.takeDue = some (e, rest) →
        (∀ x ∈ s.agenda.takeWhile (·.1 ≤ s.now), s.rank e ≤ s.rank x.2) ∧
        let u : State := { s with agenda := rest, slotPos := 2048 }
        (∀ k, s.waitOver e = some k → (u.waitDone k).issuing k = true → step s = (u.waitDone k).turn k) ∧
        (s.waitOver e = none → s.heldUp e = none → step s = exec e u) ∧
        ∀ d, s.waitOver e = none → s.heldUp e = some d → step s = .next (u.awaitDie d e)) ∧
      ((∀ e, e ∈ s.agenda → s.now < e.1) → step s = .next s.tick))

/-- R44, R46 to R56. The words that the manual writes out for its examples. -/
def Obligations.WrittenOutWordsDecode : Prop :=
  let word (w0 w1 w2 : BitVec 32) : IWord := w2 ++ (w1 ++ w0)
  let reads (w0 w1 w2 : BitVec 32) (i : Instr) : Prop := decodeWord false (word w0 w1 w2) = .ok i
  let inNode (w0 w1 w2 : BitVec 32) (i : Instr) : Prop :=
    decodeWord true (word w0 w1 w2) = .ok i ∧ ∃ n, decodeWord false (word w0 w1 w2) = .error (.illegalOperand n)
  let any : Guard := ⟨false, 0⟩
  reads 0x00000001 0 0 (.nop any) ∧
  reads 0x05130020 0x00000006 0x00000064 (.add ⟨false, 3⟩ false false 5 6 (.lit 100)) ∧
  reads 0x05100106 0x00000006 0x00000007 (.tstartLight any 5 6 (.lit 7)) ∧
  reads 0x32100832 0x00000005 0x00000064 (.cmp any false .ltu 2 5 (.lit 100)) ∧
  reads 0x09090043 0x00010C0A 0x0000000B (.ffma ⟨true, 1⟩ ⟨.fp32, .rtz, false⟩ 9 10 (.g 11) 12) ∧
  reads 0x05001649 0x00010006 0 (.fcvt any .int64 ⟨.fp32, .rtz, false⟩ 5 6) ∧
  reads 0x101000B0 0x28230A09 0x00000040 (.bind any ⟨2, 1, .mul, .add⟩ 16 9 (.lit 64) 10) ∧
  reads 0x23020053 0x00002328 0x00000029 (.vfma ⟨false, 2⟩ ⟨.fp32, .rne, false⟩ 3 8 (.v 9) 3) ∧
  reads 0x28100070 0x01000005 0 (.scfg any false .fp32 2 0 8 5 (.lit 0)) ∧
  reads 0x05000217 0x00000706 0 (.vcopyb any 2 0 5 6 7) ∧
  reads 0x07100180 0x54000005 0x00000010 (.ld any true ⟨false, .int32, .glob, .plain, 0⟩ 7 5 (.lit 16)) ∧
  reads 0x00100088 0x56002305 0 (.stq any 5 (.lit 0) 3) ∧
  reads 0x091000D0 0x0000000A 0x000003E8 (.twany any 9 10 (.lit 1000)) ∧
  reads 0x071000A0 0x58690605 0x00000008 (.amoadd any ⟨false, .int64, .glob, .ar, 9⟩ 7 5 (.lit 8) 6) ∧
  reads 0x0A1000AB 0x58410C05 0 (.cas2 any ⟨false, .int64, .glob, .rel, 1⟩ 10 5 (.lit 0) 12) ∧
  reads 0x090000C6 0 0x00000007 (.bwait any 0 9 (.g 7)) ∧
  reads 0x311000E0 0x00000005 0 (.ginvoke any 1 5 (.lit 0)) ∧
  reads 0x001000E1 0x00000007 0x00000002 (.emit any 7 (.lit 2)) ∧
  reads 0x05100012 0 0x00000003 (.sysr any 5 3) ∧
  reads 0x00000011 0 0 (.eret any) ∧
  inNode 0x060000E7 0x00000038 0 (.dget any 6 0) ∧
  inNode 0x380000E8 0 0x00000006 (.dset any 0 (.g 6))

/-- R44 to R57. No bit of an encoding is dropped: decoding the word of a well-formed instruction gives that instruction, one on d or
ch registers in a node only. -/
def Obligations.DecodeOfEncode : Prop :=
  ∀ (i : Instr) (w : IWord) (node : Bool), i.wellFormed = true → encode i = some w → (nodeReg i = true → node = true) →
    decodeWord node w = .ok i

/-- R44, R46, R57. No word has two readings and no reserved bit is ignored: a word that decodes is the encoding of a well-formed
instruction. -/
def Obligations.EncodeOfDecode : Prop :=
  ∀ (i : Instr) (w : IWord) (node : Bool), decodeWord node w = .ok i → i.wellFormed = true ∧ encode i = some w

/-- R50, R51, R57. A guarded-off instruction writes nothing, evaluates no clause of its thread, whatever clauses it holds, adds 12 to PC
and is charged 1 eu; only the checks before the guard trap. -/
def Obligations.GuardedOff : Prop :=
  ∀ (s : State) (i : Instr) (f : Fields), s.resident s.cur = true → i.toFields = some f →
    (s.me.intPending && s.me.ie && !s.me.mode) = false → (s.core s.cur.1).dstep ≠ some s.cur.2 →
    (if laneWise f.op.toNat then s.me.lanes f.gd = 0 else s.me.guardOn f.gd = false) →
    (∀ gd dest frm d a c, i = .vcopyb gd dest frm d a c → vcopyBad d a c = none) →
    let off : State := (s.chargeIn s.cur.1 1 1).updThr s.cur fun t => (t.atPc (pcNext t.pc)).due (s.turnW s.cur) t.forfeit
    ((privileged i = true → s.me.mode = true) → (nodeReg i = true → s.me.isNode = true) → exec i s = .next off) ∧
    (privileged i = true → s.me.mode = false → s.traps i 4 .privileged (f.op.setWidth 64))

/-- R59, R20. No step stops: while the agenda holds steps of the machine, every step gives a next state.
The model's choices in it: notes/assumptions/1, 77. -/
def Obligations.EveryStepAnswersNext : Prop :=
  ∀ (s : State), s.planned → ∃ t, step s = .next t

/-- No step puts a Pyrdal instruction into the agenda: an instruction is only ever executed from the word at a thread's PC (R45, R59).
The model's choices in it: notes/assumptions/1. -/
def Obligations.AgendaHoldsMachineSteps : Prop :=
  ∀ (s t : State), s.planned → step s = .next t → t.planned

/-- Memory keeps its canonical form in every step: addresses rising, no byte listed that reads as zero (notes/assumptions/3). -/
def Obligations.MemoryStaysCanonical : Prop :=
  ∀ (s t : State), s.memOk = true → step s = .next t → t.memOk = true

/-- R5, R363, R364. Reset: device status RESET with no die in service, the module cap at 2,400 W and the clock at 1,300 MHz; no
memory is listed, no core runs a context, and the one step planned is the verification of the firmware.
The model's choices in it: notes/assumptions/1, 2, 3, 4, 5, 6, 60. -/
def Obligations.Reset : Prop :=
  let s := State.reset
  s.boot = 0 ∧ s.inService = 0 ∧ s.cap = 2400 ∧ s.clock = 1300 ∧ s.memOk = true ∧ s.planned ∧ s.agenda = [(0, .romVerify)] ∧
  ∀ c, (s.core c).run = none ∧ ∀ a, s.mem.get a = 0

/-- R182, R183, R184, R188, R189, R211 to R213, R214, R316. Loads and stores of the typed buffers, of single elements, pairs and vectors: bounds,
alignment and agents, latency by port width; a store changes the bytes it covers and, under `.zb`, the bitmap bits of the halfwords
it touches, and nothing else; under RX it is only sent, to be performed after its time or later (notes/assumptions/92, the model's choice).
`NZSCAN` lists the set bits of 64 bitmap bits. The model's choices in it: notes/assumptions/43. -/
def Obligations.BufferAccesses : Prop :=
  (∀ (s : State) (gd : Guard) (sx zb : Bool) (x : MemX) (k : Fin 4) (d a c : GReg) (v r q : VReg) (b : OpB), s.Clear → s.me.guardOn gd = true →
    x.ety.isMem = true → x.ord = .plain → x.space ≠ .glob → x.space ≠ .queue →
    let sp := x.space.code
    let X := s.myCtx
    let w := x.ety.bits
    let n := w / 8
    let va := (s.me.rg a + OpB.sx s.me b).toNat
    let width : Nat := match x.space with
      | .abuf => 128
      | .zmap => 8
      | _ => 256
    let lat (m : Nat) := 2 + (m + width - 1) / width
    let has (e m : Nat) : Prop := e < 2 ^ 63 ∧ e + m ≤ X.size sp
    let bytes (r : GReg) := leBytes n (s.me.rg r).toNat
    let cid := (s.core s.cur.1).cid
    let after := s.bufWrite s.cur.1 cid sp va (bytes c)
    let both := after.bufWrite s.cur.1 cid sp (va + n) (bytes (nextG c))
    let keeps (u : State) : Prop := u.mem = s.mem ∧ u.me = s.me ∧ ∀ p, p ∈ [1, 2, 3, 5] → p ≠ sp → ¬(zb = true ∧ p = 5) → u.myCtx.buf p = X.buf p
    let ld (e : Nat) : Word := Spec.loaded sx n ((X.buf sp).read e n)
    let plain := x.rx = false
    -- under RX it is sent, to be performed then or later (R214, R316): what it touches, and what it stores there
    let sends (i : Instr) (cost : Nat) (op : MemOp) (l : List (Nat × List Byte)) : Prop := x.rx = true → ∃ u rq q kind,
      s.doesIn u i cost 0 id ∧ u.mem = s.mem ∧ (∀ p ∈ [1, 2, 3, 5], u.myCtx.buf p = X.buf p) ∧
      u.me = { s.me with rlx := [⟨q.serial, kind, ⟨1, [], none, 0⟩⟩] } ∧ tget u.reqs rq = some q ∧ q.op = op ∧
      (q.core, q.slot, q.cid) = (s.cur.1, s.cur.2, cid) ∧ q.els.map (fun e => (e.loc, leBytes e.n e.data)) = l ∧
      (s.now + lat (n * l.length), Instr.relaxedAccessPerformed rq) ∈ u.agenda
    let read (e : Nat) : Nat × List Byte := (e, leBytes n 0)
    (va % n = 0 → has va n → sends (.ld gd sx x d a b) 24 (.bufLoad sp) [read va] ∧
      (x.space ≠ .wbuf → sends (.st gd x a b c) 24 (.bufStore sp false) [(va, bytes c)])) ∧
    (va % (2 * n) = 0 → has va (2 * n) → sends (.ldp gd sx x d a b) 24 (.bufLoad sp) [read va, read (va + n)] ∧
      (x.space ≠ .wbuf → sends (.stp gd x a b c) 24 (.bufStore sp false) [(va, bytes c), (va + n, bytes (nextG c))])) ∧
    (plain → va % n = 0 → has va n → s.does (.ld gd sx x d a b) 24 (lat n) (·.setG d (ld va))) ∧
    (plain → va % (2 * n) = 0 → has va (2 * n) →
      s.does (.ldp gd sx x d a b) 24 (lat (2 * n)) fun t => (t.setG d (ld va)).setG (nextG d) (ld (va + n))) ∧
    (plain → va % n = 0 → has va n → x.space ≠ .wbuf → zb = false → s.doesIn after (.st gd x a b c) 24 (lat n) id ∧
      after.myCtx.buf sp = (X.buf sp).writeBytes va (bytes c) ∧ keeps after) ∧
    (plain → va % (2 * n) = 0 → has va (2 * n) → x.space ≠ .wbuf → zb = false → s.doesIn both (.stp gd x a b c) 24 (lat (2 * n)) id ∧
      both.myCtx.buf sp = ((X.buf sp).writeBytes va (bytes c)).writeBytes (va + n) (bytes (nextG c)) ∧ keeps both) ∧
    (va % n = 0 → ¬has va n →
      s.traps (.ld gd sx x d a b) 24 .bufferPermission (BitVec.ofNat 64 va) ∧
      s.traps (.st gd x a b c) 24 .bufferPermission (BitVec.ofNat 64 va)) ∧
    (va % (2 * n) = 0 → ¬has va (2 * n) →
      s.traps (.ldp gd sx x d a b) 24 .bufferPermission (BitVec.ofNat 64 va) ∧
      s.traps (.stp gd x a b c) 24 .bufferPermission (BitVec.ofNat 64 va)) ∧
    (va % n = 0 → x.space = .wbuf → s.traps (.st gd x a b c) 24 .bufferPermission (BitVec.ofNat 64 va)) ∧
    (va % n ≠ 0 → s.traps (.ld gd sx x d a b) 24 .misaligned (BitVec.ofNat 64 va) ∧
      s.traps (.st gd x a b c) 24 .misaligned (BitVec.ofNat 64 va)) ∧
    (va % (2 * n) ≠ 0 → s.traps (.ldp gd sx x d a b) 24 .misaligned (BitVec.ofNat 64 va) ∧
      s.traps (.stp gd x a b c) 24 .misaligned (BitVec.ofNat 64 va)) ∧
    (s.Lanes gd → x.ety.native = true →
      let act := s.active gd w (2048 / w)
      -- element e at f e: what a load merges into v, and the state a store of q leaves
      let loads (i : Instr) (f : Nat → Nat) : Prop := ∃ z : VWord, s.does i 320 (lat (n * act.length)) (·.setV v z) ∧
        ∀ e, e < 2048 / w → velem w z e = if e ∈ act then (X.buf sp).read (f e) n else velem w (s.me.rv v) e
      let stores (i : Instr) (f : Nat → Nat) : Prop := ∃ u : State, s.doesIn u i 320 (lat (n * act.length)) id ∧ keeps u ∧
        (u.myCtx.buf sp, u.myCtx.z) = act.foldl (fun (m : Mem × Mem) e =>
          let m1 := m.1.writeBytes (f e) (leBytes n (velem w (s.me.rv q) e))
          (m1, if zb then zmapBits m1 m.2 (f e) n else if sp = 5 then m1 else m.2)) (X.buf sp, X.z)
      let good (f : Nat → Nat) : Prop := ∀ e ∈ act, f e % n = 0 ∧ has (f e) n
      let run (e : Nat) : Nat := (va + e * n) % 2 ^ 64
      let lane (i : Nat) : Nat :=
        (s.me.rg a + (BitVec.ofNat 32 (velem 32 (s.me.rv r) i)).signExtend 64 * BitVec.ofNat 64 (2 ^ k.val)).toNat
      let reads (f : Nat → Nat) := act.map fun e => read (f e)
      let puts (f : Nat → Nat) := act.map fun e => (f e, leBytes n (velem w (s.me.rv q) e))
      (act ≠ [] → (good run → sends (.vld gd x v a b) 320 (.bufLoad sp) (reads run)) ∧
        (w = 32 → good lane → sends (.vldx gd k x v a r) 320 (.bufLoad sp) (reads lane)) ∧
        (x.space ≠ .wbuf → (zb = true → x.space = .abuf) →
          (good run → sends (.vst gd zb x a b q) 320 (.bufStore sp zb) (puts run)) ∧
          (w = 32 → good lane → sends (.vstx gd zb k x a r q) 320 (.bufStore sp zb) (puts lane)))) ∧
      (plain → (good run → loads (.vld gd x v a b) run) ∧
        (w = 32 → good lane → loads (.vldx gd k x v a r) lane) ∧
        (x.space ≠ .wbuf → (zb = true → x.space = .abuf) →
          (good run → stores (.vst gd zb x a b q) run) ∧ (w = 32 → good lane → stores (.vstx gd zb k x a r q) lane)))) ∧
    (s.Lanes gd → va % 8 = 0 → va < 2 ^ 63 → va + 8 ≤ X.size 5 →
      let idx := ((List.range 64).filter fun j => ((X.buf 5).read va 8).testBit j).map (8 * va + ·)
      ∃ w : VWord, s.does (.nzscan gd v a b c) 96 3 (fun t => (t.setG c (BitVec.ofNat 64 idx.length)).setV v w) ∧
        ∀ e, e < 64 → velem 32 w e = if (s.me.lanes gd).getLsbD e then idx.getD e 0 % 2 ^ 32 else velem 32 (s.me.rv v) e)) ∧
  -- the bitmap after a store of n bytes at o under `.zb`, of an A buffer that holds a then
  ∀ (m z : Mem) (o n h : Nat), z.wf = true → 0 < n →
    ((zmapBits m z o n).get (h / 8)).getLsbD (h % 8) =
      if 2 * h < o + n ∧ o < 2 * h + 2 then decide (m.read (2 * h) 2 ≠ 0) else (z.get (h / 8)).getLsbD (h % 8)

/-- R195, R196, R197. One step of `VCOPYB` moves min(count, 64 − dst mod 64) bytes, advances both addresses, lowers the count, and
stays at its PC until the count is 0. The model's choices in it: notes/assumptions/21, and 84: that the check of the
registers stands before the guard, at 4 eu, is the model's choice. -/
def Obligations.VcopybMovesBytes : Prop :=
  ∀ (s : State) (gd : Guard) (dest frm : Fin 4) (d a c : GReg) (loc : Nat) (e : Entry), s.Clear → s.me.guardOn gd = true →
    s.PortIdle → s.me.light = false → d ≠ 0 → a ≠ 0 → c ≠ 0 → d ≠ a → d ≠ c → a ≠ c → dest ≠ 1 → s.mem.wf = true →
    let i : Instr := .vcopyb gd dest frm d a c
    let X := s.myCtx
    let dst := (s.me.rg d).toNat
    let src := (s.me.rg a).toNat
    let n := min (s.me.rg c).toNat (64 - dst % 64)
    let left := s.me.rg c - BitVec.ofNat 64 n
    let moved (t : Thread) : Thread :=
      let t := ((t.setG d (s.me.rg d + BitVec.ofNat 64 n)).setG a (s.me.rg a + BitVec.ofNat 64 n)).setG c left
      if left = 0 then t else t.atPc s.me.pc
    let page (acc : AccK) (va : Nat) : Prop :=
      (s.trans s.cur (va % 2 ^ 48) = .leaf e ∧ permitted (s.partOf (dieOf s.cur.1) (s.core s.cur.1).cid).keys acc (!s.me.mode) e = true ∧
        Entry.pairOk e = true ∧ Entry.tier e = 0 ∧ Entry.homeCore e (va % 2 ^ 48) = s.cur.1 ∧ Entry.loc e (va % 2 ^ 48) = loc)
    let fits (sp : Fin 4) (va : Nat) : Prop := va < 2 ^ 63 ∧ va + n ≤ X.size sp.val
    (s.me.rg c = 0 → s.does i 640 0 id) ∧
    (s.me.rg c ≠ 0 → dest ≠ 0 → frm ≠ 0 → fits frm src → fits dest dst →
      s.doesIn (s.bufWrite s.cur.1 (s.core s.cur.1).cid dest.val dst (leBytes n ((X.buf frm.val).read src n))) i 640 6 moved) ∧
    (s.me.rg c ≠ 0 → dest = 0 → frm ≠ 0 → fits frm src → page .store dst → ∃ old : List OldWord,
      s.doesIn (State.usePort { s with mem := s.mem.writeBytes loc (leBytes n ((X.buf frm.val).read src n)), oldWords := old } 1)
        i 640 7 moved) ∧
    (s.me.rg c ≠ 0 → dest ≠ 0 → frm = 0 → src % 64 + n ≤ 64 → page .load src → fits dest dst →
      s.doesIn ((s.usePort 1).bufWrite s.cur.1 (s.core s.cur.1).cid dest.val dst (leBytes n (s.mem.read loc n))) i 640 7 moved) ∧
    (s.me.rg c ≠ 0 → dest ≠ 0 → frm ≠ 0 → src ≥ X.size frm.val → s.traps i 640 .bufferPermission (BitVec.ofNat 64 src)) ∧
    ∀ f g : GReg, vcopyBad f g c ≠ none → ∃ w, s.traps (.vcopyb gd dest frm f g c) 4 .illegalOperand w

/-- R167, R169 to R178. Streams: `SCFG` binds one to the descriptor it reads, `SSTART` arms it at element 0, `SSTOP` frees the
register, `SSTAT` reads it; an instruction on streams traps where one may not stand or where two disagree, waits for elements that
have not arrived, does nothing at the end, and traps on a fault; the unit reads a beat of elements at their addresses, and writes
one element, in global memory and in the buffers. The model's choices in it: notes/assumptions/2, 14, 27, 96. -/
def Obligations.Streams : Prop :=
  (∀ (s : State) (gd : Guard) (out : Bool) (ety : ETy) (space ndim : Fin 4) (r : Fin 8) (d a : GReg) (b : OpB) (what : StatV) (loc : Nat),
    s.Clear → s.me.guardOn gd = true → s.me.light = false →
    let t := s.me
    let x : Stream := ⟨.configured, out, ety, space, ndim.val + 1, BitVec.ofNat 256 (s.mem.read loc 32), 0, [], false, false, [], [], none⟩
    let unused := (List.range 4).filter (ndim.val + 1 ≤ ·)
    let va := (t.rg a + OpB.sx t b).toNat
    (s.PortIdle → t.stream (vhi r) = none → t.boundStreams < 4 → (out = true → space ≠ 1) → va % 32 = 0 →
      (∀ i, i < 4 → s.reach .load .int64 8 ((va + 8 * i) % 2 ^ 64) (loc + 8 * i)) → x.desc.extractLsb' 48 16 = 0 →
      (∀ i ∈ unused, x.count i = 0 ∧ x.stride i = 0) → x.base % (ety.bits / 8) = 0 →
      (∀ i, i ≤ ndim.val → x.stride i % ((ety.bits / 8 : Nat) : Int) = 0) →
      s.doesIn (s.usePort 1) (.scfg gd out ety space ndim (vhi r) a b) 24 4 (·.setStream (vhi r) (some x))) ∧
    (t.stream (vhi r) = none → s.does (.sstop gd r) 4 0 id ∧ s.does (.sstat gd what d r) 4 0 (·.setG d 0)) ∧
    ∀ y, t.stream (vhi r) = some y → y.st ≠ .faulted →
      ((y.out = true → y.undrained = false) → ∃ u busy, exec (.sstart gd r) s = .next u ∧ u.mem = s.mem ∧ u.me.pc = pcNext t.pc ∧
        u.me.g = t.g ∧ u.me.v = t.v ∧
        u.me.stream (vhi r) = some
          { y with st := .armed, pos := 0, held := [], busy := busy, told := false, turns := [], got := [], pick := none }) ∧
      ((y.out = true → y.undrained = false) →
        s.does (.sstop gd r) 4 0 fun t => (t.setStream (vhi r) none).setV (vhi r) 0) ∧
      (y.out = true → y.undrained = true → s.blocks (.sstop gd r) 4 0 (.retry (2 ^ (64 + r.val)))) ∧
      s.does (.sstat gd .rem d r) 4 0 (·.setG d (BitVec.ofNat 64 (y.total - y.pos))) ∧
      s.does (.sstat gd .pos d r) 4 0 (·.setG d (BitVec.ofNat 64 y.pos)) ∧
      ∃ w : Word, s.does (.sstat gd .st d r) 4 0 (·.setG d w) ∧
        w.toNat % 32 = (if y.st = .configured then 1 else 2) ∧ (1 ≤ y.ndim → y.ndim ≤ 4 → w.toNat / 2 ^ 5 % 4 = y.ndim - 1 ∧
          w.toNat / 2 ^ 7 % 8 = y.space.val ∧ w.toNat / 2 ^ 10 % 32 = y.ety.code ∧ w.toNat / 2 ^ 15 % 2 = y.out.toNat)) ∧
  -- an addition whose A, and B, are streams, D none
  (∀ (s : State) (gd : Guard) (x : FpX) (d : VReg) (ra rb : Fin 8) (a : Stream), s.Clear → s.me.light = false → s.me.lanes gd ≠ 0 →
    s.me.stream (vhi ra) = some a → s.me.stream d = none →
    let i (b : OpV) : Instr := .vadd gd x d (vhi ra) b
    let eu := if x.ty.isInt then 96 else 128
    let n (y : Stream) : Nat := min (2048 / x.ty.bits) (y.total - y.pos)
    let good (y : Stream) : Prop := y.st = .armed ∧ y.out = false ∧ y.ety = x.ty
    let told : State := s.setStream s.cur (vhi ra) (some { a with told := true })
    (a.st ≠ .faulted → ¬good a → ∀ b, s.traps (i b) eu .illegalOperand (BitVec.ofNat 64 (0x100 + (32 + (vhi ra).val)))) ∧
    (∀ e es, a.st = .faulted → a.held = e :: es → a.told = false → ∀ f, e.fault = some f → ∀ b,
      exec (i b) s = .next (told.trapStep s.cur eu .streamFault (BitVec.ofNat 64 (f.1 * 2 ^ 48 + f.2)))) ∧
    (∀ b, good a → s.me.stream (vhi rb) = some b → good b → n a ≠ n b →
      s.traps (i (.v (vhi rb))) eu .streamMismatch (BitVec.ofNat 64 ((32 + (vhi ra).val) * 256 + (32 + (vhi rb).val)))) ∧
    (good a → ∀ g : GReg,
      (n a = 0 → s.does (i (.g g)) eu 0 id) ∧
      (n a ≠ 0 → a.held.length < n a → (∀ e ∈ a.held, e.fault = none) →
        s.blocks (i (.g g)) eu 0 (.beats [(ra, false, n a)])) ∧
      ∀ pre e post f, a.held = pre ++ e :: post → (∀ e ∈ pre, e.fault = none) → e.fault = some f → pre.length < n a →
        a.told = false → exec (i (.g g)) s = .next (told.trapStep s.cur eu .streamFault (BitVec.ofNat 64 (f.1 * 2 ^ 48 + f.2))))) ∧
  ∀ (s : State) (k : Key) (r : Fin 8) (x : Stream), k.2 < 16 → (s.thr k).stream (vhi r) = some x → x.st = .armed →
    (∀ d, (s.die d).off = false) → s.badLines = [] → x.turns = [] →
    let cid := (s.core k.1).cid
    let X := (s.core k.1).ctx cid
    let n := x.ety.bits / 8
    let beat := 2048 / x.ety.bits
    let q0 := x.pos + x.held.length
    let m := min beat (x.total - q0)
    let c (i : Nat) : Nat := Nat.max (x.count i) 1
    let sum (q : Nat) : Int := x.base + ((List.range x.ndim).map fun i =>
      ((q / ((List.range i).map c).prod % c i : Nat) : Int) * x.stride i).sum
    let inside (q : Nat) : Prop := 0 ≤ x.addr q ∧ x.addr q + n ≤ X.size x.space.val
    let page (acc : AccK) (q loc : Nat) : Prop := ∃ e, s.transEng k.1 cid (x.addr q).toNat = .leaf e ∧
      permitted (s.partOf (dieOf k.1) cid).keys acc (!(s.thr k).mode) e = true ∧ pageMeets e x.ety (acc = .store) = .raw ∧
      Entry.tier e ≤ 1 ∧ Entry.loc e (x.addr q).toNat = loc
    let reads := exec (.streamPrefetch k.1 k.2 r) s
    let wants := x.out = false ∧ q0 < x.total ∧ x.held.length ≤ 3 * beat ∧ ∀ e ∈ x.held, e.fault = none
    let gets (l : List SEl) : Prop := ∃ u busy, reads = .next u ∧ u.mem = s.mem ∧ (u.thr k).v = (s.thr k).v ∧
      (u.thr k).stream (vhi r) = some { x with busy := busy, got := [], held := x.held ++ l }
    -- the homes' ports have been asked for an access, and the unit waits for their turns
    let asks (u : State) (y : Stream) (op : MemOp) : Prop := u.mem = s.mem ∧ ∃ id ids, (u.thr k).stream (vhi r) = some
      { y with busy := true, turns := id :: ids } ∧ ∃ t, tget u.turns id = some t ∧ t.op = op ∧ t.owner = .stream k.1 k.2 r
    let vals (l : Nat) (f : Nat → Nat) : List SEl := (List.range l).map fun j => ⟨q0 + j, BitVec.ofNat 32 (f j), true, none⟩
    let buf (j : Nat) : Nat := (X.buf x.space.val).read (x.addr (q0 + j)).toNat n
    (∀ q, x.addr q = if x.space = 0 then sum q % 2 ^ 48 else sum q) ∧
    (wants → x.space ≠ 0 → (∀ j, j < m → inside (q0 + j)) → gets (vals m buf)) ∧
    (wants → x.space ≠ 0 → ∀ l, l < m → (∀ j, j < l → inside (q0 + j)) → ¬inside (q0 + l) →
      gets (vals l buf ++ [⟨q0 + l, 0, true, some (0x13, (x.addr (q0 + l) % 2 ^ 48).toNat)⟩])) ∧
    (∀ loc : Nat → Nat, wants → x.space = 0 → (∀ j, j < m → page .load (q0 + j) (loc j)) →
      (x.got = [] → ∃ u, reads = .next u ∧ asks u x .load) ∧
      ((∀ j, j < m → ∃ g ∈ x.got, g.loc ≤ loc j ∧ loc j + n ≤ g.loc + g.n) → (∀ g ∈ x.got, g.bad = none) →
        gets (vals m fun j => (s.seeing x.got).mem.read (loc j) n))) ∧
    ∀ e : SEl, x.out = true → x.held = [e] → e.act = true → (x.pick = none ∨ x.pick = some e.q) →
      (x.pick = some e.q → e.fault = none → ∃ u, exec (.streamElementWrite k.1 k.2 r) s = .next u ∧ u.mem = s.mem ∧
        (u.thr k).stream (vhi r) = some { x with busy := false, pick := none, held := [] }) ∧
      (x.pick = none →
      let writes := exec (.streamElementWrite k.1 k.2 r) s
      (x.space ≠ 0 → x.space ≠ 1 → inside e.q → ∃ u, writes = .next u ∧ u.mem = s.mem ∧
        (u.thr k).stream (vhi r) = some { x with busy := false, pick := none, held := [] } ∧
        ((u.core k.1).ctx cid).buf x.space.val = (X.buf x.space.val).writeBytes (x.addr e.q).toNat (leBytes n e.val.toNat)) ∧
      (x.space ≠ 0 → x.space ≠ 1 → ¬inside e.q → ∃ u, writes = .next u ∧ u.mem = s.mem ∧
        (u.thr k).stream (vhi r) = some { x with
          st := .faulted, busy := false, told := false, pick := none
          held := [{ e with fault := some (0x13, (x.addr e.q % 2 ^ 48).toNat) }] }) ∧
      ∀ loc, x.space = 0 → page .store e.q loc → ∃ u, writes = .next u ∧ asks u { x with pick := some e.q } .store)

/-- R216, R218, R221, R224 to R226, R228, R229, R239 to R241. `FENCE`; `STQ` checks a card, posts its tag and enqueues it, or waits for
room; the tag instructions; a queued card enters the footprint window with an edge from every card it depends on.
The model's choices in it: notes/assumptions/24, 25, 28, 75, 103, 106. -/
def Obligations.CardsQueuesAndTags : Prop :=
  (∀ (s : State) (gd : Guard) (obs : BitVec 5) (d a : GReg) (b : OpB) (c : VReg), s.Clear → s.me.guardOn gd = true →
    let core := s.cur.1
    let tag (n : Nat) : Tag := (s.core core).tagAt n
    let m := s.me.rg a
    let hit := (s.core core).tagsMask &&& m
    let x := OpB.zx s.me b
    let va := (s.me.rg a + OpB.sx s.me b).toNat
    let q := va / 64
    let card : Card := (s.me.rv c).extractLsb' 0 512
    let full := (s.queue core q).cards.length ≥ 32
    let good := va % 64 = 0 ∧ va < 256 ∧ s.early = false ∧ checkCard card q = none ∧ Card.rnd card ≠ 7 ∧ s.me.drained = true
    let fence := (obs ≠ 0 → s.me.drained = true) ∧ (obs.getLsbD 3 = true → s.me.postD = []) ∧ (obs.getLsbD 4 = true → s.me.postH = [])
    (fence → s.does (.fence gd obs) 4 0 id) ∧
    (¬fence → ∃ code, s.blocks (.fence gd obs) 4 0 (.retry code)) ∧
    (s.Lanes gd →
      (good → ¬full → ∃ (id : Nat) (u : State), exec (.stq gd a b c) s = .next (u.retired 320 0 0 fun t => t) ∧ u.mem = s.mem ∧
        u.queue core q = (s.queue core q).push ⟨id, core, (s.core core).cid, card, false, s.now⟩ ∧
        (u.core core).tagAt (Card.tag card) = (if (tag (Card.tag card)).count = 0 then ⟨1, false, false, 0⟩ else
          { tag (Card.tag card) with count := (tag (Card.tag card)).count + 1 }) ∧
        ∀ n, n ≠ Card.tag card → (u.core core).tagAt n = tag n) ∧
      (good → full → s.blocks (.stq gd a b c) 320 0 (.stq q card)) ∧
      (va % 64 ≠ 0 → s.traps (.stq gd a b c) 320 .misaligned (BitVec.ofNat 64 va)) ∧
      (va % 64 = 0 → va ≥ 256 → s.traps (.stq gd a b c) 320 .cardRejected 1) ∧
      ∀ off reason, va % 64 = 0 → va < 256 → s.early = false → checkCard card q = some (off, reason) →
        s.traps (.stq gd a b c) 320 .cardRejected (BitVec.ofNat 64 (off * 256 + reason))) ∧
    (m = 0 → s.does (.twany gd d a b) 4 0 (·.setG d 2) ∧ s.does (.twall gd d a b) 4 0 (·.setG d 1)) ∧
    (hit ≠ 0 → s.does (.twany gd d a b) 4 0 (·.setG d 1)) ∧ (hit = m → s.does (.twall gd d a b) 4 0 (·.setG d 1)) ∧
    (m ≠ 0 → s.me.intPending = false →
      (hit = 0 → s.blocks (.twany gd d a b) 4 x.toNat (.twany d m)) ∧
      (hit ≠ m → s.blocks (.twall gd d a b) 4 x.toNat (.twall d m))) ∧
    (∀ n, n < 64 → hit.getLsbD n = true → (∀ j, j < n → hit.getLsbD j = false) →
      s.does (.tffr gd d a) 4 0 (·.setG d (BitVec.ofNat 64 n))) ∧
    (hit = 0 → s.does (.tffr gd d a) 4 0 (·.setG d 64)) ∧
    (∃ (u : State) (w : Word), s.doesIn u (.tclr gd d b) 4 0 (·.setG d w) ∧ u.mem = s.mem ∧
      ∀ n, n < 64 → w.getLsbD n = (x.getLsbD n && (tag n).count != 0) ∧
        (u.core core).tagAt n = if x.getLsbD n = true ∧ (tag n).count = 0 then ⟨0, false, false, 0⟩ else tag n) ∧
    (x.toNat < 64 → s.does (.tstatus gd d b) 4 0 (·.setG d (tag x.toNat).status)) ∧
    (x.toNat ≥ 64 → s.traps (.tstatus gd d b) 4 .illegalOperand (BitVec.ofNat 64 (0x200 + OpB.spec b))) ∧
    (x.toNat < 4 → ∀ p : BitVec 6, let u := s.queue core x.toNat
      p = u.prod - BitVec.ofNat 6 (u.cards.filter fun q => q.at' = s.now).length →
      s.does (.qstat gd d b) 4 0 (·.setG d (BitVec.ofNat 64 (
        (p - u.cons).toNat * 2 ^ 16 + u.cons.toNat * 2 ^ 8 + p.toNat)))) ∧
    (x.toNat ≥ 4 → s.traps (.qstat gd d b) 4 .illegalOperand (BitVec.ofNat 64 (0x200 + OpB.spec b)))) ∧
  ∀ (s : State) (cl : Nat) (x : QCard), (∀ n, n < 16 → (s.core (coreIn cl n)).cq.cards = [] ∧ (s.core (coreIn cl n)).mq.cards = []) →
    (s.cluster cl).eq.cards = [x] → x.released = false → (∀ w ∈ (s.cluster cl).win, w.card.id ≠ x.id) →
    (s.cluster cl).win.length < 32 →
    let e : WinEnt := ⟨x, 2, (footprint x).1, (footprint x).2, [], s.now + 1⟩
    ∃ u, exec (.cardAdmission cl) s = .next u ∧ u.mem = s.mem ∧ (u.cluster cl).win =
      (s.cluster cl).win ++ [{ e with deps := ((s.cluster cl).win.filter (depends e)).map (·.card.id) }]

/-- R276, R278, R279, R280, R281. Atomics on the own slice: the old value goes to D, the new one to memory, in 6 cycles; a compare
that fails writes nothing, and so does an enabled flag, which traps. A `RED` is sent to its home, and the
thread goes on.
The model's choices in it: notes/assumptions/2, 10. -/
def Obligations.Atomics : Prop :=
  ∀ (s : State) (gd : Guard) (u : Bool) (op : RedOp) (x : MemX) (d a c : GReg) (b : OpB) (loc : Nat), s.Clear →
    s.me.guardOn gd = true → s.PortIdle → s.mem.wf = true →
    let w := x.ety.bits
    let n := w / 8
    let va := (s.me.rg a + OpB.sx s.me b).toNat
    let old := s.mem.read loc n
    let v := (s.me.rg c).toNat % 2 ^ w
    let D : Word := if x.ety = .int32 then (BitVec.ofNat 32 old).signExtend 64 else BitVec.ofNat 64 (old % 2 ^ w)
    let wrote (k m : Nat) (old : List OldWord) : State := (State.usePort { s with
      mem := s.mem.writeBytes loc (leBytes k m), oldWords := old } 1).updCore s.cur.1 fun c =>
      { c with amoW := [(loc, k, s.now + 6)] }
    let stores (i : Instr) (m : Nat) : Prop := ∃ old, s.doesIn (wrote n m old) i 48 6 (·.setG d D)
    let least (t : Bool) (m : Nat) : Prop := if t then stores (.amomin gd u x d a b c) m else stores (.amomax gd u x d a b c) m
    let so := Num.sgn w old
    let sv := Num.sgn w v
    let fp (i : Instr) (r : Num.Res) : Prop :=
      (r.f &&& s.me.fmode.extractLsb' 5 5 = 0 →
        ∃ old, s.doesIn (wrote n r.r old) i 48 6 fun t => { t.setG d D with fflags := t.fflags ||| r.f }) ∧
      (r.f &&& s.me.fmode.extractLsb' 5 5 ≠ 0 → s.traps i 48 .fpException (r.f.zeroExtend 64))
    (va % n ≠ 0 → x.ety.isAI = true → s.traps (.amoadd gd x d a b c) 48 .misaligned (BitVec.ofNat 64 va) ∧
      s.traps (.cas gd x d a b c) 48 .misaligned (BitVec.ofNat 64 va)) ∧
    (s.reach .atomic x.ety n va loc → x.ety.isAI = true →
      stores (.amoadd gd x d a b c) ((old + v) % 2 ^ w) ∧ stores (.amoand gd x d a b c) (old &&& v) ∧
      stores (.amoor gd x d a b c) (old ||| v) ∧ stores (.amoxor gd x d a b c) (old ^^^ v) ∧
      stores (.amoswap gd x d a b c) v ∧
      (u = true → least true (min old v) ∧ least false (max old v)) ∧
      (u = false → least true (if so ≤ sv then old else v) ∧ least false (if sv ≤ so then old else v)) ∧
      (old = (s.me.rg d).toNat % 2 ^ w → stores (.cas gd x d a b c) v) ∧
      (old ≠ (s.me.rg d).toNat % 2 ^ w → s.doesIn (s.usePort 1) (.cas gd x d a b c) 48 6 (·.setG d D))) ∧
    (s.reach .atomic x.ety n va loc → x.ety.isF3264 = true →
      fp (.amofadd gd x d a b c) (Num.fadd x.ety Num.Env.plain old v) ∧
      fp (.amofmin gd x d a b c) (Num.fminmax x.ety Num.Env.plain false old v) ∧
      fp (.amofmax gd x d a b c) (Num.fminmax x.ety Num.Env.plain true old v)) ∧
    (s.reach .atomic .int64 16 va loc → x.ety = .int64 →
      let was := s.mem.read loc 16
      let pair (r : GReg) : Nat := (s.me.rg r).toNat + 2 ^ 64 * (s.me.rg (nextG r)).toNat
      let got (t : Thread) : Thread := (t.setG d (BitVec.ofNat 64 was)).setG (nextG d) (BitVec.ofNat 64 (was / 2 ^ 64))
      (was = pair d → ∃ old, s.doesIn (wrote 16 (pair c) old) (.cas2 gd x d a b c) 48 6 got) ∧
      (was ≠ pair d → s.doesIn (s.usePort 1) (.cas2 gd x d a b c) 48 6 got)) ∧
    (s.reach .atomic x.ety n va loc → redOk op u x.ety = true → ∃ t id, exec (.red gd op u x.ety a b c) s = .next t ∧
      let y := msgTime s.cur.1 s.cur.1 (flits n)
      t.mem = s.mem ∧ t.me.g = s.me.g ∧ t.me.pc = pcNext s.me.pc ∧ t.me.rlx = [⟨s.serial, .red, ⟨1, [], none, 0⟩⟩] ∧
      (t.core s.cur.1).homeQ = [((s.now + y) * 8, id)] ∧
      t.agenda = agendaAdd s.agenda (s.now + y) (.homeAccess s.cur.1) ∧
      t.reqs = tput s.reqs id ⟨s.cur.1, s.cur.2, s.serial, (s.core s.cur.1).cid, s.cur.1, 0,
        .red (redOp op u) x.ety v, [⟨0, va, loc, n, 0⟩], [], none, 0, false, false, false⟩)

/-- R17, R18, R19, R90, R214, R276, R281, R314, R317, R205. A home serves the request that has arrived: it holds the port, takes
effect, and answers; a request that follows an atomic on its bytes is performed after it; the answer ends the thread's wait, or that of
a relaxed access or a `RED`, which is performed at its home, or, put off there, once it is ripe. An engine's access takes its turn at
the port and effect there. A posted store is accepted, performed and acknowledged. A walk's leaf is held by the TLBs.
The model's choices in it: notes/assumptions/2, 10, 31, 36, 40, 82, 92, 96. -/
def Obligations.HomesServeRequests : Prop :=
  (∀ (s : State) (id h in' at' : Nat) (t : Turn) (e : Elem),
    tget s.reqs id = none → tget s.turns id = some t → s.badLines = [] → t.els = [e] → e.dram = false → e.host = false → e.n ≠ 0 →
    (s.core h).homeQ = [(at' * 8 + in', id)] → at' ≤ s.now → in' < 6 → s.homeUp h = true → (s.core h).portFree ≤ s.now →
    (s.core h).amoW = [] → (s.core h).mons = [] → t.home = h → (t.op = .load ∨ t.op = .store) →
    let got : List Got := if t.op = .load then [⟨e.loc, e.n, s.mem.read e.loc e.n, none⟩] else []
    let lat := 4 + (e.n - 1) / 128 + msgTime h t.core (if t.op = .load then flits e.n else 1)
    ∃ u, exec (.homeAccess h) s = .next u ∧ tget u.turns id = none ∧ (u.core h).homeQ = [] ∧ (u.core h).lastIn = in' ∧
      (u.core h).portFree = s.now + (e.n + 127) / 128 ∧
      u.mem = (if t.op = .load ∨ t.owner = .none then s.mem else s.mem.writeBytes e.loc (leBytes e.n e.data)) ∧
      (∀ core slot d x, slot < 16 → t.owner = .stream core slot d → (s.thr (core, slot)).stream (vhi d) = some x → x.turns = [id] →
        (u.thr (core, slot)).stream (vhi d) = some { x with turns := [], got := x.got ++ got } ∧
        (s.now + lat, if x.out then .streamElementWrite core slot d else .streamPrefetch core slot d) ∈ u.agenda) ∧
      ∀ core j, t.owner = .copy core → (s.core core).copy.job = some j → j.turns = [id] →
        (u.core core).copy.job = some { j with turns := [], got := j.got ++ got } ∧ s.now + lat ≤ (u.core core).copy.due ∧
        ((u.core core).copy.due, .copyChunk core) ∈ u.agenda) ∧
  ∀ (s : State) (id h in' at' : Nat) (r : Req) (e : Elem), tget s.reqs id = some r → s.badLines = [] → r.els = [e] →
    e.dram = false → e.host = false → r.done = false → r.ripe = false →
    let k : Key := (r.core, r.slot)
    let l := (s.core h).afterAmo s.now [e] (4 + (e.n - 1) / 128)
    let held := (e.n + 127) / 128
    let port (c : Nat) : State := s.updCore h fun x => { x with homeQ := [], lastIn := in', portFree := s.now + c }
    let queued := (s.core h).homeQ = [(at' * 8 + in', id)] ∧ at' ≤ s.now ∧ in' < 6 ∧ s.homeUp h = true ∧ k.2 < 16
    let pending := r.vals = [] ∧ r.fault = none
    let open' := r.accepted = false ∧ (s.core r.core).cid = r.cid ∧ r.flags = 0
    let gone : State := { s with reqs := tdel s.reqs id }
    let v := s.mem.read e.loc e.n
    4 + (e.n - 1) / 128 ≤ l ∧
    (∀ w ∈ (s.core h).amoW, e.loc < w.1 + w.2.1 → w.1 < e.loc + e.n → w.2.2 < s.now + l) ∧
    (queued → (s.core h).portFree > s.now →
      exec (.homeAccess h) s = .next (s.post ((s.core h).portFree - s.now) (.homeAccess h))) ∧
    (queued → (s.core h).portFree ≤ s.now → r.tier = 0 → (s.thr k).rlx = [] → (s.core h).mons = [] → r.home = h → e.n ≠ 0 →
      (r.op = .load → pending → exec (.homeAccess h) s =
        .next ((State.post { port held with reqs := tput s.reqs id { r with vals := [(e.idx, v)], done := true } }
          (l + msgTime h r.core (flits e.n)) (.memoryReply id)).restHome h)) ∧
      (r.op = .store → ∃ old, exec (.homeAccess h) s =
        .next ((State.post { port held with
            reqs := tput s.reqs id { r with done := true }, mem := s.mem.writeBytes e.loc (leBytes e.n e.data), oldWords := old }
          (l + msgTime h r.core 1) (.memoryReply id)).restHome h)) ∧
      ∀ op ety c, r.op = .red op ety c → exec (.homeAccess h) s = .next (((port 1).post 0 (.atomicRequest id)).restHome h)) ∧
    (∀ op ety c, r.op = .red op ety c → pending → op ≠ .cas → r.tier = 0 → (s.core r.home).mons = [] →
      (s.thr k).rlx = [⟨r.serial, .red, ⟨1, [], none, 0⟩⟩] →
      let new := amoNew op ety e.n v c 0
      let r' : Req := { r with vals := [(e.idx, v)], flags := r.flags ||| new.2.1, done := true }
      let at' := 6 + msgTime r.home r.core 1
      exec (.atomicRequest id) s = .next (State.post { s with reqs := tput s.reqs id r, free := s.free + 1 } at'
        (.redAcknowledgement id)) ∨
      ∃ (old : List OldWord) (amos : List (Nat × Nat × Nat)), (e.loc, e.n, s.now + 6) ∈ amos ∧
        let done : State := { s with mem := s.mem.writeBytes e.loc (leBytes e.n new.1), oldWords := old,
                                     free := s.free + 1 }.updCore r.home fun c => { c with amoW := amos }
        exec (.atomicRequest id) s = .next (State.post { done with reqs := tput s.reqs id r' } at' (.redAcknowledgement id))) ∧
    (∀ sx ety d t0 eu n due, s.Waits k (.mem (.ld sx ety [d] []) ⟨1, [], none, 0⟩) t0 eu n due → r.serial = n → r.tier = 0 →
      (s.thr k).rlx = [] → open' → ety.isMem = true → ∀ y, y < 2 ^ ety.bits → r.vals = [(0, y)] → r.fault = none →
      exec (.memoryReply id) s = .next (gone.overL k (s.endL k t0) eu (·.setG d (Spec.loaded sx (ety.bits / 8) y)))) ∧
    (∀ t0 eu n due code x, s.Waits k (.mem .store ⟨1, [], none, 0⟩) t0 eu n due → r.serial = n → r.tier = 0 → (s.thr k).rlx = [] →
      open' → r.vals = [] → r.fault = some (code, x) →
      exec (.memoryReply id) s = .next (gone.trapStep k eu (causeOf code) (BitVec.ofNat 64 x))) ∧
    (∀ ripe done kind, (s.thr k).rlx = [⟨r.serial, kind, ⟨1, [], none, 0⟩⟩] → k.2 < 16 → open' → (s.thr k).pend = none →
      r.fault = none → r.tier ≤ 1 →
      let set : State := { s with reqs := tput s.reqs id { r with ripe := ripe, done := done } }
      let gone' : State := { gone with reqs := tdel set.reqs id }
      (kind = .red → r.vals = [] → done = true →
        exec (.redAcknowledgement id) set = .next (gone'.updThr k fun t => { t with rlx := [] })) ∧
      (∀ sp zb, r.op = .bufStore sp zb → kind = .store → r.tier = 0 → r.vals = [] → done = false → ripe = true →
        let put := set.bufWrite r.core r.cid sp e.loc (leBytes e.n e.data)
        let put := if zb then put.bufZb r.core r.cid e.loc e.n else put
        exec (.relaxedAccessPerformed id) set =
          .next ({ put with reqs := tdel set.reqs id }.updThr k fun t => { t with rlx := [] })) ∧
      (done = false → ripe = false → r.op.isBuf = false → exec (.relaxedAccessPerformed id) set =
        .next (({ set with reqs := tput set.reqs id { r with ripe := true } }).postFree 1 (set.answerEv r id))) ∧
      ∀ sx ety d y, kind = .ld sx ety [d] [] → y < 2 ^ ety.bits → ety.isMem = true → r.tier = 0 →
        (done = true ∧ r.vals = [(0, y)] ∨
          done = false ∧ ripe = true ∧ r.op = .load ∧ r.vals = [] ∧ e.idx = 0 ∧ y = s.mem.read e.loc e.n ∨
          ∃ sp, done = false ∧ ripe = true ∧ r.op = .bufLoad sp ∧ r.vals = [] ∧ e.idx = 0 ∧
            y = (((s.core r.core).ctx r.cid).buf sp).read e.loc e.n) →
        exec (.relaxedAccessPerformed id) set =
          .next (gone'.updThr k fun t => { t with rlx := [] }.setG d (Spec.loaded sx (ety.bits / 8) y))) ∧
    (∀ t0 eu n due, s.Waits k (.mem .store ⟨1, [], none, 0⟩) t0 eu n due → r.serial = n → r.op = .store → r.tier = 2 → pending →
      open' → (s.thr k).rlx = [] → ∃ t, exec (.postedStoreAccepted id) s = .next t ∧
        t.mem = s.mem ∧ (t.thr k).postD = (s.thr k).postD ++ [id] ∧ (t.thr k).pend = none ∧ (t.thr k).pc = pcNext (s.thr k).pc ∧
        tget t.reqs id = some { r with accepted := true }) ∧
    (s.reqs = [(id, r)] → r.accepted = true → r.op = .store → r.tier = 2 → (s.core r.home).mons = [] →
      k.2 < 16 → (s.thr k).pend = none → ∃ t, exec (.postedStoreAck id) s = .next t ∧ t.reqs = [] ∧
        t.mem = s.mem.writeBytes e.loc (leBytes e.n e.data) ∧ (t.thr k).postD = (s.thr k).postD.filter (· != id)) ∧
    ∀ (wk : Walk) (leaf : Entry), (s.die (dieOf r.core)).walks = [wk] → wk.core = r.core → wk.slot < 16 →
      s.walkMem (dieOf r.core) wk.cid wk.va = .leaf leaf → (s.core wk.core).run = some wk.cid →
      (∃ p, (s.thr (wk.core, wk.slot)).pend = some p ∧ p.kind = .walk) →
      ∃ t, exec (.translationWalk (dieOf r.core) wk.id) s = .next t ∧ t.mem = s.mem ∧ (t.die (dieOf r.core)).walks = [] ∧
        (t.core wk.core).tlb.head? = some ⟨wk.cid, wk.va / 2 ^ 16 % 2 ^ 32, leaf⟩ ∧ (t.thr (wk.core, wk.slot)).pend = none ∧
        (t.thr (wk.core, wk.slot)).pc = (s.thr (wk.core, wk.slot)).pc ∧
        (t.thr (wk.core, wk.slot)).next = alignUp (s.cyc (dieOf wk.core) + 1) wk.slot

/-- R143, R147, R149 to R152. The clause instructions: `BIND` installs a clause and evaluates it, holds it DIRTY, or leaves it STALE
with CLAUSE_FAULT; a taken destination and a cycle trap; `UNBIND`, `CLHOLD` and `CLREL` trigger nothing; `CLST` reads a slot. -/
def Obligations.ClauseInstructions : Prop :=
  ∀ (s : State) (gd : Guard) (x : BindX) (d a c e : GReg) (b : OpB) (n : Fin 8), s.Ready → s.me.guardOn gd = true →
    let i : Instr := .bind gd x d a b c
    let cl : Clause := ⟨d, a, b, c, x.form, x.op1, x.op2, false, false⟩
    let t := s.me
    let alone := ∀ j, t.clause j = none
    let acts := t.hold = false ∧ t.mode = false
    (alone → d ∈ cl.srcs → s.traps i 4 .clauseCycle (BitVec.ofNat 64 (x.slot.val * 256 + d.val))) ∧
    (∀ j cj, j < 8 → j ≠ x.slot.val → t.clause j = some cj → cj.dst = d → s.traps i 4 .illegalOperand (BitVec.ofNat 64 d.val)) ∧
    (alone → d ∉ cl.srcs → d ≠ 0 →
      (acts → ∀ v f, cl.value t = .ok v f →
        exec i s = .next (s.retired 10 0 (s.forfeits cl.cost) fun t =>
          { (t.setG d v).setClause x.slot.val (some cl) with fflags := t.fflags ||| f })) ∧
      (acts → s.myCtx.tvec ≠ 0 → ∀ cause f, cl.value t = .fault cause f → ∃ u, exec i s = .next u ∧
        u.me.clause x.slot.val = some { cl with stale := true, dirty := true } ∧ u.me.g = t.g ∧ u.me.tcause = 0x0A ∧
        u.me.tepc = pcNext t.pc ∧ u.me.tval.toNat % 2 ^ 16 = x.slot.val * 256 + cause ∧ u.me.mode = true ∧ u.mem = s.mem) ∧
      (¬acts → s.does i 4 0 (·.setClause x.slot.val (some { cl with dirty := true })))) ∧
    s.does (.unbind gd n) 4 0 (·.setClause n.val none) ∧
    s.does (.unbindAll gd) 4 0 (fun t => { t with cl := Vector.replicate 8 none }) ∧
    s.does (.clhold gd) 4 0 (fun t => { t with hold := true }) ∧
    (t.mode = true ∨ (∀ j cj, t.clause j = some cj → cj.dirty = false ∧ cj.stale = false) →
      s.does (.clrel gd) 4 0 fun t => { t with hold := false }) ∧
    ((∀ j cj, t.clause j = some cj → e ∉ cj.srcs ∧ e ≠ cj.dst) → ∀ j : Fin 8, OpB.zx t b = BitVec.ofNat 64 j.val →
      (t.clause j.val = none → s.does (.clst gd e b) 4 0 (·.setG e (BitVec.ofNat 64 (8 * t.hold.toNat)))) ∧
      ∀ cj, t.clause j.val = some cj → ∃ w : Word, s.does (.clst gd e b) 4 0 (·.setG e w) ∧
        w.getLsbD 0 = true ∧ w.getLsbD 1 = cj.stale ∧ w.getLsbD 2 = cj.dirty ∧ w.getLsbD 3 = t.hold ∧
        (w.extractLsb' 20 2).toNat = cj.form.val ∧ (w.extractLsb' 22 5).toNat = cj.op2.code ∧
        (w.extractLsb' 27 5).toNat = cj.op1.code ∧ (w.extractLsb' 32 8).toNat = cj.dst.val ∧
        (w.extractLsb' 40 8).toNat = cj.c.val ∧ (w.extractLsb' 56 8).toNat = cj.a.val)

/-- R139, R141, R142, R144, R145, R147 to R149. A write of a clause's source evaluates it after the commit, at 6 eu; a fault leaves
it STALE and traps CLAUSE_FAULT with the write done; HOLD or system mode marks it DIRTY; writing its destination traps. The
forms compute as R142 says. The model's choices in it: notes/assumptions/107, and 90: that `pass` sign-extends the literal of form 2 is
the model's choice. -/
def Obligations.ClausesFollowTheirSources : Prop :=
  (∀ (s : State) (gd : Guard) (d a : GReg) (b : OpB) (i : Nat) (c : Clause), s.Ready → s.me.guardOn gd = true → i < 8 →
    s.me.clause i = some c → (∀ j, j ≠ i → s.me.clause j = none) → c.dst ∉ c.srcs → c.dst ≠ 0 →
    let ins : Instr := .add gd false false d a b
    let t := s.me
    let v := t.rg a + OpB.sx t b
    let acts := t.hold = false ∧ t.mode = false
    (d = c.dst → s.traps ins 4 .boundWrite (BitVec.ofNat 64 d.val)) ∧
    (d ≠ c.dst → d ∉ c.srcs → s.does ins 4 0 (·.setG d v)) ∧
    (d ≠ c.dst → d ∈ c.srcs →
      (acts → ∀ w f, c.value (t.setG d v) = .ok w f → exec ins s = .next (s.retired 10 0 (s.forfeits c.cost) fun t =>
        { ((t.setG d v).setG c.dst w).setClause i (some { c with stale := false, dirty := false }) with
          fflags := t.fflags ||| f })) ∧
      (acts → s.myCtx.tvec ≠ 0 → ∀ cause f, c.value (t.setG d v) = .fault cause f → ∃ u, exec ins s = .next u ∧
        u.me.g = (t.setG d v).g ∧ u.me.clause i = some { c with stale := true, dirty := true } ∧ u.me.tcause = 0x0A ∧
        u.me.tepc = pcNext t.pc ∧ u.me.fflags = t.fflags ∧ u.me.pc = s.myCtx.tvec) ∧
      (¬acts → s.does ins 4 0 fun t => (t.setG d v).setClause i (some { c with dirty := true })))) ∧
  ∀ (t : Thread) (c : Clause) (hi : GReg), (∀ r, c.b = .g r → hi = nextG r) → (c.form = 3 → ∃ r, c.b = .g r) →
    let A := t.rg c.a
    let C := t.rg c.c
    let B : Word := match c.b with
      | .g r => t.rg r
      | .lit v => v.signExtend 64
    let f (o : ClOp) (x y : Word) : Word := match o with
      | .add => x + y
      | .sub => x - y
      | .mul => x * y
      | .min => if x.toInt ≤ y.toInt then x else y
      | .max => if y.toInt ≤ x.toInt then x else y
      | _ => x
    let plain (o : ClOp) : Prop := o = .pass ∨ o = .add ∨ o = .sub ∨ o = .mul ∨ o = .min ∨ o = .max
    plain c.op1 → plain c.op2 →
      (c.form = 0 → c.value t = .ok (f c.op1 A B) 0) ∧
      (c.form = 1 → c.value t = .ok (f c.op2 (f c.op1 A B) C) 0) ∧
      (c.form = 2 → c.value t = .ok (f c.op1 A (f c.op2 B C)) 0) ∧
      (c.form = 3 → c.value t = .ok (f .min (f .max (f c.op1 A B) C) (t.rg hi)) 0)

/-- R282 to R285. Monitors: `MARM` takes an entry, or one that is LOST again, and asks the home to watch the line; `MDIS` gives it back;
`MWAIT` reports fired and lost entries, at once, at a notice, at its timeout or at an interrupt; the home registers, drops its oldest
entry where its table is full, and tells of every write to the line. The model's choices in it: notes/assumptions/10, 35. -/
def Obligations.Monitors : Prop :=
  (∀ (s : State) (gd : Guard) (d a : GReg) (b : OpB) (e : Entry), s.Clear → s.me.guardOn gd = true →
    let t := s.me
    let va := (t.rg a + OpB.sx t b).toNat
    let line := va % 2 ^ 48 / 64 * 64
    let page := s.trans s.cur (va % 2 ^ 48) = .leaf e ∧
      permitted (s.partOf (dieOf s.cur.1) (s.core s.cur.1).cid).keys .load (!t.mode) e = true
    let fired := t.monMask (·.fired)
    let lost := t.monMask (·.lost)
    let armed := t.monMask (·.armed)
    let asked (k : Nat) : Prop := ∃ u id r p, exec (.marm gd a b) s = .next u ∧ u.mem = s.mem ∧ u.me.pc = t.pc ∧ u.me.g = t.g ∧
      u.me.monE k = some ⟨s.serial + 1, line, Entry.loc e line, Entry.homeCore e line, false, false, false⟩ ∧
      (∀ j, j ≠ k → u.me.monE j = t.monE j) ∧
      u.me.pend = some p ∧ p.kind = .arm k ∧ tget u.reqs id = some r ∧ r.op = .arm k ∧ r.home = Entry.homeCore e line
    (page → Entry.tier e ≥ 2 → s.traps (.marm gd a b) 24 .permission (BitVec.ofNat 64 va)) ∧
    (page → Entry.tier e < 2 →
      (∀ k m, t.monOf line = some (k, m) →
        (m.armed = true → s.does (.marm gd a b) 24 0 id) ∧ (m.armed = false → asked k)) ∧
      (t.monOf line = none → (∀ k, k < 4 → t.monE k ≠ none) → s.traps (.marm gd a b) 24 .monitorOverflow (BitVec.ofNat 64 va)) ∧
      ∀ k, t.monOf line = none → k < 4 → t.monE k = none → (∀ j, j < k → t.monE j ≠ none) → asked k) ∧
    (t.monOf line = none → s.does (.mdis gd a b) 24 0 id) ∧
    (∀ k m, t.monOf line = some (k, m) →
      (m.armed = false → s.does (.mdis gd a b) 24 0 (·.setMon k none)) ∧
      (m.armed = true → ∃ u p, exec (.mdis gd a b) s = .next u ∧ u.mem = s.mem ∧ u.me.g = t.g ∧ u.me.pend = some p ∧
        p.kind = .disarm 1)) ∧
    (armed = 0 → s.does (.mdisAll gd) 24 0 fun t => { t with mon := Vector.replicate 4 none }) ∧
    (fired ≠ 0 ∨ lost ≠ 0 ∨ t.intPending = true ∨ armed = 0 →
      s.does (.mwait gd d b) 4 0 (·.told d (if t.intPending then 3 else 2))) ∧
    (fired = 0 → lost = 0 → t.intPending = false → armed ≠ 0 → s.blocks (.mwait gd d b) 4 (OpB.zx t b).toNat (.mwait d))) ∧
  ∀ (s : State) (k : Key) (t0 eu n j : Nat) (due : Option Nat) (m : Mon) (d : GReg), j < 4 → (s.thr k).monE j = some m →
    let tab := (s.core m.home).mons
    let ent : MonEnt := ⟨m.arm, m.loc, k.1, k.2, j⟩
    let ack := 1 + msgTime m.home k.1 1
    let tells (home core : Nat) : Nat := if home = core then 1 else msgTime home core 1
    let setM (m : Mon) : State := s.updThr k (·.setMon j (some m))
    let ends (ev : Instr) (f : Thread → Thread) : Prop := exec ev s = .next (s.over k (s.turnW k) eu f)
    (s.Waits k (.arm j) t0 eu n due →
      (tab.length < 64 → exec (.monitorArmRequest k.1 k.2 j) s = .next (((s.updCore m.home fun c => { c with mons := c.mons ++ [ent] }).updThr
        k (·.setMon j (some { m with armed := true }))).post ack (.monitorAck k.1 k.2 n))) ∧
      (∀ old rest, tab = old :: rest → tab.length = 64 → exec (.monitorArmRequest k.1 k.2 j) s = .next ((((s.post (tells m.home old.core)
        (.monitorLostNotice old.core old.slot old.k old.arm)).updCore m.home fun c => { c with mons := rest ++ [ent] }).updThr
        k (·.setMon j (some { m with armed := true }))).post ack (.monitorAck k.1 k.2 n))) ∧
      exec (.monitorAck k.1 k.2 n) s = .next (s.overL k (s.endL k t0) eu id)) ∧
    (s.Waits k (.disarm 1) t0 eu n due → exec (.monitorDisarmRequest k.1 k.2 j) s =
      .next (((s.updCore m.home fun c => { c with mons := c.mons.filter fun x => !(x.core == k.1 && x.slot == k.2 && x.k == j) }).updThr
        k (·.setMon j none)).post ack (.monitorAck k.1 k.2 n)) ∧
      exec (.monitorAck k.1 k.2 n) s = .next (s.overL k (s.endL k t0) eu id)) ∧
    (k.2 < 16 → (s.thr k).pend = none →
      exec (.fireNoticeArrival k.1 k.2 j m.arm) s = .next (setM { m with fired := true }) ∧
      exec (.monitorLostNotice k.1 k.2 j m.arm) s = .next (setM { m with armed := false, lost := true }) ∧
      ∀ other, other ≠ m.arm → exec (.fireNoticeArrival k.1 k.2 j other) s = .next s) ∧
    (s.Waits k (.mwait d) t0 eu n due →
      ((∀ e, e ∈ s.agenda → s.now < e.1) →
        ends (.fireNoticeArrival k.1 k.2 j m.arm) (fun t => (t.setMon j (some { m with fired := true })).told d 1) ∧
        ends (.monitorLostNotice k.1 k.2 j m.arm) fun t => (t.setMon j (some { m with armed := false, lost := true })).told d 4) ∧
      ((∀ e, e ∈ s.agenda → e.1 ≤ s.now → ∃ c t m, e.2 = .waitTimeout c t m) →
        ((s.thr k).intPending = true → ends (.waitTimeout k.1 k.2 n) (·.told d 3)) ∧
        ((s.thr k).intPending = false → (∃ x, due = some x ∧ x ≤ s.now) → (s.ctx (dieOf k.1) (s.core k.1).cid).halts = 0 →
          ends (.waitTimeout k.1 k.2 n) (·.told d 2)))) ∧
    ∀ (h loc y : Nat) (x : Byte), (s.core h).mons = [⟨m.arm, loc / 64 * 64, k.1, k.2, j⟩] → ∃ old, s.wr h loc y [x] =
      State.post { s with mem := s.mem.writeBytes loc [x], oldWords := old } (y + tells h k.1)
        (.fireNoticeArrival k.1 k.2 j m.arm)

/-- R286 to R290. Barriers: `BREG` and `BCFG` set an id up, `BARR` arrives, `BWAIT` waits; at core, cluster, die and core-set scope the
last arrival completes the phase, which every participant latches: PHASE alternates, its threads' ARRIVED become DONE, and their waits
end with 0. The model's choices in it: notes/assumptions/22, 23. -/
def Obligations.Barriers : Prop :=
  (∀ (s : State) (gd : Guard) (n : Fin 8) (d a : GReg) (b : OpB), s.Clear → s.me.guardOn gd = true →
    let core := s.cur.1
    let t := s.me
    let bar := s.bar core n.val
    let v := t.rg a
    let mask : BitVec 16 := v.extractLsb' 0 16
    let scope : BitVec 2 := v.extractLsb' 0 2
    let cset : BitVec 16 := v.extractLsb' 32 16
    let has (j : Nat) : Prop := ((s.core core).thr j).arrived.getLsbD n.val = true
    let bad (ins : Instr) := s.traps ins 4 .illegalOperand (BitVec.ofNat 64 (0x100 + a.val))
    let full := mask ≠ 0 ∧ ∀ j, j < 16 → mask.getLsbD j = true → has j
    let goes := bar.sent = false ∧ (full ∨ mask = 0 ∧ bar.mask ≠ 0 ∧ bar.scope ≠ 0)
    let set (f : Bar → Bar) : State := s.updBar core n.val f
    let arrived (s : State) : State := if bar.scope = 0 then s.post 2 (.barrierPhaseComplete core n.val)
      else s.post 0 (.barrierArrival core n.val)
    let others := ∀ j, j < 16 → bar.mask.getLsbD j = true → j ≠ s.cur.2 → has j
    let arrive (t : Thread) : Thread := { t with arrived := bitPut t.arrived n.val true, bdone := bitPut t.bdone n.val false }
    let mine := bar.mask.getLsbD s.cur.2 = true
    let wrong := v.extractLsb' 2 30 ≠ 0 ∨ v.extractLsb' 48 16 ≠ 0 ∨ (∃ j, j < 16 ∧ has j) ∨
      scope = 2 ∧ (s.ctx (dieOf core) (s.core core).cid).grid.length ≠ 16 ∨ scope = 3 ∧ cset.getLsbD (coreNo core) = false
    let counts := bar.mask = 0 ∧ scope ≠ 0 ∧ (bar.scope ≠ scope ∨ bar.cset ≠ cset)
    (v.toNat < 2 ^ 16 →
      (¬goes → s.doesIn (set fun b => { b with mask := mask }) (.breg gd n a) 4 0 id) ∧
      (goes → s.doesIn (arrived (set fun b => { b with
        mask := mask, sent := decide (mask ≠ 0), closing := if bar.scope = 0 then some core else b.closing })) (.breg gd n a) 4 0 id)) ∧
    (v.toNat ≥ 2 ^ 16 → bad (.breg gd n a)) ∧
    (t.mode = false → (if t.st = .guest then t.origin.2 else s.cur.2) ≠ 0 → s.traps (.bcfg gd n a) 4 .threadMgmt 0xC4) ∧
    (t.mode = true ∨ (if t.st = .guest then t.origin.2 else s.cur.2) = 0 →
      (wrong → bad (.bcfg gd n a)) ∧
      (¬wrong →
        let put := set fun b => { b with scope := scope, cset := cset, phase := false }
        (¬counts → s.doesIn put (.bcfg gd n a) 4 0 id) ∧
        (counts → s.doesIn (put.post 0 (.barrierArrival core n.val)) (.bcfg gd n a) 4 0 id))) ∧
    (¬mine → s.traps (.barr gd n) 4 .illegalOperand (BitVec.ofNat 64 n.val) ∧
      s.traps (.bwait gd n d b) 4 .illegalOperand (BitVec.ofNat 64 n.val)) ∧
    (mine → t.arrived.getLsbD n.val = true → s.blocks (.barr gd n) 4 0 (.barr n)) ∧
    (mine → t.arrived.getLsbD n.val = false →
      (¬others ∨ bar.sent = true → s.does (.barr gd n) 4 0 arrive) ∧
      (others → bar.sent = false → ∃ u, exec (.barr gd n) s = .next u ∧ u.mem = s.mem ∧ (u.bar core n.val).sent = true ∧
        u.me.arrived = bitPut t.arrived n.val true ∧ u.me.bdone = bitPut t.bdone n.val false ∧ u.me.pc = pcNext t.pc ∧
        u.agenda = (arrived s).agenda)) ∧
    (mine → (t.bdone.getLsbD n.val = true ∨ t.arrived.getLsbD n.val = false) → s.does (.bwait gd n d b) 4 0 (·.setG d 0)) ∧
    (mine → t.bdone.getLsbD n.val = false → t.arrived.getLsbD n.val = true →
      (t.intPending = true → s.does (.bwait gd n d b) 4 0 (·.setG d 2)) ∧
      (t.intPending = false → s.blocks (.bwait gd n d b) 4 (OpB.zx t b).toNat (.bwait n d)))) ∧
  ∀ (s : State) (core : Nat) (n : Fin 8), core = coreIn (clusterOf core) (coreNo core) →
    let b := s.bar core n.val
    let cl := clusterOf core
    let d := dieOf core
    let w := vget (s.cluster cl).bunit n.val 0
    let ws := vget (s.die d).wires n.val []
    let part (p : Nat) : Prop := match b.scope.toNat with
      | 0 => p = core
      | 1 => ∃ j, j < 16 ∧ p = coreIn cl j
      | 2 => ∃ j, j < 256 ∧ p = d * 256 + j
      | _ => ∃ j, j < 16 ∧ b.cset.getLsbD j = true ∧ p = coreIn cl j
    let noted (p : Nat) : Prop := (b.mask ≠ 0 ∧ p = core) ∨ (if b.scope = 2 then p ∈ ws else w.getLsbD (coreNo p) = true)
    let come := ∀ p, part p → (s.bar p n.val).scope = b.scope ∧ (b.scope = 3 → (s.bar p n.val).cset = b.cset) ∧
      ((s.bar p n.val).mask = 0 ∨ noted p)
    let ev := exec (.barrierArrival core n.val) s
    (b.closing ≠ none → ev = .next s) ∧
    (b.closing = none → b.scope ≠ 0 →
      (¬come → b.mask = 0 → ev = .next s) ∧
      (¬come → b.mask ≠ 0 → ev = .next (if b.scope = 2
        then s.updDie d fun x => { x with wires := vset x.wires n.val (core :: ws) }
        else s.updCluster cl fun x => { x with bunit := vset x.bunit n.val (w ||| (1#16 <<< coreNo core)) })) ∧
      (come → ∃ u, ev = .next u ∧ u.mem = s.mem ∧ (∀ p, part p → (u.bar p n.val).closing = some core) ∧
        (if b.scope = 2 then vget (u.die d).wires n.val [] = []
          else ∀ j, j < 16 → ((vget (u.cluster cl).bunit n.val 0).getLsbD j = true ↔ noted (coreIn cl j) ∧ ¬part (coreIn cl j))) ∧
        u.agenda = agendaAdd s.agenda (s.now + if b.scope = 2 then 24 else 12) (.barrierPhaseComplete core n.val))) ∧
    ∃ u, exec (.barrierPhaseComplete core n.val) s = .next u ∧ u.mem = s.mem ∧
      ∀ p, dieOf p = d → (s.bar p n.val).closing = some core → (∀ j x, j < 16 → (s.thr (p, j)).pend = some x → x.kind ≠ .barr n) →
        (u.bar p n.val).phase = !(s.bar p n.val).phase ∧ (u.bar p n.val).sent = false ∧
        (u.bar p n.val).closing = none ∧ (u.bar p n.val).mask = (s.bar p n.val).mask ∧
        ∀ j, j < 16 → (u.thr (p, j)).arrived.getLsbD n.val = false ∧
          (u.thr (p, j)).bdone.getLsbD n.val =
            ((s.thr (p, j)).arrived.getLsbD n.val || (s.thr (p, j)).bdone.getLsbD n.val) ∧
          ∀ d t0 eu q due, (s.thr (p, j)).arrived.getLsbD n.val = true → s.Waits (p, j) (.bwait n d) t0 eu q due →
            (u.thr (p, j)).pend = none ∧ (u.thr (p, j)).pc = pcNext (s.thr (p, j)).pc ∧
            (u.thr (p, j)).rg d = 0

/-- R299, R303, R305 to R309. The instructions of a node: each sends its message to the cluster's instant controller, waits where it
asks for an answer, and ends the reaction with `PAUSE` or `GEND`; outside a node they trap. `GINVOKE` sends its block.
The model's choices in it: notes/assumptions/34. -/
def Obligations.SignalInstructions : Prop :=
  (∀ (s : State) (gd : Guard) (cl gi n : Nat) (d a : GReg) (p : PReg) (x : DReg) (ch : ChReg) (b : OpB) (pre : Bool) (G : Graph),
    s.Clear → s.me.guardOn gd = true → s.me.node = some (cl, gi, n) → tget (s.cluster cl).graphs gi = some G → n < G.nodes.length →
    let t := s.me
    let i := (OpB.zx t b).toNat
    let nd := G.node n
    let sets (f : Node → Node) : State := s.updGraph cl gi (·.updNode n f)
    let asks (ins : Instr) (kind : Nat) (dp : PReg) (dg : GReg) : Prop :=
      exec ins s = .next ((s.ctlSend cl s.cur 6 (.signalQuery cl gi n)).waiting s.serial 4 0 (.sig kind i dp dg))
    let undeclared (ins : Instr) (w : Nat) : Prop := s.traps ins 4 .signalUndeclared (BitVec.ofNat 64 w)
    let ends (ins : Instr) (kind : Nat) : Prop := ∃ u, exec ins s = .next u ∧ u.mem = s.mem ∧ u.me = Thread.freed (s.cyc (dieOf s.cur.1) + 1) ∧
      ((u.graph cl gi).node n).st = 5 ∧ ((u.graph cl gi).node n).ctx.pc = pcNext t.pc ∧ ((u.graph cl gi).node n).ctx.g = t.g ∧
      u.agenda = agendaAdd s.agenda (s.now + 6) (.nodeDoneMessage cl gi n nd.emask kind)
    (i ≥ G.sigs.length → ∀ ins ∈ [Instr.emit gd a b, .sigt gd p b, .sigq gd d b, .sigv gd d b, .retract gd b, .sigpre gd pre d b],
      s.traps ins 4 .illegalOperand (BitVec.ofNat 64 (0x200 + OpB.spec b))) ∧
    (i < G.sigs.length →
      (nd.emask.getLsbD i = false → undeclared (.emit gd a b) i ∧ undeclared (.retract gd b) i) ∧
      (nd.emask.getLsbD i = true → nd.retr.getLsbD i = true → undeclared (.emit gd a b) (0x100 + i)) ∧
      (nd.emask.getLsbD i = true → nd.retr.getLsbD i = false →
        s.doesIn ((sets fun x => { x with emitted := x.emitted ||| bitOf i }).ctlSend cl s.cur 6 (.emitMessage cl gi n i (t.rg a)))
          (.emit gd a b) 4 0 id) ∧
      (nd.emask.getLsbD i = true →
        s.doesIn ((sets fun x => { x with retr := x.retr ||| bitOf i }).ctlSend cl s.cur 6 (.nodeDoneMessage cl gi n (bitOf i) 0))
          (.retract gd b) 4 0 id) ∧
      asks (.sigt gd p b) 1 p 0 ∧ asks (.sigq gd d b) 0 0 d ∧ asks (.sigv gd d b) 2 0 d ∧
      s.does (.sigpre gd pre d b) 4 0 (·.setG d (if pre then (G.sig i).pre else if (G.sig i).preSt then 1 else 0))) ∧
    s.doesIn ((sets fun x => { x with retr := x.retr ||| nd.emask }).ctlSend cl s.cur 6 (.nodeDoneMessage cl gi n nd.emask 0))
      (.retractAll gd) 4 0 id ∧
    (t.mon = Vector.replicate 4 none → ends (.pause gd) 1 ∧ ends (.gend gd) 2) ∧
    s.does (.dget gd d x) 4 0 (·.setG d (t.d.get x)) ∧
    (∃ u : Thread, s.does (.dset gd x b) 4 0 (fun t => { t with dnext := u.dnext, dpend := u.dpend }) ∧ u.dnext.get x = OpB.sx t b ∧
      (∀ y, y ≠ x → u.dnext.get y = t.dnext.get y) ∧ u.dpend = t.dpend ||| (1#8 <<< x.val)) ∧
    exec (.chw gd ch b) s = .next ((s.ctlSend cl s.cur 6 (.channelRequest cl gi n)).waiting s.serial 4 0 (.chw ch (OpB.sx t b))) ∧
    exec (.chr gd d ch) s = .next ((s.ctlSend cl s.cur 6 (.channelRequest cl gi n)).waiting s.serial 4 0 (.chr ch d))) ∧
  (∀ (s : State) (gd : Guard) (d a : GReg) (p : PReg) (x : DReg) (ch : ChReg) (b : OpB) (pre : Bool), s.Clear → s.me.guardOn gd = true →
    s.me.node = none →
    (∀ ins ∈ [Instr.emit gd a b, .sigt gd p b, .sigq gd d b, .sigv gd d b, .retract gd b, .retractAll gd, .sigpre gd pre d b, .pause gd,
      .gend gd], s.traps ins 4 .illegalInstruction (wordVal ins)) ∧
    s.traps (.dget gd d x) 4 .illegalOperand (BitVec.ofNat 64 (0x100 + (0x38 + x.val))) ∧
    s.traps (.dset gd x b) 4 .illegalOperand (BitVec.ofNat 64 (0x38 + x.val)) ∧
    s.traps (.chw gd ch b) 4 .illegalOperand (BitVec.ofNat 64 (0x70 + ch.val)) ∧
    s.traps (.chr gd d ch) 4 .illegalOperand (BitVec.ofNat 64 (0x100 + (0x70 + ch.val)))) ∧
  ∀ (s : State) (gd : Guard) (p : PReg) (a : GReg) (b : OpB) (loc cl : Nat) (e : Entry), s.Clear → s.me.guardOn gd = true → s.PortIdle →
    let va := (s.me.rg a + OpB.sx s.me b).toNat
    let blk := BitVec.ofNat 704 (s.mem.read loc 88)
    let far := if cl = clusterOf s.cur.1 then 0 else msgTime s.cur.1 (coreIn cl 0) 6
    (va % 8 ≠ 0 → s.traps (.ginvoke gd p a b) 24 .misaligned (BitVec.ofNat 64 va)) ∧
    (va % 8 = 0 → s.trans s.cur (va % 2 ^ 48) = .leaf e → pageMeets e .int64 false = .raw →
      (∀ i, i < 11 → s.reach .load .int64 8 ((va + 8 * i) % 2 ^ 64) (loc + 8 * i)) →
      (s.ctx (dieOf s.cur.1) (s.core s.cur.1).cid).grid[blk.toNat / 2 ^ 24 % 16]? = some cl →
      ∃ u q m, exec (.ginvoke gd p a b) s = .next u ∧ u.mem = s.mem ∧ u.me.pend = some q ∧ q.kind = .ginvoke p a ∧ u.me.pc = s.me.pc ∧
        u.invs = tput s.invs m ⟨s.cur.1, s.cur.2, s.serial, cl, blk, 0⟩ ∧
        u.agenda = agendaAdd s.agenda (s.now + (10 + far)) (.invocationMessage m))

/-- R298, R300, R301, R304, R310, R311. The controller takes, queues or rejects an invocation; the reply posts the tag; an instant begins
from the oldest invocation, with its inputs and its reset, its nodes start in free slots, and its end latches registers and signals,
writes the output block and completes the tag. A graph with no progress freezes, its nodes parked and the record written, and its
invocations complete with CAUSALITY.
The model's choices in it: notes/assumptions/14, 34, 35, 97. -/
def Obligations.InvocationsAndInstants : Prop :=
  (∀ (s : State) (m : Nat) (v : InvMsg), tget s.invs m = some v →
    let cl := v.cluster
    let gi := v.blk.toNat % 8
    let g := tget (s.cluster cl).graphs gi
    let k : Key := (v.core, v.slot)
    let far := if cl = clusterOf v.core then 0 else msgTime (coreIn cl 0) v.core 1
    let replied (u : State) (r : Nat) : State := { u with invs := tput s.invs m { v with reply := r } }.post (6 + far) (.invocationReply m)
    let turn := s.onTurn cl (.invocationMessage m)
    (turn → blkBad g v.blk = true → exec (.invocationMessage m) s = .next (replied (s.handled cl) 3)) ∧
    (turn → blkBad g v.blk = false → ∀ G, g = some G →
      (G.store.length ≥ 16 → exec (.invocationMessage m) s = .next (replied (s.handled cl) 2)) ∧
      (G.store.length < 16 → exec (.invocationMessage m) s =
        .next (replied ((s.handled cl).updGraph cl gi fun g => { g with store := g.store ++ [⟨m, v.blk, v.core, false⟩] }) 1))) ∧
    (∀ x, (s.cluster cl).inbox = [x] → x.ev = .invocationMessage m → (s.cluster cl).cfree > s.now →
      exec (.invocationMessage m) s = .next (s.post 1 (.invocationMessage m))) ∧
    ∀ (d : PReg) (a : GReg) (t0 eu n : Nat) (due : Option Nat), s.Waits k (.ginvoke d a) t0 eu n due → v.serial = n →
      let gone : State := { s with invs := tdel s.invs m }
      let tag := v.blk.toNat / 2 ^ 8 % 64
      (v.reply = 3 → exec (.invocationReply m) s = .next (gone.trapStep k eu .illegalOperand (BitVec.ofNat 64 (0x100 + a.val)))) ∧
      (v.reply = 2 → exec (.invocationReply m) s = .next (gone.overL k (s.endL k t0) eu (·.setP d 0))) ∧
      (v.reply = 1 → ∃ u, exec (.invocationReply m) s = .next u ∧ u.mem = s.mem ∧ (u.thr k).rp d = ones64 ∧ (u.thr k).pend = none ∧
        (u.thr k).pc = pcNext (s.thr k).pc ∧ u.agenda = agendaAdd s.agenda s.now (.instantBegin cl gi) ∧
        (u.core v.core).tagAt tag = (let t := (s.core v.core).tagAt tag
          if t.count = 0 then ⟨1, false, false, 0⟩ else { t with count := t.count + 1 }) ∧
        ∀ G, g = some G → (u.graph cl gi).store = G.store.map fun x => if x.id = m then { x with ok := true } else x)) ∧
  ∀ (s : State) (cl gi n cid : Nat) (G : Graph), tget (s.cluster cl).graphs gi = some G → (s.cluster cl).run = some cid →
    let st := (s.ctx (cl / 16) cid).st
    let small := G.nodes.length ≤ 64 ∧ G.sigs.length ≤ 64
    (∀ v, G.busy = false → G.fin = none → st = .running → G.oldest = some v → blkBad (some G) v.blk = false → small →
      let rst := v.blk.getLsbD 31
      (G.frozen = true → rst = true) →
      let nin := blkF v.blk 19 16
      let byte (j : Nat) : Nat := blkF v.blk (8 * j + 135) (8 * j + 128)
      let ended (j : Nat) : Prop := rst = false ∧ (G.node j).st = 2
      ∃ u, exec (.instantBegin cl gi) s = .next u ∧ u.mem = s.mem ∧
        let H := u.graph cl gi
        H.busy = true ∧ H.out = blkF v.blk 111 64 ∧ H.tag = blkF v.blk 13 8 ∧ H.invoker = v.core ∧ H.waits = [] ∧
        H.store = G.store.filter (·.id != v.id) ∧ H.frozen = false ∧ H.instant = (if rst then 0 else G.instant) ∧
        H.chans = (if rst then Vector.replicate 8 none else G.chans) ∧
        (∀ j, j < G.nodes.length → (ended j → (H.node j).st = 2) ∧ (¬ended j → (H.node j).st = 4) ∧
          (H.node j).emitted = 0 ∧ (H.node j).retr = 0 ∧ (rst = false → (H.node j).ctx = (G.node j).ctx) ∧
          (rst = true → (H.node j).ctx.pc = BitVec.ofNat 48 (G.node j).entry ∧ (H.node j).ctx.g = Vector.replicate 32 0)) ∧
        (∀ j, j < nin → (H.sig (byte j)).st = 1 ∧ (H.sig (byte j)).val = BitVec.ofNat 64 (blkF v.blk (64 * j + 255) (64 * j + 192)) ∧
          (H.sig (byte j)).first = some none) ∧
        (∀ i, i < G.sigs.length → (H.sig i).pre = (if rst then 0 else (G.sig i).pre) ∧ ((∀ j, j < nin → byte j ≠ i) →
          let done := ∀ j, j < G.nodes.length → (G.node j).emask.getLsbD i = true → ended j
          (H.sig i).val = 0 ∧ (done → (H.sig i).st = 2) ∧ (¬done → (H.sig i).st = 0))) ∧
        ((∀ j, j < G.nodes.length → ended j) → u.agenda = agendaAdd s.agenda (s.now + 1) (.instantEnd cl gi)) ∧
        ∀ j, j < G.nodes.length → ¬ended j → (s.now + 6, Instr.nodeStart cl gi j) ∈ u.agenda) ∧
    (∀ v, G.busy = false → G.fin = none → G.oldest = some v → G.frozen = true → v.blk.getLsbD 31 = false →
      ∃ u, exec (.frozenInvocation cl gi) s = .next u ∧ u.mem = s.mem ∧ (u.graph cl gi).fin = some (0x46, blkF v.blk 111 64) ∧
        (u.graph cl gi).tag = blkF v.blk 13 8 ∧ (u.graph cl gi).frozen = true ∧ (u.graph cl gi).nodes = G.nodes) ∧
    (G.busy = true → (G.node n).st = 4 → (s.cluster cl).pre = none → n < G.nodes.length → (G.node n).ctx.hreply = none →
      (∀ e, e ∈ s.agenda → s.now < e.1) →
      let core := coreIn cl (G.node n).core
      let y := s.cyc (dieOf core)
      ∀ i, 1 ≤ i → i ≤ 15 → (s.thr (core, i)).st = .free → (s.thr (core, i)).next ≤ y →
        (∀ j, 1 ≤ j → j < i → ¬((s.thr (core, j)).st = .free ∧ (s.thr (core, j)).next ≤ y)) →
        exec (.nodeStart cl gi n) s = .next ((s.updCore core fun c => { c.setThr i { (G.node n).ctx with
            st := .node, light := true, node := some (cl, gi, n), next := alignUp (y + 1) i } with
          bar := c.bar.map fun b => { b with mask := b.mask &&& ~~~(1#16 <<< i) } }).updGraph cl gi
            (·.updNode n fun x => { x with st := 5 }))) ∧
    (G.fin = none → G.busy = true → G.over = true → (st = .running ∨ st = .preempting) → n < G.nodes.length → small →
      (G.out ≠ 0 → ∀ d, (s.die d).off = false) →
      ∃ u, exec (.instantEnd cl gi) s = .next u ∧
        let H := u.graph cl gi
        H.instant = G.instant + 1 ∧ H.busy = false ∧
        (∀ r : Fin 8, ((H.node n).ctx.d.get r) = if (G.node n).ctx.dpend.getLsbD r.val then (G.node n).ctx.dnext.get r else
          (G.node n).ctx.d.get r) ∧
        (∀ i, i < G.sigs.length → (H.sig i).preSt = ((G.sig i).st == 1) ∧ (H.sig i).pre = if (G.sig i).st = 1 then (G.sig i).val else 0) ∧
        (G.out = 0 → u.mem = s.mem ∧ H.fin = some (0, 0)) ∧
        ∀ loc, G.out ≠ 0 → s.ctlRoom cl cid G.out (1 + G.sigs.length) loc → H.fin = some (0, 0) ∧ ∃ w : Word,
          (∀ i, i < G.sigs.length → (w.getLsbD i = true ↔ (G.sig i).st = 1)) ∧
          s.ctlStored u loc (w :: G.sigs.map fun x => if x.st = 1 then x.val else 0)) ∧
    (G.fin = some (0, 0) → (st = .running ∨ st = .preempting) → (s.core G.invoker).run = some cid → G.tag < 64 →
      (∀ j p, (s.thr (G.invoker, j)).pend = some p → ∀ d m, p.kind ≠ .twany d m ∧ p.kind ≠ .twall d m) →
      ∃ u, exec (.instantEnd cl gi) s = .next u ∧ u.mem = s.mem ∧ (u.graph cl gi).fin = none ∧
        let t := (s.core G.invoker).tagAt G.tag
        let w := (u.core G.invoker).tagAt G.tag
        w.count = t.count - 1 ∧ (t.count = 1 → w.done = true) ∧ w.err = t.err ∧ (t.status = 0 → w.status = 0x500)) ∧
    (G.stuck = true → small → (G.out ≠ 0 → ∀ d, (s.die d).off = false) →
      ∃ u, exec (.causalityFreeze cl gi) s = .next u ∧
        let H := u.graph cl gi
        H.frozen = true ∧ H.busy = false ∧ H.waits = [] ∧ H.sigs = G.sigs ∧ H.chans = G.chans ∧ H.instant = G.instant ∧
        H.store = G.store ∧ H.nodes.length = G.nodes.length ∧
        (∀ j, j < G.nodes.length → (s.nodeKey cl gi j = none → H.node j = G.node j) ∧
          ∀ k, s.nodeKey cl gi j = some k → (u.thr k).st = .free ∧ (H.node j).st = (G.node j).st ∧
            (H.node j).reason = (G.node j).reason ∧ (H.node j).index = (G.node j).index ∧
            (H.node j).ctx.pc = (s.thr k).pc ∧ (H.node j).ctx.g = (s.thr k).g ∧ (H.node j).ctx.p = (s.thr k).p ∧
            (H.node j).ctx.d = (s.thr k).d) ∧
        (G.out = 0 → u.mem = s.mem ∧ H.fin = some (0x46, 0)) ∧
        ∀ loc, G.out ≠ 0 → s.ctlRoom cl cid G.out (8 + G.nodes.length) loc → H.fin = some (0x46, G.out) ∧
          ∃ blocked unk unf chb : Word,
            (∀ j, j < G.nodes.length → (blocked.getLsbD j = true ↔ (G.node j).st = 3)) ∧
            (∀ i, i < G.sigs.length → (unk.getLsbD i = true ↔ (G.sig i).st = 0) ∧
              (unf.getLsbD i = true ↔ (G.sig i).st = 1 ∧ G.allDone i = false)) ∧
            (∀ c, c < 8 → (chb.getLsbD c = true ↔ ∃ x ∈ G.nodes, x.st = 3 ∧ x.reason ≥ 3 ∧ x.index = c)) ∧
            s.ctlStored u loc ([BitVec.ofNat 64 (0x46 + gi * 2 ^ 8 + G.instant % 2 ^ 48 * 2 ^ 16), blocked, unk, unf, chb, 0, 0, 0] ++
              H.nodes.map fun x => if x.st = 3 then BitVec.ofNat 64 (x.ctx.pc.toNat + x.reason * 2 ^ 48 + x.index * 2 ^ 56) else 0))

/-- R302, R306, R308. What the controller does with a node's messages: a contribution, the end of a reaction, a signal query, and a
channel request; each answer takes 6 cycles. The model's choices in it: notes/assumptions/34. -/
def Obligations.ControllerAnswersNodes : Prop :=
  ∀ (s : State) (cl gi n i : Nat) (v mask : Word) (G : Graph), tget (s.cluster cl).graphs gi = some G → i < G.sigs.length →
    n < G.nodes.length → G.waits = [] → (∀ x, x ∈ G.nodes → x.st ≠ 3) →
    let x := G.sig i
    let base := s.handled cl
    let node (st reason index : Nat) : State := base.updGraph cl gi (·.updNode n fun y => { y with st := st, reason := reason, index := index })
    let waits (u : State) (w : CtlW) : State := u.updGraph cl gi fun g => { g with waits := [w] }
    let alone := ∃ j, j < G.nodes.length ∧ j ≠ n ∧ (G.node j).st = 5
    let emitted := exec (.emitMessage cl gi n i v) s
    let sees (y : Sig) : Prop := emitted = .next (base.updGraph cl gi (·.updSig i fun _ => y))
    (s.onTurn cl (.emitMessage cl gi n i v) →
      (x.st = 0 → sees { x with st := 1, val := v, seen := true, first := some (some n) }) ∧
      (x.st = 1 → x.op = 0 → sees { x with val := x.val + v, seen := true }) ∧
      (x.st = 1 → x.op = 1 → sees { x with val := if x.val.toInt ≤ v.toInt then x.val else v, seen := true }) ∧
      (x.st = 1 → x.op = 2 → sees { x with val := if v.toInt ≤ x.val.toInt then x.val else v, seen := true }) ∧
      (x.st = 1 → x.op = 3 → sees { x with val := x.val ||| v, seen := true }) ∧
      (x.st = 1 → x.op = 4 → sees { x with val := x.val &&& v, seen := true })) ∧
    (∀ kind, (kind = 1 ∨ kind = 2) → s.onTurn cl (.nodeDoneMessage cl gi n mask kind) → ∃ u,
      exec (.nodeDoneMessage cl gi n mask kind) s = .next u ∧ u.mem = s.mem ∧ ((u.graph cl gi).node n).st = kind ∧
        (mask.getLsbD i = true → ((u.graph cl gi).sig i).done = x.done ||| bitOf n ∧
          (x.st = 0 → G.emitters i &&& ~~~(x.done ||| bitOf n) = 0 → ((u.graph cl gi).sig i).st = 2)) ∧
        ((∀ j, j < G.nodes.length → j ≠ n → (G.node j).st = 1 ∨ (G.node j).st = 2) →
          u.agenda = agendaAdd s.agenda (s.now + 1) (.instantEnd cl gi))) ∧
    ∀ (k : Key) (kind : Nat) (dp : PReg) (dg : GReg) (c : Fin 8) (t0 eu q : Nat) (due : Option Nat), s.nodeKey cl gi n = some k →
      let asks (ev : Instr) (p : PendK) : Prop := s.onTurn cl ev ∧ s.Waits k p t0 eu q due
      let ch := vget G.chans c.val none
      let answers (ev : Instr) (u : State) (f : Thread → Thread) : Prop :=
        exec ev s = .next (u.overL k (Nat.max (s.cyc (dieOf k.1)) t0 + 6) eu f)
      (asks (.signalQuery cl gi n) (.sig 0 i dp dg) → answers (.signalQuery cl gi n) (node 5 0 0)
        (·.setG dg (if x.st = 0 then 2 else if x.st = 1 then 1 else 0))) ∧
      (asks (.signalQuery cl gi n) (.sig 1 i dp dg) → x.st ≠ 0 → answers (.signalQuery cl gi n) (node 5 0 0)
        (·.setP dp (if x.st = 1 then BitVec.allOnes 64 else 0))) ∧
      (asks (.signalQuery cl gi n) (.sig 2 i dp dg) → x.st = 2 ∨ (x.st = 1 ∧ G.allDone i = true) → answers (.signalQuery cl gi n) (node 5 0 0)
        (·.setG dg (if x.st = 1 then x.val else 0))) ∧
      (kind = 1 ∨ kind = 2 → asks (.signalQuery cl gi n) (.sig kind i dp dg) → x.st = 0 → alone →
        exec (.signalQuery cl gi n) s = .next (waits (node 3 kind i) ⟨n, kind, i, 0⟩)) ∧
      (asks (.channelRequest cl gi n) (.chw c v) → ch = none → (∃ u, exec (.channelRequest cl gi n) s = .next u ∧ u.mem = s.mem ∧
        vget (u.graph cl gi).chans c.val none = some v ∧ (u.thr k).pend = none ∧ (u.thr k).next = s.turnC k t0 ∧
        (u.thr k).pc = pcNext (s.thr k).pc ∧ (u.graph cl gi).waits = [])) ∧
      (∀ y, asks (.channelRequest cl gi n) (.chr c dg) → ch = some y → dg ≠ 0 → (∃ u, exec (.channelRequest cl gi n) s = .next u ∧
        u.mem = s.mem ∧ vget (u.graph cl gi).chans c.val none = none ∧ (u.thr k).rg dg = y ∧ (u.thr k).next = s.turnC k t0)) ∧
      (asks (.channelRequest cl gi n) (.chr c dg) → ch = none → alone →
        exec (.channelRequest cl gi n) s = .next (waits (node 3 3 c.val) ⟨n, 3, c.val, 0⟩))

/-- R230, R231, R232, R234, R235, R242, R246, R250, R253, R254, R255, R256. The copy engine takes a card. Of a chunk of a `COPY`, `FILL`,
`GATHER` or `SCATTER` it chooses a part, has its homes read for it, and converts the elements, which then stand in a buffer or go out, in
order, to the ports of their homes (R18); a job ends at its tag; an idle engine steals. The matrix unit fires a command, adds to the
tile, or to C, the exact sums of a group of products, rounded once, and writes the tile to C. The model's choices in it: notes/assumptions/2, 13, 14, 15, 75, 96, 99, and 88: that bits [12:0] of FL19
stay where it moves raw is the model's choice. -/
def Obligations.CopyAndMatrixEngines : Prop :=
  ∀ (s : State) (core : Nat) (q : QCard),
    let k := s.core core
    let cl := clusterOf core
    let c := q.card
    let x := (s.core q.core).ctx q.cid
    let w := (jobOut c).bits
    let n := w / 8
    let calm := s.badLines = [] ∧ (∀ d, (s.die d).off = false) ∧ ∀ r ∈ s.reqs, r.2.slot ≠ 16
    (s.Sole 0 q → core = q.core → k.copy.job = none → k.copy.parkA = none → k.copy.parkB = none → (s.cluster cl).fireable q.id = true →
      q.id ∉ s.taken cl → fifoOf c = none → x.jobs = [] →
      ∃ u d least, exec (.copyJobStart core) s = .next u ∧ u.mem = s.mem ∧
        (u.core core).copy.job = some { card := q, chunk := 0, fault := none, snap := [], part := 0 } ∧
        (u.core core).copy.due = s.now + d ∧ d ≥ 1 ∧ (u.core core).copy.least = s.now + least ∧ least ≥ 1 ∧
        (Card.sp c 128 = 2 → chunkCount c 0 * w ≤ 1024 * least) ∧
        u.agenda = agendaAdd s.agenda (s.now + d) (.copyChunk core)) ∧
    (∀ (o : Nat), clusterOf o = cl → o ≠ core → s.Sole 0 q → o = q.core → (s.core core).run = some q.cid → k.cq.cards = [] →
      dieOf core = dieOf o →
      (∀ e, clusterOf e = cl → e ≠ core → e ≠ o → (s.core e).cq.cards = []) → k.copy.job = none → k.copy.parkA = none →
      k.copy.parkB = none → (s.core o).copy.parkA = none → (s.core o).copy.parkB = none → k.copy.idle + 256 ≤ s.now →
      (s.cluster cl).fireable q.id = true → q.id ∉ s.taken cl → fifoOf c = none → Card.steal c = true → x.jobs = [] →
      ∃ u, exec (.copySteal core) s = .next u ∧ u.mem = s.mem ∧
        (u.core core).copy.job = some { card := q, chunk := 0, fault := none, snap := [], part := 0 }) ∧
    (∀ (j : CJob) (m : Nat) (ix il sl dl : Nat → Nat), k.copy.job = some j → j.card = q → j.fault = none → j.turns = [] →
      k.copy.due = s.now → calm → w % 8 = 0 → (jobIn c).bits = 8 * m → isBlockTy (jobIn c) = false → Card.snap c = false →
      fifoOf c = none → 1 ≤ Card.type c → Card.type c ≤ 4 → j.part < chunkCount c j.chunk → (∀ b, (x.buf b).wf = true) →
      let S := s.seeing j.got
      let total := jobTotal c
      let ssp := Card.sp c 64
      let dsp := Card.sp c 128
      let isp := Card.sp c 192
      let none' (_ : Nat) : Prop := False
      (∀ e, e < total → s.engAt q .store (jobOut c) dsp (Card.dstAt c ix e) n (dl e) none') →
      (∀ e f, e < f → f < total → apart (dl e) n (dl f) n) →
      (Card.type c ≠ 4 → ∀ e, e < total → S.engAt q .load (jobIn c) ssp (Card.srcAt c ix e) m (sl e) none') →
      (Card.type c = 2 ∨ Card.type c = 3 → ∀ r, r < jobRows c → S.engAt q .load .int32 isp (Card.addr c 192 + 4 * r) 4 (il r) none' ∧
        (S.space q isp).read (il r) 4 = ix r ∧ ix r < Card.f c 351 320) →
      S.badLines = [] →
      let i := j.chunk
      let first := i * chunkEls (jobOut c) + j.part
      let el (e : Nat) : Nat := (S.space q ssp).read (sl e) m
      let val (e : Nat) : Nat := if Card.type c = 4 then Card.f c 127 64 else if jobIn c = jobOut c then el e
        else (Num.cvt (jobIn c) (jobOut c) ⟨Card.rnd c, false, false, c.getLsbD 42⟩ (el e)).r
      let go := exec (.copyChunk core) s
      let unmoved (u : State) : Prop := u.mem = s.mem ∧ ∀ sp ∈ [1, 2, 3], u.space q sp = s.space q sp
      let reads := unread j.got (S.jobReads j j.got first j.want)
      -- a part is chosen
      (j.wrote = false → j.want = 0 → j.got = [] → ∃ u y, go = .next u ∧ u.mem = s.mem ∧ (u.core core).copy.job = some y ∧ y.card = q ∧
        y.chunk = i ∧ y.part = j.part ∧ y.fault = none ∧ y.part + y.want ≤ chunkCount c i ∧ (k.copy.least ≤ s.now → 1 ≤ y.want)) ∧
      (j.wrote = false → 1 ≤ j.want → j.part + j.want ≤ chunkCount c i →
        -- it is read
        (reads ≠ [] → ∃ u id ids, go = .next u ∧ unmoved u ∧ (u.core core).copy.job = some { j with turns := id :: ids }) ∧
        (reads = [] → ∃ u outs, go = .next u ∧ u.mem = s.mem ∧
          (u.core core).copy.job = some { j with wrote := true, outs := outs } ∧ (u.core core).copy.due = s.now ∧
          u.agenda = agendaAdd s.agenda s.now (.copyChunk core) ∧ (∀ sp ∈ [1, 2, 3], sp ≠ dsp → u.space q sp = s.space q sp) ∧
          (dsp = 0 → (outs.map fun h => (h.el.loc, h.el.n, h.el.data)) =
            (List.range j.want).map fun e => (dl (first + e), n, val (first + e) % 2 ^ w)) ∧
          (dsp ≠ 0 → outs = [] ∧
            (∀ e, first ≤ e → e < first + j.want → (u.space q dsp).read (dl e) n = val e % 2 ^ w) ∧
            ∀ a, (∀ e, first ≤ e → e < first + j.want → apart a 1 (dl e) n) → (u.space q dsp).get a = (s.space q dsp).get a))) ∧
      -- its writes go out, and the part ends
      (j.wrote = true → ∀ h hs, j.outs = h :: hs → h.tier ≤ 1 →
        (∀ y ∈ hs, y.el.host = false ∧ y.el.loc / 2 ^ 46 = h.el.loc / 2 ^ 46) → h.el.host = false →
        let here (y : Hit) : Bool := decide (y.tier ≤ 1) && y.home == h.home
        ∃ u id t, go = .next u ∧ unmoved u ∧ (u.core core).copy.job = some { j with turns := [id], outs := j.outs.dropWhile here } ∧
          tget u.turns id = some t ∧ t.op = .store ∧ t.home = h.home ∧ t.els = (j.outs.takeWhile here).map (·.el) ∧
          t.owner = .copy core) ∧
      (j.wrote = true → j.outs = [] → j.part + j.want ≤ chunkCount c i → ∃ u, go = .next u ∧ unmoved u ∧
        let y : CJob := { j with want := 0, got := [], wrote := false, part := j.part + j.want }
        (u.core core).copy.job = some (if j.part + j.want < chunkCount c i then y else { y with chunk := i + 1, part := 0 }))) ∧
    (∀ (j : CJob), s.Sole 0 q → core = q.core → calm → k.copy.job = some j → j.card = q →
      (j.fault ≠ none ∨ jobTotal c ≤ j.chunk * chunkEls (jobOut c)) → fifoOf c = none →
      ∃ u, exec (.copyJobComplete core) s = .next u ∧ s.cardEnds u 0 q 1 false j.fault ∧ u.mem = s.mem ∧ (u.core core).copy.job = none) ∧
    (let m := k.mat
     let rows := Card.f c 71 64
     let cols := Card.f c 79 72
     let ta := Card.ty c 36 32
     let tb := Card.ty c 41 37
     let acc (t : List (BitVec 32)) (r j : Nat) : BitVec 32 := t.getD (64 * r + j) 0
     let fed := rows * runBytes ta ≤ m.fa.length ∧ cols * runBytes tb ≤ m.fb.length
     rows ≤ 32 → cols ≤ 64 → m.tile.length = 2048 →
     -- a command fires: with C where it accumulates, and holds no tile of C
     (fed → s.Sole 1 q → core = q.core → m.run = none → m.wrs = [] → (s.cluster cl).fireable q.id = true →
       (mmaIv c).1 + (mmaIv c).2 ≤ x.size 3 →
       ∃ u d, exec (.mmaFire core) s = .next u ∧ u.mem = s.mem ∧
         let v := (u.core core).mat
         (∃ f, f ≤ d ∧ v.run = some ⟨q, 0, d, false, 32, f⟩) ∧ s.now + 32 * 2048 / pairRate c ≤ d ∧ (d, Instr.mmaFire core) ∈ u.agenda ∧
         v.fa = m.fa ∧ v.fb = m.fb ∧ v.tile.length = 2048 ∧
         ∀ r j, r < rows → j < cols → acc v.tile r j = if m.holds c then acc m.tile r j else
           BitVec.ofNat 32 (x.c.read (Card.addr c 128 + r * Card.f c 223 192 + 4 * j) 4)) ∧
     -- the steps of a group have ended
     (∀ R : MRun, m.run = some R → R.card = q → R.due ≤ s.now → R.k = 32 → R.step < mmaGroups c →
       let fresh := R.step = 0 ∧ c.getLsbD 43 = false
       let byte (l : List Byte) (r i : Nat) : Int := (l.getD (32 * r + i) 0).toInt
       let num (t : ETy) (l : List Byte) (r i : Nat) : Option Rat :=
         Spec.number (Num.valOf t (leNat ((l.drop (r * runBytes t)).take (runBytes t)) >>> (i * t.bits) % 2 ^ t.bits)).1
       ∃ u, exec (.mmaFire core) s = .next u ∧ u.mem = s.mem ∧
         let v := (u.core core).mat
         v.fa = m.fa.drop (rows * runBytes ta) ∧ v.fb = m.fb.drop (cols * runBytes tb) ∧
         (∀ p, p < 2048 → ¬(p / 64 < rows ∧ p % 64 < cols) → v.tile.getD p 0 = m.tile.getD p 0) ∧
         (ta = .int8 → tb = .int8 → c.getLsbD 44 = true → ∀ r j, r < rows → j < cols →
           let z := (if fresh then 0 else (acc m.tile r j).toInt) + ((List.range 32).map fun i => byte m.fa r i * byte m.fb j i).sum
           acc v.tile r j = BitVec.ofInt 32 (if c.getLsbD 45 then max (-(2 ^ 31)) (min (2 ^ 31 - 1) z) else z)) ∧
         (isBlockTy ta = false → isBlockTy tb = false → c.getLsbD 44 = false → ∀ r j, r < rows → j < cols →
           ∀ xs ys : Nat → Rat, (∀ i, i < 32 → num ta m.fa r i = some (xs i) ∧ num tb m.fb j i = some (ys i)) →
           ∃ ng M e, Spec.val ng M e = ((List.range 32).map fun i => xs i * ys i).sum ∧
             let env : Num.Env := ⟨Card.rnd c, false, false, c.getLsbD 45⟩
             let g := (Num.roundTo .fp32 env ng M e).r
             acc v.tile r j = BitVec.ofNat 32 (if fresh then g else
               (Num.addV .fp32 env (Num.valOf .fp32 (acc m.tile r j).toNat).1 (Num.valOf .fp32 g).1).r)) ∧
         (R.step + 1 < mmaGroups c → v.wrs = m.wrs ∧ ∃ R', v.run = some R' ∧ R'.card = q ∧ R'.step = R.step + 1) ∧
         (R.step + 1 = mmaGroups c → v.run = none ∧ v.valid = true ∧ ∃ t d sat, v.wrs = m.wrs ++ [⟨q, t, d, sat⟩] ∧ s.now + 4 ≤ d ∧
           (d, Instr.mmaComplete core) ∈ u.agenda ∧ ∀ r j, r < rows → j < cols → t.getD (r * cols + j) 0 = acc v.tile r j)) ∧
     ∀ (tile : List (BitVec 32)) (due : Nat) (sat : Bool), s.Sole 1 q → core = q.core → m.wrs = [⟨q, tile, due, sat⟩] → due ≤ s.now →
       tile.length = rows * cols → 4 * cols ≤ Card.f c 223 192 → x.c.wf = true →
       ∃ u, exec (.mmaComplete core) s = .next u ∧ s.cardEnds u 1 q 2 sat none ∧ u.mem = s.mem ∧ (u.core core).mat.wrs = [] ∧
         ∀ r j, r < rows → j < cols →
           ((u.core core).ctx q.cid).c.read (Card.addr c 128 + r * Card.f c 223 192 + 4 * j) 4 = (tile.getD (r * cols + j) 0).toNat)

/-- R237, R238, R259, R260, R263, R264, R266, R267, R268, R274. The Ellipsis engine takes a card with its model cycles and the map
handle of a MERGE; MERGE, UNMERGE row by row, ROUTE and MAPFREE. A collective whose cards are all posted goes through its phases,
has the sources read by their homes, sends each participant's destination to its homes, and ends its cards.
The model's choices in it: notes/assumptions/2, 14, 16, 17, 69, 75, 96. -/
def Obligations.EllipsisAndCollectives : Prop :=
  (∀ (s : State) (cl : Nat) (q : QCard), s.Sole 2 q → clusterOf q.core = cl →
    let c := q.card
    let C := s.cluster cl
    let A := ((s.core q.core).ctx q.cid).a
    let size := ((s.core q.core).ctx q.cid).size 2
    let holds (iv : Nat × Nat × Nat) : Prop := iv.2.1 + iv.2.2 ≤ size
    let up (n d : Nat) : Nat := (n + d - 1) / d
    let rows := Card.f c 79 64
    let E := Card.f c 95 80
    let par := Card.f c 148 144
    let alone := c.getLsbD 149 = true
    let next (j : EJob) (d : Nat) : Prop := exec (.ellipsisJobStart cl) s = .next ({ s.updCluster cl fun c => { c with ejob := some j } with
      agenda := agendaAdd s.agenda (s.now + d) (ellEnd cl c) })
    let free (h : Nat) : Prop := (C.map h).st = 0
    let one (j : EJob) : Prop := C.ejob = some j ∧ j.card = q ∧ j.code = 0 ∧ j.start + j.cycles ≤ s.now
    let endsWith (ev : Instr) (fault : Option (Nat × Nat)) (f : State → Prop) : Prop := ∃ u, exec ev s = .next u ∧
      s.cardEnds u 2 q 3 false fault ∧ u.mem = s.mem ∧ (u.cluster cl).ejob = none ∧ f u
    let ended (ev : Instr) (f : State → Prop) : Prop := endsWith ev none f
    let a' (u : State) : Mem := ((u.core q.core).ctx q.cid).a
    (∀ w, C.ejob = none → C.win.find? (·.card.id == q.id) = some w → w.deps = [] → w.since ≤ s.now →
      (∀ u h, Card.type c = 0x20 → (alone ∨ (C.map par).st = 1 ∧ (C.map par).child = false ∧ (C.map par).m = rows) →
        u = rows - Card.f c 127 112 → h < 32 → free h → (∀ i, i < h → ¬free i) → (∀ iv ∈ mergeIvs c, holds iv) →
        let n := 16 + 2 * rows * up (Card.f c 111 96) 64 + up u 2 * (u / 2) * up (Card.f c 111 96) 64 + up u 2 + 2 * rows * up E 64
        next ⟨q, s.now, n, h, 0, 0, 0⟩ n) ∧
      (Card.type c = 0x20 → alone → (∀ i, i < 32 → ¬free i) → next ⟨q, s.now, 16, 0, 0x44, 0, 0⟩ 16) ∧
      (Card.type c = 0x22 → (∀ iv ∈ routeIvs c, holds iv) →
        let n := 16 + rows * up E 64 * (Card.f c 39 37 + 1) + E
        next ⟨q, s.now, n, 0, 0, 0, 0⟩ n) ∧
      (Card.type c = 0x23 → c.getLsbD 69 = true → next ⟨q, s.now, 4, Card.f c 68 64, 0, 0, 0⟩ 4) ∧
      (Card.type c = 0x23 → c.getLsbD 69 = false → free (Card.f c 68 64) → next ⟨q, s.now, 4, Card.f c 68 64, 0x43, 0, 0⟩ 4) ∧
      (Card.type c = 0x21 → let r := C.map (Card.f c 68 64)
        (r.st = 1 → r.child = false → r.core = coreNo q.core → (∀ iv ∈ unmergeIvs c r, holds iv) → overlapBad (unmergeIvs c r) = [] →
          next ⟨q, s.now, 16 + 2 * r.n * up E 64, Card.f c 68 64, 0, 0, 0⟩ 16) ∧
        (r.st = 2 → r.child = false → next ⟨q, s.now, 16, Card.f c 68 64, 0x45, 0, 0⟩ 16))) ∧
    (∀ j, one j → Card.type c = 0x23 →
      (c.getLsbD 69 = true → ended (.mapfreeJob cl) fun u => ∀ h, ((u.cluster cl).map h).st = 0) ∧
      (c.getLsbD 69 = false → j.handle < 32 → ended (.mapfreeJob cl) fun u => ((u.cluster cl).map j.handle).st = 0 ∧
        ((C.map j.handle).nopar = false → (C.map j.handle).parent < 32 → (C.map j.handle).parent ≠ j.handle →
          ((u.cluster cl).map (C.map j.handle).parent).child = false))) ∧
    (∀ j, C.ejob = some j → j.card = q → j.code = 0 → Card.type c = 0x21 → j.handle < 32 → A.wf = true →
      let r := C.map j.handle
      let rb := E * (Card.wd c 36 32 / 8)
      let step := 2 * up E 64
      let at' := j.start + 16 + j.row * step
      let src := A.read (r.mapoff + 2 * j.row) 2
      let dst := Card.f c 191 160 + j.row * rb
      at' ≤ s.now →
      (j.row < r.n → src < r.m → ∃ u, exec (.unmergeJob cl) s = .next u ∧ u.mem = s.mem ∧
        (u.cluster cl).ejob = some { j with row := j.row + 1 } ∧
        u.agenda = agendaAdd s.agenda (max s.now (at' + step)) (.unmergeJob cl) ∧
        (∀ b, b < rb → (a' u).get (dst + b) = A.get (Card.f c 159 128 + src * rb + b)) ∧
        ∀ b, b < dst ∨ dst + rb ≤ b → (a' u).get b = A.get b) ∧
      (j.row < r.n → r.m ≤ src → endsWith (.unmergeJob cl) (some (0x48, r.mapoff + 2 * j.row)) fun u => a' u = A) ∧
      (r.n ≤ j.row → ended (.unmergeJob cl) fun u => a' u = A ∧
        ((u.cluster cl).map j.handle).st = if c.getLsbD 37 then 0 else r.st)) ∧
    (∀ j, one j → Card.type c = 0x20 → j.handle < 32 → A.wf = true → (alone ∨ par ≠ j.handle) → overlapBad (mergeIvs c) = [] →
      Card.f c 143 128 ≤ rows →
      let depth := if alone then 1 else (C.map par).depth + 1
      ended (.mergeJob cl) fun u =>
        (u.cluster cl).map j.handle =
          ⟨1, coreNo q.core, c.getLsbD 149, par, depth, false, rows, rows - Card.f c 143 128, Card.f c 383 352⟩ ∧
        (¬alone → ((u.cluster cl).map par).child = true) ∧
        (a' u).read (Card.f c 415 384) 8 = j.handle + depth % 2 ^ 8 * 2 ^ 8 + (rows - Card.f c 143 128) * 2 ^ 16 ∧
        (Card.f c 143 128 = 0 → ∀ t, t < rows → (a' u).read (Card.f c 383 352 + 2 * t) 2 = t ∧
          (a' u).read (Card.f c 351 320 + 4 * t) 4 = A.read (Card.f c 287 256 + 4 * t) 4)) ∧
    (∀ j, one j → Card.type c = 0x22 → A.wf = true → overlapBad (routeIvs c) = [] → Card.f c 39 37 = 0 → Card.f c 111 96 = 0 → 0 < E →
      Card.ty c 36 32 = .fp32 →
      let logit (t e : Nat) : Nat := A.read (Card.f c 159 128 + 4 * (t * E + e)) 4
      ended (.routeJob cl) fun u => (a' u).read (Card.f c 383 352) 8 = rows ∧
        ∀ t, t < rows → let e := (a' u).read (Card.f c 223 192 + 2 * t) 2
          e < E ∧ ∀ x, x < E → Num.rankLess (f32 (logit t e)) (f32 (logit t x)) = false ∧
            (x < e → Num.rankLess (f32 (logit t x)) (f32 (logit t e)) = true))) ∧
  ∀ (s : State) (n : Nat) (X : Coll) (g : Group) (q r : QCard), tget s.colls n = some X → X.cards = [q, r] →
    s.groupOf q = some g →
    (∀ d, d ∈ s.localDies g ↔ d = dieOf q.core ∨ d = dieOf r.core) → s.goes q.core = true → s.goes r.core = true →
    (X.left = [] → X.ready = true → X.phase ≥ 2 → ∃ u d, exec (.collectivePhaseEnd n) s = .next u ∧ d > s.now ∧
      tget u.colls n = some { X with phase := X.phase - 1 } ∧ u.agenda = agendaAdd s.agenda d (.collectivePhaseEnd n) ∧ u.mem = s.mem) ∧
    (X.left = [] → X.ready = true → X.phase = 1 → ∃ u d, exec (.collectivePhaseEnd n) s = .next u ∧ d > s.now ∧
      tget u.colls n = some { X with phase := 0 } ∧ u.agenda = agendaAdd s.agenda d (.collectiveComplete n) ∧ u.mem = s.mem) ∧
    (X.left = [] → X.ready = false → ∃ u p, exec (.collectivePhaseEnd n) s = .next u ∧ tget u.colls n = some { X with ready := true, phase := p } ∧
      u.mem = s.mem) ∧
    (X.ready = true → X.phase = 0 → X.turns = [] → dieOf q.core ≠ dieOf r.core → s.Sole 3 q → s.Sole 3 r →
      -- the cards end, once the destinations stand
      (∀ f g' : Option (Nat × Nat), X.wrote = true → X.left = [(q, f), (r, g')] → (∀ p ∈ s.reqs, p.2.slot ≠ 16) →
        ∃ u, exec (.collectiveComplete n) s = .next u ∧ s.cardEnds u 3 q 4 false f ∧ s.cardEnds u 3 r 4 false g' ∧
          u.colls = tdel s.colls n ∧ u.mem = s.mem) ∧
      ∀ sl dl : Nat → Nat → Nat, X.wrote = false → X.left = [] → collKey q.card = collKey r.card → Card.f q.card 279 272 = 2 →
        Card.rank q.card = 0 → Card.rank r.card = 1 → (∀ d, (s.die d).off = false) →
        let S := s.seeing X.got
        let T := Card.type q.card
        let ty := Card.ty q.card 36 32
        let op := Card.f q.card 39 37
        let root := Card.f q.card 47 40
        let count := Card.f q.card 223 192
        let P (k : Nat) : QCard := if k = 0 then q else r
        let len (k : Nat) : Nat := if T = 0x32 then 2 * count else if T = 0x33 ∧ root ≠ k then 0 else count
        let out := if T = 0x31 then 2 * count else count
        let none' (_ : Nat) : Prop := False
        let a (k e : Nat) : Nat := S.mem.read (sl k e) 4
        let two (k e : Nat) : Nat :=
          let env : Num.Env := ⟨Card.rnd (P k).card, false, false, false⟩
          let x := a 0 e
          let y := a 1 e
          if ty = .int32 then
            if op = 0 then (x + y) % 2 ^ 32
            else if op = 1 then (if Num.sgn 32 x ≤ Num.sgn 32 y then x else y) else if Num.sgn 32 y ≤ Num.sgn 32 x then x else y
          else if op = 0 then (Num.fadd ty env x y).r else (Num.fminmax ty env (decide (op ≠ 1)) x y).r
        let val (k e : Nat) : Nat :=
          if T = 0x30 then two k e else if T = 0x31 then a (e / count) (e % count) else if T = 0x32 then two k (k * count + e)
          else a root e
        0x30 ≤ T → T ≤ 0x33 → (ty = .int32 ∨ ty = .fp32) → (T = 0x33 → root < 2) → S.badLines = [] →
        (∀ k, k < 2 → Card.sp (P k).card 64 = 0 ∧ Card.sp (P k).card 128 = 0 ∧
          (∀ e, e < len k → S.engAt (P k) .load ty 0 (Card.addr (P k).card 64 + 4 * e) 4 (sl k e) none') ∧
          ∀ e, e < out → s.engAt (P k) .store ty 0 (Card.addr (P k).card 128 + 4 * e) 4 (dl k e) none') →
        let reads := unread X.got (S.collHits q ++ S.collHits r)
        -- the homes read the sources
        (reads ≠ [] → ∃ u id ids, exec (.collectiveComplete n) s = .next u ∧ u.mem = s.mem ∧
          u.colls = tput s.colls n { X with turns := id :: ids }) ∧
        -- and are sent the destinations
        (reads = [] → ∃ u ids, exec (.collectiveComplete n) s = .next u ∧ u.mem = s.mem ∧
          u.colls = tput s.colls n { X with turns := ids, got := [], wrote := true, left := [(q, none), (r, none)] } ∧
          (∀ k e, k < 2 → e < out → ∃ id ∈ ids, ∃ t, tget u.turns id = some t ∧ t.op = .store ∧ t.core = (P k).core ∧
            t.owner = .coll n (P k).id ∧ ∃ x ∈ t.els, x.loc = dl k e ∧ x.n = 4 ∧ x.data = val k e % 2 ^ 32) ∧
          ∀ id ∈ ids, ∃ t, tget u.turns id = some t ∧ ∀ x ∈ t.els, ∃ k e, k < 2 ∧ e < out ∧ x.loc = dl k e ∧
            x.data = val k e % 2 ^ 32))

/-- R85, R86, R87, R88, R333, R344, R347, R348. A queued launch is placed on clusters that qualify, its threads start, and it completes
when they have exited; a kill floods its die while what runs goes on until its core has the message, then empties each core, and
ends the launch; a second kill changes nothing; events are accepted in order.
The model's choices in it: notes/assumptions/2, 8, 37, 55, 56, 71, 78. -/
def Obligations.LaunchesKillsAndEvents : Prop :=
  ∀ (s : State) (die cid : Nat) (X : Ctx),
    let D := s.die die
    let posted (u : State) (d : Nat) (ev : Instr) : Prop := (s.now + d, ev) ∈ u.agenda
    let gone (u : State) : Prop := (u.die die).ctxs = tdel D.ctxs cid
    (∀ (l lv k : Nat) (x : Launch), tget s.launches l = some x → x.die = die → lv < 4 → D.queue.toList.getD lv [] = [⟨l, k⟩] →
      (∀ j, j ≠ lv → D.queue.toList.getD j [] = []) → s.early = false → D.off = false → s.asleep die = [] →
      (∀ p ∈ D.ctxs, p.2.st ≠ .out) → s.eligibleLaunch x = true →
      descGrid x.desc ≤ ((dieClusters die).filter fun cl => s.qualifies cl 0 (descRegions x.desc) (descNoevict x.desc)).length →
      ∃ (u : State) (grid : List Nat) (id : Nat), exec (.placement die) s = .next u ∧ u.mem = s.mem ∧ grid.length = descGrid x.desc ∧
        grid.Nodup ∧ tget D.ctxs id = none ∧ id ≥ 1 ∧ tget u.launches l = some { x with st := .running, cid := id } ∧
        (u.ctx die id).grid = grid ∧ (u.ctx die id).launch = l ∧ (u.ctx die id).st = .running ∧
        (u.ctx die id).root = descF x.desc 743 704 * 2 ^ 12 ∧ (∀ q ∈ (u.die die).queue.toList, q = []) ∧
        ∀ cl ∈ grid, cl / 16 = die ∧ s.qualifies cl 0 (descRegions x.desc) (descNoevict x.desc) = true ∧ (u.cluster cl).run = some id ∧
          ∀ n, n < 16 → (u.core (coreIn cl n)).run = some id ∧ (∀ t, u.thr (coreIn cl n, t) = Thread.empty) ∧
            ∃ d, 6 ≤ d ∧ d ≤ 1024 ∧ posted u d (.threadStartMessage (coreIn cl n) id)) ∧
    (∀ (core : Nat) (x : Launch), dieOf core = die → (s.core core).run = some cid → tget D.ctxs cid = some X → X.st = .running →
      tget s.launches X.launch = some x → (s.thr (core, 0)).st = .free → (core ∈ X.cores) →
      (∀ k ∈ X.cores, ((s.core k).ctx cid).regions.all (·.resident) = true) →
      exec (.threadStartMessage core cid) s = .next (s.setThr (core, 0) { Thread.empty with
        st := .ready, pc := BitVec.ofNat 48 (descF x.desc 111 64), next := alignUp (s.cyc die + 1) 0 })) ∧
    (∀ (l : Nat) (x : Launch) (cl : Nat) (rest : List Nat), tget s.launches l = some x → x.st = .running → x.die = die → x.cid = cid →
      tget D.ctxs cid = some X → X.launch = l → X.st = .running → X.killed = none → X.grid = cl :: rest →
      (∀ k ∈ X.cores, (s.thr (k, 0)).st = .exited) →
      let exit := (s.thr (coreIn cl 0, 0)).exitV
      let energy := (X.cores.map fun k => ((s.core k).ctx cid).settled.energy.toNat).sum
      (s.openCards die cid = 0 → ∃ u, exec (.launchComplete l) s = .next u ∧ u.mem = s.mem ∧ gone u ∧
        tget u.launches l = some { x with st := .ended 0, exit := exit } ∧
        (⟨1, die, cid, BitVec.ofNat 64 x.id, exit, BitVec.ofNat 64 (energy % 2 ^ 48 * 2 ^ 16), none, 0⟩ : Event) ∈ (u.die die).evq) ∧
      (s.openCards die cid ≠ 0 → ∃ u, exec (.launchComplete l) s = .next u ∧ u.mem = s.mem ∧
        tget u.launches l = some { x with draining := true } ∧
        (x.draining = false → (⟨9, die, cid, BitVec.ofNat 64 x.id, BitVec.ofNat 64 (s.openCards die cid), 0, none, 0⟩ : Event) ∈ (u.die die).evq))) ∧
    (tget D.ctxs cid = some X → X.killed = none →
      let st : CtxSt := if X.st = .running ∨ X.st = .preempting then X.st else .killed
      let started (ev : Instr) (reason : Nat) : Prop := ∃ u, exec ev s = .next u ∧ u.mem = s.mem ∧ u.cores = s.cores ∧
        tget (u.die die).ctxs cid = some { X with st := st, killed := some reason, windows := 256 } ∧
        ∀ i, i < 256 → posted u (msgTime (die * 256) (die * 256 + i) 1) (.killMessageArrival (die * 256 + i) cid)
      started (.kill die cid) 1 ∧ ∀ reason, started (.unhandledTrapKill die cid reason) reason) ∧
    (tget D.ctxs cid = none → exec (.kill die cid) s = .next { s.updDie die fun d => { d with done := true, err := false } with
      replies := s.replies ++ [.ctl die 4 false 0] }) ∧
    (tget D.ctxs cid = some X → X.killed ≠ none →
      exec (.kill die cid) s = .next s ∧ (∀ reason, exec (.unhandledTrapKill die cid reason) s = .next s) ∧
      (∀ core Y, dieOf core = die → (s.core core).run = some cid → tget (s.core core).ctxs cid = some Y →
        ∃ u, exec (.killMessageArrival core cid) s = .next u ∧ u.mem = s.mem ∧ posted u 2048 (.killWindowEnd core cid) ∧
          (u.core core).run = none ∧ (u.core core).ctxs = tdel (s.core core).ctxs cid ∧ (∀ t, u.thr (core, t) = Thread.empty) ∧
          (u.core core).mat.fa = [] ∧ (u.core core).mat.fb = [] ∧ (u.core core).wl = [] ∧
          (u.ctx die cid).esum = X.esum + Y.settled.energy.toNat ∧ (u.ctx die cid).st = X.st ∧
          (∀ cl rest, X.grid = cl :: rest → (core = coreIn cl 0 → (s.thr (core, 0)).st = .exited →
            (u.ctx die cid).exitK = (s.thr (core, 0)).exitV) ∧
            (core ≠ coreIn cl 0 → (u.ctx die cid).exitK = X.exitK))) ∧
      (∀ core Y T rest cl g, dieOf core = die → (s.core core).run ≠ some cid → tget (s.core core).ctxs cid = some Y → X.grid = cl :: g →
        core = coreIn cl 0 → Y.kept = T :: rest → T.st = .exited → ∃ u, exec (.killMessageArrival core cid) s = .next u ∧
          u.mem = s.mem ∧ (u.ctx die cid).exitK = T.exitV ∧ (u.core core).ctxs = tdel (s.core core).ctxs cid) ∧
      (∀ core, dieOf core = die → X.windows > 0 → ∃ u, exec (.killWindowEnd core cid) s = .next u ∧ u.mem = s.mem ∧
        tget (u.die die).ctxs cid = some { X with windows := X.windows - 1 } ∧
        (X.windows = 1 → ∃ d, d > 0 ∧ posted u d (.killDone die cid))) ∧
      (∀ x reason, X.windows = 0 → X.killed = some reason → tget s.launches X.launch = some x → x.die = die →
        ∃ u, exec (.killDone die cid) s = .next u ∧ u.mem = s.mem ∧ gone u ∧
          tget u.launches X.launch = some { x with st := .ended 1, exit := X.exitK } ∧
          (⟨6, die, cid, BitVec.ofNat 64 reason, 0, 0, none, 0⟩ : Event) ∈ (u.die die).evq ∧
          (⟨1, die, cid, BitVec.ofNat 64 x.id, X.exitK, BitVec.ofNat 64 (1 + X.esum % 2 ^ 48 * 2 ^ 16), none, 0⟩ : Event) ∈ (u.die die).evq)) ∧
    ∀ e rest, D.evq = e :: rest → e.die = die → (e.type = 8 → ∀ d, (s.die d).off = false) → ∃ u, exec (.eventAcceptance die) s = .next u ∧ u.events = s.events ++ [(s.seqNo, e)] ∧
      u.seqNo = s.seqNo + 1 ∧ (e.type ≠ 8 → (u.die die).evq = rest ∧ u.mem = s.mem ∧ u.cores = s.cores) ∧
      (∀ r, e.kill = some r → posted u 0 (.unhandledTrapKill die e.cid r))

/-- R10, R190, R191, R312, R339 to R343, R357. A context is pre-empted: its waits are abandoned, its nodes stop at the read-out, and with
every acknowledgement its cores are saved; the save area holds the registers; the last core switched out ends the switch. Its
regions become resident again, and its cores are read back. A save that has stopped goes on, or to a new area.
The model's choices in it: notes/assumptions/45 to 54, 97, and 42: that the lowest free banks are taken is the model's choice. -/
def Obligations.ContextSwitch : Prop :=
  ∀ (s : State) (die cid core : Nat) (X : Ctx) (Y : CCtx), tget (s.die die).ctxs cid = some X → tget (s.core core).ctxs cid = some Y →
    dieOf core = die → core ∈ X.cores →
    let posted (u : State) (d : Nat) (ev : Instr) : Prop := (s.now + d, ev) ∈ u.agenda
    let own (u : State) : CCtx := (u.core core).ctx cid
    let running := (s.core core).run = some cid
    let on := ∀ d, (s.die d).off = false
    let done (u : State) : Prop := (u.die die).done = true ∧ (u.die die).err = false
    let refused (ev : Instr) (code : Nat) : Prop := exec ev s = .next { s.updDie die fun d => { d with done := true, err := true } with
      replies := s.replies ++ [.ctl die code true 0] }
    (∀ forced, X.st = .running → X.killed = none → (∀ k ∈ X.cores, (s.core k).halted = false) → ∃ u, exec (.preempt die cid forced) s = .next u ∧
      u.mem = s.mem ∧ tget (u.die die).ctxs cid = some { X with st := .preempting, forced := forced } ∧
      posted u 1 (.preemptComplete die cid) ∧
      (∀ cl ∈ X.grid, posted u (if forced then 0 else 65536) (.regionForcedReadout cl)) ∧
      ∀ k ∈ X.cores, ∀ t p, t < 16 → (s.thr (k, t)).node = none → (s.thr (k, t)).pend = some p →
        (PendK.abandoned p.kind false = true → (u.thr (k, t)).pend = none ∧ (u.thr (k, t)).pc = (s.thr (k, t)).pc ∧
          ((s.thr (k, t)).st = .waiting → (u.thr (k, t)).st = .ready)) ∧
        (PendK.abandoned p.kind false = false → u.thr (k, t) = s.thr (k, t))) ∧
    (∀ forced, X.st ≠ .running ∨ X.killed ≠ none → refused (.preempt die cid forced) 3) ∧
    (∀ cl t0 b, (s.cluster cl).pre = some (t0, b) → (s.cluster cl).run = some cid → cl / 16 = die →
      (X.forced = true ∨ t0 + 65536 ≤ s.now → ∃ u, exec (.regionForcedReadout cl) s = .next u ∧ u.mem = s.mem ∧
        (u.cluster cl).pre = some (t0, true) ∧
        (∀ n gi G, (s.cluster cl).graphs = [(gi, G)] → G.busy = true → n < G.nodes.length → (u.graph cl gi).waits = [] ∧
          ((u.graph cl gi).node n).st = if (G.node n).st = 3 then 5 else (G.node n).st) ∧
        ∀ n t p, n < 16 → t < 16 → (s.thr (coreIn cl n, t)).node.isSome = true → (s.thr (coreIn cl n, t)).pend = some p →
          PendK.abandoned p.kind true = true → (u.thr (coreIn cl n, t)).pend = none) ∧
      (X.forced = false → s.now < t0 + 65536 → exec (.regionForcedReadout cl) s = .next s)) ∧
    (X.st = .preempting → X.killed = none →
      (s.acked die cid = false → exec (.preemptComplete die cid) s = .next (s.post 1 (.preemptComplete die cid))) ∧
      (s.acked die cid = true → ∃ u, exec (.preemptComplete die cid) s = .next u ∧ u.mem = s.mem ∧ (u.ctx die cid).st = .saving ∧
        (own u).progress = 0 ∧ (own u).saved = false ∧ ∃ d, d > 0 ∧ posted u d (.contextSave core cid))) ∧
    (∀ b0, running → X.st = .saving → Y.saved = false → Y.progress = 0 → coreNo core ≠ 0 → 0x32500 ≤ Y.savelen → s.mem.wf = true →
      on →
      (s.core core).cid = cid →
      (∀ m : Mem, (∀ a, a < b0 ∨ b0 + 0x32500 ≤ a → m.get a = s.mem.get a) → ∀ off, off % 64 = 0 → off < 0x32500 →
        ∃ e, { s with mem := m }.transEng core cid ((Y.savebase.toNat + off) % 2 ^ 48) = .leaf e ∧
          permitted (s.partOf die cid).keys .store true e = true ∧ Entry.loc e ((Y.savebase.toNat + off) % 2 ^ 48) = b0 + off) →
      ∃ u, exec (.contextSave core cid) s = .next u ∧ (own u).saved = true ∧ (∀ a, a < b0 ∨ b0 + 0x32500 ≤ a → u.mem.get a = s.mem.get a) ∧
        u.mem.read b0 8 = 1 + cid % 2 ^ 16 * 2 ^ 16 ∧ u.mem.read (b0 + 16) 8 = Y.settled.energy.toNat + Y.settled.esat.toNat * 2 ^ 48 ∧
        (∀ n, n < 64 → u.mem.read (b0 + 0x100 + 8 * n) 8 = ((s.core core).tagAt n).status.toNat) ∧
        (∀ t, t < 16 → (s.thr (core, t)).st = .ready → (s.thr (core, t)).pend = none → (s.thr (core, t)).hreply = none →
          u.mem.read (b0 + threadAt t + 0x190) 8 = (s.thr (core, t)).pc.toNat ∧
          ∀ r : Fin 32, r ≠ 0 → u.mem.read (b0 + threadAt t + 8 * (r.val - 1)) 8 = ((s.thr (core, t)).g.get r).toNat) ∧
        ((∀ k ∈ X.cores, k ≠ core → ((s.core k).ctx cid).saved = true) → (u.ctx die cid).st = .out ∧
          (∀ k ∈ X.cores, (u.core k).run = none) ∧ (⟨5, die, cid, 0, 0, 0, none, 0⟩ : Event) ∈ (u.die die).evq) ∧
        ((∃ k ∈ X.cores, k ≠ core ∧ ((s.core k).ctx cid).saved = false) → (u.ctx die cid).st = .saving)) ∧
    (running → X.st = .saving → Y.saved = false → Y.progress = 0 → Y.savelen < 64 → on → ∃ u, exec (.contextSave core cid) s = .next u ∧
      (own u).saved = false ∧ progFault (own u).progress = 0xF0 ∧ (u.ctx die cid).st = .saving) ∧
    (running → X.st ≠ .killed →
      (Y.regions.all (·.resident) = true → X.st ≠ .restoring → exec (.lazySave core cid) s = .next s) ∧
      (Y.regions.all (·.resident) = true → X.st = .restoring → ∃ u d, exec (.lazySave core cid) s = .next u ∧ d > 0 ∧
        u.mem = s.mem ∧ posted u d (.contextRestore core cid)) ∧
      (∀ r, Y.regions = [r] → r.resident = false → r.saved = false → r.banks ≤ ((s.core core).freeBanks r.buf).length →
        ∃ u, exec (.lazySave core cid) s = .next u ∧ u.mem = s.mem ∧ (own u).regions =
          [{ r with resident := true, phys := ((s.core core).freeBanks r.buf).take r.banks }])) ∧
    (running → X.st = .saving → Y.saved = false → progFault Y.progress ≠ 0 → exec (.contextSave core cid) s = .next s) ∧
    (running → X.st = .restoring → X.killed = none → Y.saved = true → on →
      let back := s.areaLoad core cid Y.savebase.toNat (unitsFrom 0 0x32500)
      let corrupt : Prop := ∃ u, exec (.contextRestore core cid) s = .next u ∧ u.mem = s.mem ∧
        tget (u.die die).ctxs cid = some { X with st := .killed, killed := some 2, windows := 256 }
      (∀ c, back = .error c → corrupt ∧ (c = 0x18 → ∃ u, exec (.contextRestore core cid) s = .next u ∧ posted u 0 (.tdiError X.part))) ∧
      ∀ m, back = .ok m → (imageBad m = true → corrupt) ∧
        (∀ c, imageBad m = false → coreNo core = 0 → ({ s with serial := s.serial + 64 }.updCore core fun k =>
          k.load cid core s.serial m).clusterRestore core cid = .error c → corrupt) ∧
        (imageBad m = false → coreNo core ≠ 0 → X.acks > 1 → ∃ u, exec (.contextRestore core cid) s = .next u ∧ u.mem = s.mem ∧
          tget (u.die die).ctxs cid = some { X with acks := X.acks - 1 } ∧ (own u).saved = false ∧
          (∀ n, n < 64 → ((u.core core).tagAt n).status = BitVec.ofNat 64 (m.read (0x100 + 8 * n) 8)) ∧
          ∀ t, t < 16 → m.read (threadAt t + 0x198) 8 % 8 = 1 → let T := u.thr (core, t)
            T.st = .ready ∧ T.pend = none ∧ T.pc = BitVec.ofNat 48 (m.read (threadAt t + 0x190) 8) ∧
            ∀ r : Fin 32, r ≠ 0 → T.g.get r = BitVec.ofNat 64 (m.read (threadAt t + 8 * (r.val - 1)) 8)) ∧
        (imageBad m = false → coreNo core ≠ 0 → X.acks = 1 → ∃ u, exec (.contextRestore core cid) s = .next u ∧
          (u.ctx die cid).st = .running)) ∧
    (progFault Y.progress ≠ 0 → X.st = .saving → ∃ u, exec (.saveResume die cid core) s = .next u ∧ u.mem = s.mem ∧ done u ∧
      (own u).progress = progressOf (progOff Y.progress) (progSec Y.progress) 0 ∧ posted u 1 (.contextSave core cid)) ∧
    (progFault Y.progress ≠ 0 → X.st ≠ .saving → X.st ≠ .killed → Y.regions = [] → X.leaving = [] → ∃ u,
      exec (.saveResume die cid core) s = .next u ∧ u.mem = s.mem ∧ done u ∧ posted u 0 (.placement die) ∧
      progFault (own u).progress = 0 ∧ ∀ r, (s.core core).run = some r → posted u 1 (.lazySave core r)) ∧
    (progFault Y.progress = 0 ∨ X.st = .killed → refused (.saveResume die cid core) 5) ∧
    ∀ base len, let ev : Instr := .saveArea die cid core base len
      (progFault Y.progress = 0 ∨ X.st = .killed ∨ base % 64 ≠ 0 ∨ base ≥ 2 ^ 48 ∨ len % 64 ≠ 0 ∨ len < 0xC4500 → refused ev 10) ∧
      (progFault Y.progress ≠ 0 → X.st ≠ .killed → base % 64 = 0 → base < 2 ^ 48 → len % 64 = 0 → 0xC4500 ≤ len →
        progOff Y.progress = 0 → progSec Y.progress ≠ 17 → (∀ r ∈ Y.regions, r.saved = false) →
        ∃ u, exec ev s = .next u ∧ u.mem = s.mem ∧ done u ∧ (own u).savebase = BitVec.ofNat 48 base ∧ (own u).savelen = len)

/-- R205, R335, R345, R346, R349, R350, R357, R358, R359. The context control: invalidation, interrupts, the idle counter, groups; the
debugger halts a core, reads and writes its registers, steps a thread, and lets it go. Static energy, a wasted turn, the permits of
a link, and the blocks that a link receives. The model's choices in it: notes/assumptions/5, 58, 59, 68, 72, 73, 74. -/
def Obligations.ControlDebugEnergyAndLinks : Prop :=
  ∀ (s : State) (die cid core : Nat) (X : Ctx), tget (s.die die).ctxs cid = some X → dieOf core = die →
    let c := s.core core
    let posted (u : State) (d : Nat) (ev : Instr) : Prop := (s.now + d, ev) ∈ u.agenda
    let bug := c.run = some cid ∧ X.debug = true ∧ X.st = .running
    let stopped := bug ∧ c.halted = true
    (∀ va n, ∃ u, exec (.invalidate die cid va n) s = .next u ∧ u.mem = s.mem ∧ (u.die die).done = true ∧ (u.die die).err = false ∧
      ∀ e : TlbEnt, e.cid ≠ cid ∨ Entry.lrg e.leaf = false →
        let keep := e.cid ≠ cid ∨ e.vpn < va % 2 ^ 48 / 2 ^ 16 ∨ va % 2 ^ 48 / 2 ^ 16 + n ≤ e.vpn
        (e ∈ (u.core core).tlb ↔ e ∈ c.tlb ∧ keep) ∧ (e ∈ (u.cluster (clusterOf core)).tlb ↔ e ∈ (s.cluster (clusterOf core)).tlb ∧ keep)) ∧
    exec (.idleRead die core) s = .next (s.commandDone die 6 false (BitVec.ofNat 64 c.idle)) ∧
    (∀ d, dieOf core ≠ d → exec (.idleRead d core) s = .next (s.commandDone d 6 true 0)) ∧
    (∀ group npart members, let ok := 2 ≤ npart ∧ npart < 256 ∧ members.length = npart ∧ group < 2 ^ 16
      (ok → (∀ p ∈ s.colls, p.2.group ≠ group) → exec (.groupSet die group npart members) s =
        .next ({ s with groups := tput s.groups (die * 2 ^ 16 + group) ⟨npart, members⟩ }.commandDone die 9 false 0)) ∧
      (¬ok → exec (.groupSet die group npart members) s = .next (s.commandDone die 9 true 0))) ∧
    (∀ (t : Nat) (w : BitVec 32), let ev : Instr := .interrupt die cid core t w
      let T := s.thr (core, t)
      let int (u : State) : Prop := exec ev s = .next (u.commandDone die 2 false 0)
      let set (k : Key) := s.updThr k fun t => { t with tint := BitVec.ofNat 64 (2 ^ 63 + w.toNat) }
      let K : Key := if T.st = .away then s.whereIs (core, t) else (core, t)
      let goes := c.run = some cid ∧ (X.st = .running ∨ X.st = .preempting)
      let here : Bool := c.run == some cid && !(X.st == .restoring && (c.ctx cid).saved)
      let R := if here then s.recThread core t else (c.ctx cid).kept.getD t .empty
      (t < 16 → core ∈ X.cores → goes → T.st = .ready ∨ T.st = .waiting ∨ T.st = .away →
        ((s.thr K).pend = none → int (set K)) ∧
        ∀ p, (s.thr K).pend = some p → int { set K with agenda := agendaAdd s.agenda s.now (.waitTimeout K.1 K.2 p.serial) }) ∧
      (t < 16 → core ∈ X.cores → goes → T.st ≠ .ready → T.st ≠ .waiting → T.st ≠ .away → exec ev s = .next (s.commandDone die 2 true 0)) ∧
      (t < 16 → core ∈ X.cores → ¬goes → X.st ≠ .killed → (R.st = .ready ∨ R.st = .waiting →
        int (s.updCore core fun c => c.updCtx cid fun y => { y with held := y.held ++ [(t, w)] })) ∧
        (R.st ≠ .ready → R.st ≠ .waiting → exec ev s = .next (s.commandDone die 2 true 0))) ∧
      (t ≥ 16 ∨ core ∉ X.cores ∨ X.st = .killed → exec ev s = .next (s.commandDone die 2 true 0))) ∧
    (bug → c.halted = false → ∃ u, exec (.debugHalt die core) s = .next u ∧ u.mem = s.mem ∧ (u.core core).halted = true ∧
      (u.die die).done = true ∧ (u.die die).err = false ∧ ∀ t, u.thr (core, t) = s.thr (core, t)) ∧
    (¬bug → c.run = some cid → exec (.debugHalt die core) s = .next (s.commandDone die 7 true 0) ∧
      exec (.debugGo die core) s = .next (s.commandDone die 8 true 0)) ∧
    (stopped → ∃ u, exec (.debugGo die core) s = .next u ∧ u.mem = s.mem ∧ (u.core core).halted = false ∧ (u.core core).dstep = none ∧
      (u.die die).done = true ∧ (u.die die).err = false) ∧
    (∀ (t : Nat) (r : Fin 32) (buf : Nat) (v : Word), t < 16 → r ≠ 0 → (s.thr (core, t)).Plain →
      let off := threadAt t + 8 * (r.val - 1)
      (stopped → s.appMem.wf = true → ∃ u, exec (.debugRead die cid core off 8 buf) s = .next u ∧ u.mem = s.mem ∧ u.cores = s.cores ∧
        u.appMem.read buf 8 = ((s.thr (core, t)).g.get r).toNat) ∧
      (stopped → ∃ u, exec (.debugWrite die cid core off (leBytes 8 v.toNat)) s = .next u ∧ u.mem = s.mem ∧
        (u.die die).err = false ∧ (∀ i : Fin 32, i ≠ 0 → (u.thr (core, t)).g.get i = if i = r then v else (s.thr (core, t)).g.get i) ∧ (u.thr (core, t)).pc = (s.thr (core, t)).pc ∧
        ∀ j, j ≠ t → u.thr (core, j) = s.thr (core, j)) ∧
      (¬stopped → exec (.debugRead die cid core off 8 buf) s = .next (s.commandDone die 11 true 0) ∧
        exec (.debugWrite die cid core off (leBytes 8 v.toNat)) s = .next (s.commandDone die 12 true 0) ∧
        exec (.debugStep die cid core t) s = .next (s.commandDone die 13 true 0)) ∧
      (stopped → c.dstep = none → exec (.debugStep die cid core t) s = .next
        ((s.updCore core fun c => { c with dstep := some t }).updDie die fun d => { d with done := false, err := false })) ∧
      (c.dstep = some t → exec (.debugStepEnd core t) s = .next ((s.updCore core fun c => { c with dstep := none }).commandDone die 13 false 0)) ∧
      (c.dstep ≠ some t → exec (.debugStepEnd core t) s = .next s) ∧
      exec (.wastedSlot core t) s = .next (s.chargeRun core 1)) ∧
    (∀ Y, c.ctxs = [(cid, Y)] → let e := 2048 * ((Y.regions.filter (·.resident)).map (·.banks)).sum / 384
      ∃ u, exec (.staticEnergyTick core) s = .next u ∧ u.mem = s.mem ∧ (u.core core).idle = c.idle + (2048 - e) ∧
        ((u.core core).ctx cid).settled.energy.toNat = min (Y.settled.energy.toNat + e) (2 ^ 48 - 1)) ∧
    (∀ n l, (s.die die).links = [(n, l)] →
      let bad := l.permits + l.slots ≠ l.total ∧ l.retrain = none
      (¬bad → exec (.permitAudit die) s = .next s) ∧
      (bad → ∃ u d, exec (.permitAudit die) s = .next u ∧ u.mem = s.mem ∧ 1 ≤ d ∧ d ≤ 2048 ∧
        tget (u.die die).links n = some { l with retrain := some (s.now + d) } ∧ posted u d (.linkRetrainEnd die n) ∧
        (⟨7, die, 0, BitVec.ofNat 64 n, 0, 0, none, 0⟩ : Event) ∈ (u.die die).evq) ∧
      ∀ t, l.retrain = some t → (s.now < t → exec (.linkRetrainEnd die n) s = .next s) ∧
        (t ≤ s.now → exec (.linkRetrainEnd die n) s = .next (s.updDie die fun d =>
          { d with links := tput d.links n { l with permits := l.total, slots := 0, retrain := none } }))) ∧
    ∀ n p, tget s.ports n = some p →
      let ends (ok : Bool) (q : Port) : Prop := exec (.linkBlockReceive n ok) s = .next { s with ports := tput s.ports n q }
      (p.up = false → ∀ ok, exec (.linkBlockReceive n ok) s = .next s) ∧ (p.up = true → ends true { p with fails := 0 }) ∧
      (p.up = true → p.fails < 7 → ends false { p with fails := p.fails + 1 }) ∧
      (p.up = true → p.fails ≥ 7 → ∃ u, exec (.linkBlockReceive n false) s = .next u ∧ u.mem = s.mem ∧
        tget u.ports n = some ⟨false, 0, false⟩ ∧
        (∀ id r e, tget s.reqs id = some r → r.els = [e] → tget u.reqs id = some (
          if Config.onlyLink (dieOf r.core) n (e.loc / 2 ^ 46 % 64) = true ∧ r.tier = 2 ∧ r.accepted = false ∧ r.fault = none then
            { r with fault := some (0x18, e.va) } else r)) ∧ ∀ a ∈ s.parts, n / 2 ∈ a.2.dies → posted u 0 (.tdiError a.1))

/-- R351, R359, R361, R362, R363, R364. Boot takes the device to EARLY, then to FULL; a partition is configured, locked with its memory
zeroed, started, stopped, and put in ERROR with its contexts killed; the SPDM responder answers requests in order only; idle units
enter their power states, and leave them; the host's registers.
The model's choices in it: notes/assumptions/2, 5, 64, 65, 67, 70. -/
def Obligations.BootPartitionsAndPower : Prop :=
  ∀ (s : State),
    let posted (u : State) (d : Nat) (ev : Instr) : Prop := (s.now + d, ev) ∈ u.agenda
    (s.boot = 0 → ∃ u d, exec .romVerify s = .next u ∧ u.mem = s.mem ∧ u.boot = 1 ∧ d > 0 ∧ posted u d .romVerify) ∧
    (s.boot = 1 → ∃ u, exec .romVerify s = .next u ∧ u.mem = s.mem ∧ ((u.boot = 4 ∧ u.agenda = s.agenda) ∨
      (u.boot = 2 ∧ u.inService = 1 ∧ u.clock = 650 ∧ ∃ d, d > 0 ∧ posted u d .fullEntry))) ∧
    (s.boot ≥ 2 → exec .romVerify s = .next s) ∧ (s.boot ≠ 2 → exec .fullEntry s = .next s) ∧
    (s.boot = 2 → ∃ u, exec .fullEntry s = .next u ∧ u.mem = s.mem ∧ u.trained = true ∧
      ((∃ p ∈ s.launches, p.2.st = .running) → u.boot = 2 ∧ posted u 1 .fullEntry) ∧
      ((∀ p ∈ s.launches, p.2.st ≠ .running) → u.boot = 3 ∧ u.inService = 0xFF ∧ u.clock = 1300)) ∧
    (∀ (n : Nat) (p : Part), tget s.parts n = some p →
      let now (st : Tdi) : State := { s with parts := tput s.parts n { p with st := st } }
      let killed (ev : Instr) (st : Tdi) : Prop := ∃ u, exec ev s = .next u ∧ u.mem = s.mem ∧ tget u.parts n = some { p with st := st } ∧
        ∀ die cid X, tget s.dies die = some (s.die die) → tget (s.die die).ctxs cid = some X → X.part = n →
          (u.ctx die cid).killed = if X.killed = none then some 1 else X.killed
      (p.st = .locked ∨ p.st = .run → killed (.tdiError n) .error) ∧
      (p.st ≠ .locked → p.st ≠ .run → exec (.tdiError n) s = .next s) ∧ killed (.stopInterface n) .unlocked ∧
      (p.st = .locked → exec (.startInterface n) s = .next (now .run)) ∧ (p.st ≠ .locked → exec (.startInterface n) s = .next s) ∧
      (p.st ≠ .unlocked → exec (.lockInterface n) s = .next s) ∧
      let used := s.parts.filter fun q => !q.2.dies.isEmpty
      let inOrder := Config.domain = true ∨ ∀ q ∈ used, q.2.dev = (used.filter fun r => decide (r.1 < q.1)).length
      (p.st = .unlocked → ¬inOrder → exec (.lockInterface n) s = .next s) ∧
      (p.st = .unlocked → inOrder → s.mem.wf = true → ∃ u, exec (.lockInterface n) s = .next u ∧ tget u.parts n = some { p with st := .locked } ∧
        ∀ a, u.mem.get a = if a < 2 ^ 52 ∧ ∃ d ∈ p.dies, a / 2 ^ 43 = p.dev * 8 + d then 0 else s.mem.get a) ∧
      ∀ dev dies keys,
        let other (q : Nat × Part) := q ∈ s.parts ∧ q.1 ≠ n ∧ q.2.dies ≠ []
        let own := ∀ q, other q → q.2.dev ≠ dev
        let numbered := Config.domain = true ∨ (dev ≤ n ∧ ∀ q, other q → (q.1 < n ↔ q.2.dev < dev))
        (p.st ≠ .unlocked → exec (.partitionConfiguration n dev dies keys) s = .next { s with
          agenda := agendaAdd s.agenda s.now (.tdiError n) }) ∧
        (p.st = .unlocked → n < 8 → dev < 64 → dies.length ∈ [1, 2, 4, 8] → dies.Nodup → (∀ d ∈ dies, s.inService.getLsbD d = true) →
          (∀ k ∈ keys, 1 ≤ k ∧ k ≤ 15) → (∀ q ∈ s.parts, q.1 ≠ n → ∀ d ∈ dies, d ∉ q.2.dies) → own → numbered → s.early = false →
          exec (.partitionConfiguration n dev dies keys) s = .next { s with parts := tput s.parts n ⟨.unlocked, dies, dev, keys⟩ }) ∧
        (p.st = .unlocked → n ≥ 8 ∨ dev ≥ 64 ∨ dies.length ∉ [1, 2, 4, 8] ∨ ¬dies.Nodup ∨ (∃ d ∈ dies, s.inService.getLsbD d = false) ∨
            (∃ k ∈ keys, k = 0 ∨ k > 15) ∨ (∃ q ∈ s.parts, q.1 ≠ n ∧ ∃ d ∈ dies, d ∈ q.2.dies) ∨ ¬own ∨ ¬numbered ∨
            (s.early = true ∧ (n ≠ 0 ∨ dies ≠ [0] ∨ dev ≠ 0)) →
          exec (.partitionConfiguration n dev dies keys) s = .next s)) ∧
    (let p := s.spdm
     let answers (ev : Instr) (q : Spdm) (code : Nat) : Prop := ∃ u ws, exec ev s = .next u ∧ u.mem = s.mem ∧ u.agenda = s.agenda ∧
       u.spdm = q ∧ u.ports = s.ports ∧ u.replies = s.replies ++ [.spdm code ws]
     let errs (ev : Instr) : Prop := answers ev p 0x7F
     answers .getVersion { p with version := true, caps := false, algs := false, kex := none } 0x04 ∧
     (p.version = true → answers .getCapabilities { p with caps := true } 0x61) ∧ (p.version = false → errs .getCapabilities) ∧
     (p.caps = true → answers .negotiateAlgorithms { p with algs := true } 0x63) ∧ (p.caps = false → errs .negotiateAlgorithms) ∧
     (p.caps = true → exec .negotiateAlgorithms s = .next { s with spdm := { p with algs := true }, replies := s.replies ++ [.spdm 0x63 [0x08, 1, 2, 2]] }) ∧
     (∀ (nonce : BitVec 256) (port : Option Nat) (i : Nat),
       (p.algs = true → answers .getDigests p 0x01 ∧ answers .getCertificate p 0x02 ∧ answers (.challenge nonce) p 0x03 ∧
         answers (.keyExchange port) { p with kex := some port } 0x64 ∧
         (i ≤ 5 ∨ i = 0xFF → answers (.getMeasurements i) p 0x60)) ∧
       (p.algs = false → errs .getDigests ∧ errs .getCertificate ∧ errs (.challenge nonce) ∧ errs (.keyExchange port) ∧
         errs (.getMeasurements i)) ∧
       (p.kex ≠ some port → errs (.finish port))) ∧
     (p.kex = some none → answers (.finish none) { p with kex := none, sessions := p.sessions + 1 } 0x65) ∧
     ∀ n, p.kex = some (some n) → ∃ u, exec (.finish (some n)) s = .next u ∧ u.mem = s.mem ∧
       u.spdm = { p with kex := none, sessions := p.sessions + 1 } ∧ tget u.ports n = some ⟨true, 0, true⟩) ∧
    (∀ i, let unit (n : Nat) (idle : Prop) (t : State) : Prop := s.boot ≥ 2 →
        (idle → s.tolerance.toNat ≥ exitNs n → exec (.powerStateEntry n i) s = .next t) ∧
        (s.tolerance.toNat < exitNs n ∨ ¬idle → exec (.powerStateEntry n i) s = .next s)
      unit 0 ((s.core i).run = none ∧ (s.core i).homeQ = []) (s.updCore i fun c => { c with pwr := 1 }) ∧
      let quiet (k : Nat) := (s.core k).homeQ = []
      let up (ev : Instr) (Q : State → Prop) : Prop := ∃ u, exec ev s = .next u ∧ u.mem = s.mem ∧ Q u
      unit 1 ((s.cluster i).run = none ∧ (∀ q ∈ (s.cluster i).eq.cards, q.released = true) ∧ ∀ n, n < 16 → quiet (coreIn i n))
        (s.updCluster i fun c => { c with pwr := 1 }) ∧
      unit 2 ((∀ p ∈ (s.die i).ctxs, p.2.st = .out) ∧ (∀ l ∈ (s.die i).queue.toList, l = []) ∧ (s.die i).walks = [] ∧ (s.die i).evq = [] ∧
        (∀ q ∈ (s.die i).colq.cards, q.released = true) ∧ ∀ p ∈ s.cores, dieOf p.1 = i → p.2.homeQ = [])
        ((s.updDie i fun d => { d with off := true }).post 0 (.powerStateEntry 3 0)) ∧
      unit 3 (∀ d, d < 8 → s.inService.getLsbD d = true → (s.die d).off = true) { s with deep := true } ∧
      (quiet i → exec (.powerStateExit 0 i) s = .next ((s.updCore i fun c => { c with pwr := 0 }).post 0 (.placement (dieOf i)))) ∧
      (¬quiet i → exec (.powerStateExit 0 i) s = .next (((s.updCore i fun c => { c with pwr := 0 }).post 0 (.homeAccess i)).post 0
        (.placement (dieOf i)))) ∧
      up (.powerStateExit 1 i) (fun u => (u.cluster i).pwr = 0 ∧ posted u 0 (.placement (i / 16)) ∧ ∀ n, n < 16 → ¬quiet (coreIn i n) →
        posted u 0 (.homeAccess (coreIn i n))) ∧
      (s.deep = false → up (.powerStateExit 2 i) fun u => (u.die i).off = false ∧ posted u 0 (.placement i) ∧
        ∀ p ∈ s.cores, dieOf p.1 = i → ¬quiet p.1 → posted u 0 (.homeAccess p.1)) ∧
      (s.deep = true → exec (.powerStateExit 2 i) s = .next s) ∧
      exec (.powerStateExit 3 i) s = .next { s with deep := false }) ∧
    exitNs 0 = 20 ∧ exitNs 1 = 2000 ∧ exitNs 2 = 40000 ∧ exitNs 3 = 300000 ∧
    ∀ (n : Nat) (v : Word), let cap (w : Nat) : State := { s with cap := BitVec.ofNat 64 (min w 2400) }
      (∃ u, exec (.latencyToleranceWrite n) s = .next u ∧ u.tolerance = BitVec.ofNat 64 n ∧ u.mem = s.mem) ∧
      (∃ u, exec (.hostRegisterWrite 0x40 v) s = .next u ∧ u.tolerance = v ∧ u.mem = s.mem) ∧
      exec (.powerCapWrite n) s = .next (cap n) ∧ exec (.hostRegisterWrite 0 v) s = .next s ∧
      exec (.hostRegisterWrite 0x48 v) s = .next (cap v.toNat) ∧
      (n ≠ 0 → n ≠ 0x40 → n ≠ 0x48 → n < 2 ^ 26 → exec (.hostRegisterWrite n v) s = .next { s with bar0 := tput s.bar0 n v }) ∧
      (s.cap.toNat < n → s.clock > 100 → exec (.clockThrottle n) s = .next { s with clock := s.clock - 100 }) ∧
      (n ≤ s.cap.toNat → exec (.clockThrottle n) s = .next s)

/-- R84, R347, R348, R352, R353, R355. The system calls of a control program: exit, log, mapx, launch, wait, alloc, free, event and
partition_info, each with its status codes; an application image is refused or loaded.
The model's choices in it: notes/assumptions/60, 61, 62, 63, 66, and 57: that a queued launch ends with status 1 at exit is the
model's choice. -/
def Obligations.SystemCalls : Prop :=
  ∀ (s : State) (app : Nat) (a : App), tget s.apps app = some a →
    let ret (t : State) (n st : Nat) (r : List Word) : State := { t with replies := t.replies ++ [.sys app n st r] }
    let tells (ev : Instr) (n st : Nat) (r : List Word) : Prop := exec ev s = .next (ret s n st r)
    let space : Space' := ⟨((tget s.parts a.part).map (·.dev)).getD 0, a.root⟩
    let withApp (t : State) (b : App) : State := { t with apps := tput t.apps app b }
    (∀ code, ∃ u, exec (.exit app code) s = .next u ∧ u.mem = s.mem ∧ tget u.apps app = some { a with running := false } ∧
      .sys app 0 0 [code] ∈ u.replies ∧ ∀ p ∈ s.launches, p.2.app = app → tget s.launches p.1 = some p.2 →
        (p.2.st = .queued → ∃ x, tget u.launches p.1 = some x ∧ (x.st = .ended 1 ∨ (x.st = .ended 2 ∧ descPre p.2.desc ≠ []))) ∧
        (p.2.st = .running → ∀ X, tget (s.die p.2.die).ctxs p.2.cid = some X →
          (u.ctx p.2.die p.2.cid).killed = if X.killed = none then some 1 else X.killed)) ∧
    (∀ addr len, (len > 4096 → tells (.log app addr len) 1 3 []) ∧ (len ≤ 4096 → exec (.log app addr len) s =
      .next (ret { s with replies := s.replies ++ [.log app ((List.range len).map fun i => s.appMem.get (addr + i))] } 1 0 []))) ∧
    (∀ (ws : List IWord) (tail : Nat), let bs := ws.flatMap fun w => leBytes 12 w.toNat
      let ev : Instr := .mapx app ws tail
      (tail ≠ 0 → tells ev 2 3 []) ∧ ((∃ w ∈ ws, (decode true (leBytes 12 w.toNat)).toOption = none) → tells ev 2 3 []) ∧
      (tail = 0 → (∀ w ∈ ws, (decode true (leBytes 12 w.toNat)).toOption ≠ none) →
        (∀ v, s.placeBytes space (s.homeDie a.part) a.nextVa textWord bs = some v → ∃ u, exec ev s = .next u ∧ u.mem = v.mem ∧
          u.replies = v.replies ++ [.sys app 2 0 [BitVec.ofNat 64 a.nextVa]] ∧
          ∃ b, tget u.apps app = some b ∧ b.nextVa ≥ a.nextVa + bs.length ∧ b.maps = a.maps ++ [(a.nextVa, bs.length)]) ∧
        (s.placeBytes space (s.homeDie a.part) a.nextVa textWord bs = none → tells ev 2 4 []))) ∧
    tells (.translatorQuotaExhausted app) 2 4 [] ∧
    (∀ die (d : BitVec 1024), let ev : Instr := .launch app die d
      let lv := descF d 33 32
      let full := ((s.die die).queue.toList.getD lv []).length ≥ 64
      let mine := ∃ p, tget s.parts a.part = some p ∧ p.st = .run ∧ die ∈ p.dies ∧ s.inService.getLsbD die = true
      s.early = false → (¬mine → tells ev 3 3 []) ∧ (mine → descBad d a = true → tells ev 3 6 []) ∧
        (mine → descBad d a = false → full → tells ev 3 5 []) ∧
        (mine → descBad d a = false → ¬full → (∀ p ∈ s.launches, p.2.st ≠ .queued) → descPre d = [] → ∃ u l, exec ev s = .next u ∧
          u.mem = s.mem ∧ u.replies = s.replies ++ [.sys app 3 0 [BitVec.ofNat 64 a.nextId]] ∧
          tget u.launches l = some ⟨app, a.nextId, die, d, .queued, 0, 0, false⟩ ∧ tget u.apps app = some { a with nextId := a.nextId + 1 } ∧
          (u.die die).queue.toList.getD lv [] = (s.die die).queue.toList.getD lv [] ++ [⟨l, 0⟩] ∧
          (s.now, Instr.placement die) ∈ u.agenda)) ∧
    (∀ id timeout, let ev : Instr := .wait app id timeout
      (s.launchOf app id = none → tells ev 4 3 []) ∧
      (∀ x, s.launchOf app id = some x →
        (∀ st, x.st = .ended st → tells ev 4 0 [BitVec.ofNat 64 st, x.exit]) ∧
        ((∀ st, x.st ≠ .ended st) → ∃ u n, exec ev s = .next u ∧ u.mem = s.mem ∧ u.replies = s.replies ∧
          let d := s.now + (timeout * s.clock + 999) / 1000
          u.waits = s.waits ++ [⟨app, id, n, if timeout = 0 then none else some d⟩] ∧
          (timeout ≠ 0 → (d, Instr.waitCallTimeout app id) ∈ u.agenda))) ∧
      (∀ n d, s.waits = [⟨app, id, n, some d⟩] →
        (d ≤ s.now → exec (.waitCallTimeout app id) s = .next (ret { s with waits := [] } 4 7 [])) ∧
        (s.now < d → exec (.waitCallTimeout app id) s = .next s))) ∧
    (∀ n (w : Word), let ev : Instr := .alloc app n w
      let sz := if w.getLsbD 24 then 2 ^ 28 else 2 ^ 16
      let va := (a.nextVa + sz - 1) / sz * sz
      let pages := (n + sz - 1) / sz
      let tier := (w.extractLsb' 16 2).toNat
      let leaf := BitVec.ofNat 128 (w.toNat + ((if tier = 2 then (space.dev + 1) % 64 else space.dev) * 2 ^ 46 +
        s.homeDie a.part * 2 ^ 43 + (if tier = 1 ∨ tier = 2 then 2 ^ 40 else 0)) / 2 ^ 16 * 2 ^ 64)
      let ok := n ≠ 0 ∧ kindOf w.toNat ≠ none ∧ leafOk space.dev s.early (w.getLsbD 24) leaf = true
      (¬ok → tells ev 5 3 []) ∧ (w.getLsbD 0 = false → tells ev 5 3 []) ∧
      (ok → (∀ v, s.mapPages space (s.homeDie a.part) va w.toNat pages = some v → exec ev s =
          .next (ret (withApp v { a with nextVa := va + pages * sz, maps := a.maps ++ [(va, pages * sz)] }) 5 0 [BitVec.ofNat 64 va])) ∧
        (s.mapPages space (s.homeDie a.part) va w.toNat pages = none → exec ev s = .next (ret { s with free := s.free + 1 } 5 4 [])))) ∧
    (∀ va, let ev : Instr := .free app va
      ((∀ m ∈ a.maps, m.1 ≠ va) → tells ev 6 3 []) ∧
      (∀ len, a.maps = [(va, len)] → va % 2 ^ 16 = 0 → va < 2 ^ 48 → 0 < len → len ≤ 2 ^ 16 → a.root % 2 ^ 16 = 0 → s.mem.wf = true →
        ∃ u, exec ev s = .next u ∧ tget u.apps app = some { a with maps := [] } ∧ u.replies = s.replies ++ [.sys app 6 0 []] ∧
          u.walkFrom space.dev space.root va = .absent ∧ u.agenda = s.agenda)) ∧
    (∀ buf cap, s.appMem.wf = true → let es := (s.events.drop s.copied).take cap
      ∃ u, exec (.event app buf cap) s = .next u ∧ u.mem = s.mem ∧ u.copied = s.copied + es.length ∧
        u.replies = s.replies ++ [.sys app 7 0 [BitVec.ofNat 64 es.length]] ∧
        ∀ i n (e : Event), es[i]? = some (n, e) → e.type < 256 → e.die < 256 →
          let word (k : Nat) : Nat := u.appMem.read (buf + 32 * i + 8 * k) 8
          word 0 = e.type + e.die * 2 ^ 8 + e.cid % 2 ^ 16 * 2 ^ 16 + n % 2 ^ 32 * 2 ^ 32 ∧ word 1 = e.w1.toNat ∧ word 2 = e.w2.toNat ∧
            word 3 = e.w3.toNat) ∧
    (∀ buf p, tget s.parts a.part = some p → s.appMem.wf = true → p.dev < 64 → a.part < 8 → (∀ d ∈ p.dies, d < 8) →
      ∃ u, exec (.partitionInfo app buf) s = .next u ∧ u.mem = s.mem ∧ u.replies = s.replies ++ [.sys app 8 0 []] ∧
        let w := u.appMem.read buf 8
        w % 2 ^ 6 = p.dev ∧ (∀ d, d < 8 → (w.testBit (8 + d) = true ↔ d ∈ p.dies)) ∧ w / 2 ^ 16 % 8 = a.part ∧
          w.testBit 19 = s.early ∧ ∀ k, 2 ≤ k → k < 8 → u.appMem.read (buf + 8 * k) 8 = 0) ∧
    ∀ (img : Image), let ev : Instr := .applicationImageLoad app img
      let load (v : State) (die dev root : Nat) : Option State := v.loadSecs ⟨dev, root⟩ die img.secs
      let refused : Prop := exec ev s = .next { s with replies := s.replies ++ [.image app false] }
      (img.machine ≠ 0xF1A7 ∨ img.etype ≠ 2 ∨ (∃ x ∈ img.secs, x.kind = .text ∧ textOk x.bytes (x.bytes.length + 1) = false) ∨
        (∀ p ∈ s.parts, p.2.st ≠ .run) → refused) ∧
      (∀ n p rest, s.parts = (n, p) :: rest → p.st = .run →
        (s.takePages p.dev (s.homeDie n) 1 1 = none → refused) ∧
        ∀ root v, s.takePages p.dev (s.homeDie n) 1 1 = some (root, v) → load v (s.homeDie n) p.dev root = none → refused) ∧
      (∀ n p rest root v u, s.parts = (n, p) :: rest → p.st = .run → imageRefused img = false →
        s.takePages p.dev (s.homeDie n) 1 1 = some (root, v) → load v (s.homeDie n) p.dev root = some u →
        ∃ t b, exec ev s = .next t ∧ t.mem = u.mem ∧ t.replies = u.replies ++ [.image app true] ∧ tget t.apps app = some b ∧
          b.running = true ∧ b.part = n ∧ b.root = root ∧ b.nextId = 1)
end

