-- ==== Sys2Proof/Laws/Exec.lean ====
section
/-! SUPPORT. `exec` on each constructor is its meaning. -/

namespace Sys2Proof.Machine

@[simp] theorem exec_nop (gd : Guard) (s : State) : exec (.nop gd) s = execNop gd s := rfl
@[simp] theorem exec_br (gd : Guard) (off : BitVec 32) (s : State) : exec (.br gd off) s = execBr gd off s := rfl
@[simp] theorem exec_brx (gd : Guard) (a : GReg) (s : State) : exec (.brx gd a) s = execBrx gd a s := rfl
@[simp] theorem exec_call (gd : Guard) (off : BitVec 32) (s : State) :
    exec (.call gd off) s = execCall gd off s := rfl
@[simp] theorem exec_callx (gd : Guard) (a : GReg) (s : State) : exec (.callx gd a) s = execCallx gd a s := rfl
@[simp] theorem exec_tstart (gd : Guard) (d a : GReg) (b : OpB) (s : State) :
    exec (.tstart gd d a b) s = execTstart gd d a b s := rfl
@[simp] theorem exec_tstartLight (gd : Guard) (d a : GReg) (b : OpB) (s : State) :
    exec (.tstartLight gd d a b) s = execTstartLight gd d a b s := rfl
@[simp] theorem exec_treap (gd : Guard) (d : GReg) (b : OpB) (s : State) :
    exec (.treap gd d b) s = execTreap gd d b s := rfl
@[simp] theorem exec_texit (gd : Guard) (b : OpB) (s : State) : exec (.texit gd b) s = execTexit gd b s := rfl
@[simp] theorem exec_tstat (gd : Guard) (d : GReg) (b : OpB) (s : State) :
    exec (.tstat gd d b) s = execTstat gd d b s := rfl
@[simp] theorem exec_halt (gd : Guard) (d : GReg) (b : OpB) (s : State) :
    exec (.halt gd d b) s = execHalt gd d b s := rfl
@[simp] theorem exec_spawn (gd : Guard) (d : PReg) (a c : GReg) (s : State) :
    exec (.spawn gd d a c) s = execSpawn gd d a c s := rfl
@[simp] theorem exec_take (gd : Guard) (d : PReg) (a : GReg) (s : State) :
    exec (.take gd d a) s = execTake gd d a s := rfl
@[simp] theorem exec_fetchtile (gd : Guard) (d : PReg) (a : GReg) (s : State) :
    exec (.fetchtile gd d a) s = execFetchtile gd d a s := rfl
@[simp] theorem exec_tileq (gd : Guard) (a : GReg) (b : OpB) (s : State) :
    exec (.tileq gd a b) s = execTileq gd a b s := rfl
@[simp] theorem exec_go (gd : Guard) (a : GReg) (b : OpB) (s : State) : exec (.go gd a b) s = execGo gd a b s := rfl
@[simp] theorem exec_hcall (gd : Guard) (b : OpB) (s : State) : exec (.hcall gd b) s = execHcall gd b s := rfl
@[simp] theorem exec_trap (gd : Guard) (b : OpB) (s : State) : exec (.trap gd b) s = execTrap gd b s := rfl
@[simp] theorem exec_eret (gd : Guard) (s : State) : exec (.eret gd) s = execEret gd s := rfl
@[simp] theorem exec_sysr (gd : Guard) (d : GReg) (num : BitVec 32) (s : State) :
    exec (.sysr gd d num) s = execSysr gd d num s := rfl
@[simp] theorem exec_sysw (gd : Guard) (a : GReg) (num : BitVec 32) (s : State) :
    exec (.sysw gd a num) s = execSysw gd a num s := rfl
@[simp] theorem exec_bkpt (gd : Guard) (b : OpB) (s : State) : exec (.bkpt gd b) s = execBkpt gd b s := rfl
@[simp] theorem exec_iflush (gd : Guard) (s : State) : exec (.iflush gd) s = execIflush gd s := rfl
@[simp] theorem exec_vcopyb (gd : Guard) (dest frm : Fin 4) (d a c : GReg) (s : State) :
    exec (.vcopyb gd dest frm d a c) s = execVcopyb gd dest frm d a c s := rfl
@[simp] theorem exec_add (gd : Guard) (w32 sat : Bool) (d a : GReg) (b : OpB) (s : State) :
    exec (.add gd w32 sat d a b) s = execAdd gd w32 sat d a b s := rfl
@[simp] theorem exec_sub (gd : Guard) (w32 sat : Bool) (d a : GReg) (b : OpB) (s : State) :
    exec (.sub gd w32 sat d a b) s = execSub gd w32 sat d a b s := rfl
@[simp] theorem exec_mul (gd : Guard) (w32 : Bool) (d a : GReg) (b : OpB) (s : State) :
    exec (.mul gd w32 d a b) s = execMul gd w32 d a b s := rfl
@[simp] theorem exec_mulh (gd : Guard) (w32 : Bool) (v : MulhV) (d a : GReg) (b : OpB) (s : State) :
    exec (.mulh gd w32 v d a b) s = execMulh gd w32 v d a b s := rfl
@[simp] theorem exec_div (gd : Guard) (w32 u : Bool) (d a : GReg) (b : OpB) (s : State) :
    exec (.div gd w32 u d a b) s = execDiv gd w32 u d a b s := rfl
@[simp] theorem exec_rem (gd : Guard) (w32 u : Bool) (d a : GReg) (b : OpB) (s : State) :
    exec (.rem gd w32 u d a b) s = execRem gd w32 u d a b s := rfl
@[simp] theorem exec_and (gd : Guard) (w32 : Bool) (d a : GReg) (b : OpB) (s : State) :
    exec (.and gd w32 d a b) s = execAnd gd w32 d a b s := rfl
@[simp] theorem exec_or (gd : Guard) (w32 : Bool) (d a : GReg) (b : OpB) (s : State) :
    exec (.or gd w32 d a b) s = execOr gd w32 d a b s := rfl
@[simp] theorem exec_xor (gd : Guard) (w32 : Bool) (d a : GReg) (b : OpB) (s : State) :
    exec (.xor gd w32 d a b) s = execXor gd w32 d a b s := rfl
@[simp] theorem exec_andn (gd : Guard) (w32 : Bool) (d a : GReg) (b : OpB) (s : State) :
    exec (.andn gd w32 d a b) s = execAndn gd w32 d a b s := rfl
@[simp] theorem exec_shl (gd : Guard) (w32 : Bool) (d a : GReg) (b : OpB) (s : State) :
    exec (.shl gd w32 d a b) s = execShl gd w32 d a b s := rfl
@[simp] theorem exec_shr (gd : Guard) (w32 arith : Bool) (d a : GReg) (b : OpB) (s : State) :
    exec (.shr gd w32 arith d a b) s = execShr gd w32 arith d a b s := rfl
@[simp] theorem exec_rot (gd : Guard) (w32 right : Bool) (d a : GReg) (b : OpB) (s : State) :
    exec (.rot gd w32 right d a b) s = execRot gd w32 right d a b s := rfl
@[simp] theorem exec_min (gd : Guard) (w32 u : Bool) (d a : GReg) (b : OpB) (s : State) :
    exec (.min gd w32 u d a b) s = execMin gd w32 u d a b s := rfl
@[simp] theorem exec_max (gd : Guard) (w32 u : Bool) (d a : GReg) (b : OpB) (s : State) :
    exec (.max gd w32 u d a b) s = execMax gd w32 u d a b s := rfl
@[simp] theorem exec_clz (gd : Guard) (w32 trailing : Bool) (d a : GReg) (s : State) :
    exec (.clz gd w32 trailing d a) s = execClz gd w32 trailing d a s := rfl
@[simp] theorem exec_popc (gd : Guard) (w32 : Bool) (d a : GReg) (s : State) :
    exec (.popc gd w32 d a) s = execPopc gd w32 d a s := rfl
@[simp] theorem exec_sel (gd : Guard) (w32 : Bool) (d a : GReg) (b : OpB) (c : PReg) (s : State) :
    exec (.sel gd w32 d a b c) s = execSel gd w32 d a b c s := rfl
@[simp] theorem exec_cmp (gd : Guard) (w32 : Bool) (cond : Cond) (d : PReg) (a : GReg) (b : OpB) (s : State) :
    exec (.cmp gd w32 cond d a b) s = execCmp gd w32 cond d a b s := rfl
@[simp] theorem exec_plog (gd : Guard) (op : PlogOp) (d a b : PReg) (s : State) :
    exec (.plog gd op d a b) s = execPlog gd op d a b s := rfl
@[simp] theorem exec_mov (gd : Guard) (w32 : Bool) (d : MovD) (b : MovB) (s : State) :
    exec (.mov gd w32 d b) s = execMov gd w32 d b s := rfl
@[simp] theorem exec_movh (gd : Guard) (d : GReg) (b : OpB) (s : State) :
    exec (.movh gd d b) s = execMovh gd d b s := rfl
@[simp] theorem exec_movs (gd : Guard) (d : GReg) (r : SReg) (s : State) :
    exec (.movs gd d r) s = execMovs gd d r s := rfl
@[simp] theorem exec_wrs (gd : Guard) (r : WSReg) (b : OpB) (s : State) :
    exec (.wrs gd r b) s = execWrs gd r b s := rfl
@[simp] theorem exec_ext (gd : Guard) (sx : Bool) (d a : GReg) (b : OpB) (s : State) :
    exec (.ext gd sx d a b) s = execExt gd sx d a b s := rfl
@[simp] theorem exec_ins (gd : Guard) (d a : GReg) (b : OpB) (c : GReg) (s : State) :
    exec (.ins gd d a b c) s = execIns gd d a b c s := rfl
@[simp] theorem exec_lea (gd : Guard) (w32 : Bool) (k : Fin 5) (d a : GReg) (b : OpB) (s : State) :
    exec (.lea gd w32 k d a b) s = execLea gd w32 k d a b s := rfl
@[simp] theorem exec_fadd (gd : Guard) (x : FpX) (d a : GReg) (b : OpB) (s : State) :
    exec (.fadd gd x d a b) s = execFadd gd x d a b s := rfl
@[simp] theorem exec_fsub (gd : Guard) (x : FpX) (d a : GReg) (b : OpB) (s : State) :
    exec (.fsub gd x d a b) s = execFsub gd x d a b s := rfl
@[simp] theorem exec_fmul (gd : Guard) (x : FpX) (d a : GReg) (b : OpB) (s : State) :
    exec (.fmul gd x d a b) s = execFmul gd x d a b s := rfl
@[simp] theorem exec_ffma (gd : Guard) (x : FpX) (d a : GReg) (b : OpB) (c : GReg) (s : State) :
    exec (.ffma gd x d a b c) s = execFfma gd x d a b c s := rfl
@[simp] theorem exec_fdiv (gd : Guard) (x : FpX) (d a : GReg) (b : OpB) (s : State) :
    exec (.fdiv gd x d a b) s = execFdiv gd x d a b s := rfl
@[simp] theorem exec_fsqrt (gd : Guard) (x : FpX) (d a : GReg) (s : State) :
    exec (.fsqrt gd x d a) s = execFsqrt gd x d a s := rfl
@[simp] theorem exec_fmin (gd : Guard) (x : FpX) (d a : GReg) (b : OpB) (s : State) :
    exec (.fmin gd x d a b) s = execFmin gd x d a b s := rfl
@[simp] theorem exec_fmax (gd : Guard) (x : FpX) (d a : GReg) (b : OpB) (s : State) :
    exec (.fmax gd x d a b) s = execFmax gd x d a b s := rfl
@[simp] theorem exec_fcmp (gd : Guard) (cond : FCond) (x : FpX) (d : PReg) (a : GReg) (b : OpB) (s : State) :
    exec (.fcmp gd cond x d a b) s = execFcmp gd cond x d a b s := rfl
@[simp] theorem exec_fcvt (gd : Guard) (src : ETy) (x : FpX) (d a : GReg) (s : State) :
    exec (.fcvt gd src x d a) s = execFcvt gd src x d a s := rfl
@[simp] theorem exec_frcp (gd : Guard) (x : FpX) (d a : GReg) (s : State) :
    exec (.frcp gd x d a) s = execFrcp gd x d a s := rfl
@[simp] theorem exec_frsq (gd : Guard) (x : FpX) (d a : GReg) (s : State) :
    exec (.frsq gd x d a) s = execFrsq gd x d a s := rfl
@[simp] theorem exec_frstep (gd : Guard) (rsq : Bool) (x : FpX) (d a : GReg) (b : OpB) (s : State) :
    exec (.frstep gd rsq x d a b) s = execFrstep gd rsq x d a b s := rfl
@[simp] theorem exec_fclass (gd : Guard) (x : FpX) (d a : GReg) (s : State) :
    exec (.fclass gd x d a) s = execFclass gd x d a s := rfl
@[simp] theorem exec_fsgn (gd : Guard) (m : SgnV) (x : FpX) (d a : GReg) (b : OpB) (s : State) :
    exec (.fsgn gd m x d a b) s = execFsgn gd m x d a b s := rfl
@[simp] theorem exec_vadd (gd : Guard) (x : FpX) (d a : VReg) (b : OpV) (s : State) :
    exec (.vadd gd x d a b) s = execVadd gd x d a b s := rfl
@[simp] theorem exec_vsub (gd : Guard) (x : FpX) (d a : VReg) (b : OpV) (s : State) :
    exec (.vsub gd x d a b) s = execVsub gd x d a b s := rfl
@[simp] theorem exec_vmul (gd : Guard) (x : FpX) (d a : VReg) (b : OpV) (s : State) :
    exec (.vmul gd x d a b) s = execVmul gd x d a b s := rfl
@[simp] theorem exec_vfma (gd : Guard) (x : FpX) (d a : VReg) (b : OpV) (c : VReg) (s : State) :
    exec (.vfma gd x d a b c) s = execVfma gd x d a b c s := rfl
@[simp] theorem exec_vmin (gd : Guard) (u : Bool) (x : FpX) (d a : VReg) (b : OpV) (s : State) :
    exec (.vmin gd u x d a b) s = execVmin gd u x d a b s := rfl
@[simp] theorem exec_vmax (gd : Guard) (u : Bool) (x : FpX) (d a : VReg) (b : OpV) (s : State) :
    exec (.vmax gd u x d a b) s = execVmax gd u x d a b s := rfl
@[simp] theorem exec_vabs (gd : Guard) (x : FpX) (d a : VReg) (s : State) :
    exec (.vabs gd x d a) s = execVabs gd x d a s := rfl
@[simp] theorem exec_vneg (gd : Guard) (x : FpX) (d a : VReg) (s : State) :
    exec (.vneg gd x d a) s = execVneg gd x d a s := rfl
@[simp] theorem exec_vcvt (gd : Guard) (src : ETy) (part : Fin 4) (x : FpX) (d a : VReg) (s : State) :
    exec (.vcvt gd src part x d a) s = execVcvt gd src part x d a s := rfl
@[simp] theorem exec_vcmp (gd : Guard) (cond : FCond) (x : FpX) (d : PReg) (a : VReg) (b : OpV) (s : State) :
    exec (.vcmp gd cond x d a b) s = execVcmp gd cond x d a b s := rfl
@[simp] theorem exec_vsel (gd : Guard) (x : FpX) (d a : VReg) (b : OpV) (c : PReg) (s : State) :
    exec (.vsel gd x d a b c) s = execVsel gd x d a b c s := rfl
@[simp] theorem exec_vand (gd : Guard) (x : FpX) (d a : VReg) (b : OpV) (s : State) :
    exec (.vand gd x d a b) s = execVand gd x d a b s := rfl
@[simp] theorem exec_vor (gd : Guard) (x : FpX) (d a : VReg) (b : OpV) (s : State) :
    exec (.vor gd x d a b) s = execVor gd x d a b s := rfl
@[simp] theorem exec_vxor (gd : Guard) (x : FpX) (d a : VReg) (b : OpV) (s : State) :
    exec (.vxor gd x d a b) s = execVxor gd x d a b s := rfl
@[simp] theorem exec_vshl (gd : Guard) (x : FpX) (d a : VReg) (b : OpV) (s : State) :
    exec (.vshl gd x d a b) s = execVshl gd x d a b s := rfl
@[simp] theorem exec_vshr (gd : Guard) (arith : Bool) (x : FpX) (d a : VReg) (b : OpV) (s : State) :
    exec (.vshr gd arith x d a b) s = execVshr gd arith x d a b s := rfl
@[simp] theorem exec_vred (gd : Guard) (op : VRedOp) (u : Bool) (x : FpX) (d : GReg) (a : VReg) (s : State) :
    exec (.vred gd op u x d a) s = execVred gd op u x d a s := rfl
@[simp] theorem exec_vbcast (gd : Guard) (elem : Option VReg) (x : FpX) (d : VReg) (b : OpB) (s : State) :
    exec (.vbcast gd elem x d b) s = execVbcast gd elem x d b s := rfl
@[simp] theorem exec_vperm (gd : Guard) (x : FpX) (d a b : VReg) (s : State) :
    exec (.vperm gd x d a b) s = execVperm gd x d a b s := rfl
@[simp] theorem exec_viota (gd : Guard) (x : FpX) (d : VReg) (b : OpB) (s : State) :
    exec (.viota gd x d b) s = execViota gd x d b s := rfl
@[simp] theorem exec_vrcp (gd : Guard) (x : FpX) (d a : VReg) (s : State) :
    exec (.vrcp gd x d a) s = execVrcp gd x d a s := rfl
@[simp] theorem exec_vrsq (gd : Guard) (x : FpX) (d a : VReg) (s : State) :
    exec (.vrsq gd x d a) s = execVrsq gd x d a s := rfl
@[simp] theorem exec_vrstep (gd : Guard) (rsq : Bool) (x : FpX) (d a : VReg) (b : OpV) (s : State) :
    exec (.vrstep gd rsq x d a b) s = execVrstep gd rsq x d a b s := rfl
@[simp] theorem exec_vexp2 (gd : Guard) (x : FpX) (d a : VReg) (s : State) :
    exec (.vexp2 gd x d a) s = execVexp2 gd x d a s := rfl
@[simp] theorem exec_vlog2 (gd : Guard) (x : FpX) (d a : VReg) (s : State) :
    exec (.vlog2 gd x d a) s = execVlog2 gd x d a s := rfl
@[simp] theorem exec_vszb (gd : Guard) (int : Bool) (x : FpX) (d a : VReg) (b : OpV) (s : State) :
    exec (.vszb gd int x d a b) s = execVszb gd int x d a b s := rfl
@[simp] theorem exec_vextr (gd : Guard) (x : FpX) (d : GReg) (a : VReg) (b : OpB) (s : State) :
    exec (.vextr gd x d a b) s = execVextr gd x d a b s := rfl
@[simp] theorem exec_vinsr (gd : Guard) (x : FpX) (d : VReg) (a : GReg) (b : OpB) (s : State) :
    exec (.vinsr gd x d a b) s = execVinsr gd x d a b s := rfl
@[simp] theorem exec_vscanp (gd : Guard) (op : VRedOp) (u ex : Bool) (x : FpX) (d a : VReg) (s : State) :
    exec (.vscanp gd op u ex x d a) s = execVscanp gd op u ex x d a s := rfl
@[simp] theorem exec_nzscan (gd : Guard) (d : VReg) (a : GReg) (b : OpB) (c : GReg) (s : State) :
    exec (.nzscan gd d a b c) s = execNzscan gd d a b c s := rfl
@[simp] theorem exec_scfg (gd : Guard) (out : Bool) (ety : ETy) (space : Fin 4) (ndim : Fin 4) (d : VReg) (a : GReg) (b : OpB) (s : State) :
    exec (.scfg gd out ety space ndim d a b) s = execScfg gd out ety space ndim d a b s := rfl
@[simp] theorem exec_sstart (gd : Guard) (d : Fin 8) (s : State) : exec (.sstart gd d) s = execSstart gd d s := rfl
@[simp] theorem exec_sstop (gd : Guard) (d : Fin 8) (s : State) : exec (.sstop gd d) s = execSstop gd d s := rfl
@[simp] theorem exec_sstat (gd : Guard) (what : StatV) (d : GReg) (a : Fin 8) (s : State) :
    exec (.sstat gd what d a) s = execSstat gd what d a s := rfl
@[simp] theorem exec_ld (gd : Guard) (sx : Bool) (x : MemX) (d a : GReg) (b : OpB) (s : State) :
    exec (.ld gd sx x d a b) s = execLd gd sx x d a b s := rfl
@[simp] theorem exec_st (gd : Guard) (x : MemX) (a : GReg) (b : OpB) (c : GReg) (s : State) :
    exec (.st gd x a b c) s = execSt gd x a b c s := rfl
@[simp] theorem exec_ldp (gd : Guard) (sx : Bool) (x : MemX) (d a : GReg) (b : OpB) (s : State) :
    exec (.ldp gd sx x d a b) s = execLdp gd sx x d a b s := rfl
@[simp] theorem exec_stp (gd : Guard) (x : MemX) (a : GReg) (b : OpB) (c : GReg) (s : State) :
    exec (.stp gd x a b c) s = execStp gd x a b c s := rfl
@[simp] theorem exec_vld (gd : Guard) (x : MemX) (d : VReg) (a : GReg) (b : OpB) (s : State) :
    exec (.vld gd x d a b) s = execVld gd x d a b s := rfl
@[simp] theorem exec_vst (gd : Guard) (zb : Bool) (x : MemX) (a : GReg) (b : OpB) (c : VReg) (s : State) :
    exec (.vst gd zb x a b c) s = execVst gd zb x a b c s := rfl
@[simp] theorem exec_vldx (gd : Guard) (k : Fin 4) (x : MemX) (d : VReg) (a : GReg) (b : VReg) (s : State) :
    exec (.vldx gd k x d a b) s = execVldx gd k x d a b s := rfl
@[simp] theorem exec_vstx (gd : Guard) (zb : Bool) (k : Fin 4) (x : MemX) (a : GReg) (b c : VReg) (s : State) :
    exec (.vstx gd zb k x a b c) s = execVstx gd zb k x a b c s := rfl
@[simp] theorem exec_stq (gd : Guard) (a : GReg) (b : OpB) (c : VReg) (s : State) :
    exec (.stq gd a b c) s = execStq gd a b c s := rfl
@[simp] theorem exec_fence (gd : Guard) (obs : BitVec 5) (s : State) :
    exec (.fence gd obs) s = execFence gd obs s := rfl
@[simp] theorem exec_amoadd (gd : Guard) (x : MemX) (d a : GReg) (b : OpB) (c : GReg) (s : State) :
    exec (.amoadd gd x d a b c) s = execAmoadd gd x d a b c s := rfl
@[simp] theorem exec_amoand (gd : Guard) (x : MemX) (d a : GReg) (b : OpB) (c : GReg) (s : State) :
    exec (.amoand gd x d a b c) s = execAmoand gd x d a b c s := rfl
@[simp] theorem exec_amoor (gd : Guard) (x : MemX) (d a : GReg) (b : OpB) (c : GReg) (s : State) :
    exec (.amoor gd x d a b c) s = execAmoor gd x d a b c s := rfl
@[simp] theorem exec_amoxor (gd : Guard) (x : MemX) (d a : GReg) (b : OpB) (c : GReg) (s : State) :
    exec (.amoxor gd x d a b c) s = execAmoxor gd x d a b c s := rfl
@[simp] theorem exec_amoswap (gd : Guard) (x : MemX) (d a : GReg) (b : OpB) (c : GReg) (s : State) :
    exec (.amoswap gd x d a b c) s = execAmoswap gd x d a b c s := rfl
@[simp] theorem exec_amomin (gd : Guard) (u : Bool) (x : MemX) (d a : GReg) (b : OpB) (c : GReg) (s : State) :
    exec (.amomin gd u x d a b c) s = execAmomin gd u x d a b c s := rfl
@[simp] theorem exec_amomax (gd : Guard) (u : Bool) (x : MemX) (d a : GReg) (b : OpB) (c : GReg) (s : State) :
    exec (.amomax gd u x d a b c) s = execAmomax gd u x d a b c s := rfl
@[simp] theorem exec_amofadd (gd : Guard) (x : MemX) (d a : GReg) (b : OpB) (c : GReg) (s : State) :
    exec (.amofadd gd x d a b c) s = execAmofadd gd x d a b c s := rfl
@[simp] theorem exec_amofmin (gd : Guard) (x : MemX) (d a : GReg) (b : OpB) (c : GReg) (s : State) :
    exec (.amofmin gd x d a b c) s = execAmofmin gd x d a b c s := rfl
@[simp] theorem exec_amofmax (gd : Guard) (x : MemX) (d a : GReg) (b : OpB) (c : GReg) (s : State) :
    exec (.amofmax gd x d a b c) s = execAmofmax gd x d a b c s := rfl
@[simp] theorem exec_cas (gd : Guard) (x : MemX) (d a : GReg) (b : OpB) (c : GReg) (s : State) :
    exec (.cas gd x d a b c) s = execCas gd x d a b c s := rfl
@[simp] theorem exec_cas2 (gd : Guard) (x : MemX) (d a : GReg) (b : OpB) (c : GReg) (s : State) :
    exec (.cas2 gd x d a b c) s = execCas2 gd x d a b c s := rfl
@[simp] theorem exec_red (gd : Guard) (op : RedOp) (u : Bool) (ety : ETy) (a : GReg) (b : OpB) (c : GReg) (s : State) :
    exec (.red gd op u ety a b c) s = execRed gd op u ety a b c s := rfl
@[simp] theorem exec_bind (gd : Guard) (x : BindX) (d a : GReg) (b : OpB) (c : GReg) (s : State) :
    exec (.bind gd x d a b c) s = execBind gd x d a b c s := rfl
@[simp] theorem exec_unbind (gd : Guard) (slot : Fin 8) (s : State) :
    exec (.unbind gd slot) s = execUnbind gd slot s := rfl
@[simp] theorem exec_unbindAll (gd : Guard) (s : State) : exec (.unbindAll gd) s = execUnbindAll gd s := rfl
@[simp] theorem exec_clst (gd : Guard) (d : GReg) (b : OpB) (s : State) :
    exec (.clst gd d b) s = execClst gd d b s := rfl
@[simp] theorem exec_clhold (gd : Guard) (s : State) : exec (.clhold gd) s = execClhold gd s := rfl
@[simp] theorem exec_clrel (gd : Guard) (s : State) : exec (.clrel gd) s = execClrel gd s := rfl
@[simp] theorem exec_marm (gd : Guard) (a : GReg) (b : OpB) (s : State) :
    exec (.marm gd a b) s = execMarm gd a b s := rfl
@[simp] theorem exec_mdis (gd : Guard) (a : GReg) (b : OpB) (s : State) :
    exec (.mdis gd a b) s = execMdis gd a b s := rfl
@[simp] theorem exec_mdisAll (gd : Guard) (s : State) : exec (.mdisAll gd) s = execMdisAll gd s := rfl
@[simp] theorem exec_mwait (gd : Guard) (d : GReg) (b : OpB) (s : State) :
    exec (.mwait gd d b) s = execMwait gd d b s := rfl
@[simp] theorem exec_breg (gd : Guard) (n : Fin 8) (a : GReg) (s : State) :
    exec (.breg gd n a) s = execBreg gd n a s := rfl
@[simp] theorem exec_bcfg (gd : Guard) (n : Fin 8) (a : GReg) (s : State) :
    exec (.bcfg gd n a) s = execBcfg gd n a s := rfl
@[simp] theorem exec_barr (gd : Guard) (n : Fin 8) (s : State) : exec (.barr gd n) s = execBarr gd n s := rfl
@[simp] theorem exec_bwait (gd : Guard) (n : Fin 8) (d : GReg) (b : OpB) (s : State) :
    exec (.bwait gd n d b) s = execBwait gd n d b s := rfl
@[simp] theorem exec_twany (gd : Guard) (d a : GReg) (b : OpB) (s : State) :
    exec (.twany gd d a b) s = execTwany gd d a b s := rfl
@[simp] theorem exec_twall (gd : Guard) (d a : GReg) (b : OpB) (s : State) :
    exec (.twall gd d a b) s = execTwall gd d a b s := rfl
@[simp] theorem exec_tffr (gd : Guard) (d a : GReg) (s : State) : exec (.tffr gd d a) s = execTffr gd d a s := rfl
@[simp] theorem exec_tclr (gd : Guard) (d : GReg) (b : OpB) (s : State) :
    exec (.tclr gd d b) s = execTclr gd d b s := rfl
@[simp] theorem exec_tstatus (gd : Guard) (d : GReg) (b : OpB) (s : State) :
    exec (.tstatus gd d b) s = execTstatus gd d b s := rfl
@[simp] theorem exec_qstat (gd : Guard) (d : GReg) (b : OpB) (s : State) :
    exec (.qstat gd d b) s = execQstat gd d b s := rfl
@[simp] theorem exec_ginvoke (gd : Guard) (d : PReg) (a : GReg) (b : OpB) (s : State) :
    exec (.ginvoke gd d a b) s = execGinvoke gd d a b s := rfl
@[simp] theorem exec_emit (gd : Guard) (a : GReg) (b : OpB) (s : State) :
    exec (.emit gd a b) s = execEmit gd a b s := rfl
@[simp] theorem exec_sigt (gd : Guard) (d : PReg) (b : OpB) (s : State) :
    exec (.sigt gd d b) s = execSigt gd d b s := rfl
@[simp] theorem exec_sigq (gd : Guard) (d : GReg) (b : OpB) (s : State) :
    exec (.sigq gd d b) s = execSigq gd d b s := rfl
@[simp] theorem exec_sigv (gd : Guard) (d : GReg) (b : OpB) (s : State) :
    exec (.sigv gd d b) s = execSigv gd d b s := rfl
@[simp] theorem exec_retract (gd : Guard) (b : OpB) (s : State) : exec (.retract gd b) s = execRetract gd b s := rfl
@[simp] theorem exec_retractAll (gd : Guard) (s : State) : exec (.retractAll gd) s = execRetractAll gd s := rfl
@[simp] theorem exec_pause (gd : Guard) (s : State) : exec (.pause gd) s = execPause gd s := rfl
@[simp] theorem exec_dget (gd : Guard) (d : GReg) (a : DReg) (s : State) :
    exec (.dget gd d a) s = execDget gd d a s := rfl
@[simp] theorem exec_dset (gd : Guard) (d : DReg) (b : OpB) (s : State) :
    exec (.dset gd d b) s = execDset gd d b s := rfl
@[simp] theorem exec_chw (gd : Guard) (d : ChReg) (b : OpB) (s : State) :
    exec (.chw gd d b) s = execChw gd d b s := rfl
@[simp] theorem exec_chr (gd : Guard) (d : GReg) (a : ChReg) (s : State) :
    exec (.chr gd d a) s = execChr gd d a s := rfl
@[simp] theorem exec_sigpre (gd : Guard) (val : Bool) (d : GReg) (b : OpB) (s : State) :
    exec (.sigpre gd val d b) s = execSigpre gd val d b s := rfl
@[simp] theorem exec_gend (gd : Guard) (s : State) : exec (.gend gd) s = execGend gd s := rfl
@[simp] theorem exec_memoryReply (req : Nat) (s : State) : exec (.memoryReply req) s = execMemoryReply req s := rfl
@[simp] theorem exec_homeAccess (core : Nat) (s : State) : exec (.homeAccess core) s = execHomeAccess core s := rfl
@[simp] theorem exec_atomicRequest (req : Nat) (s : State) :
    exec (.atomicRequest req) s = execAtomicRequest req s := rfl
@[simp] theorem exec_redAcknowledgement (req : Nat) (s : State) :
    exec (.redAcknowledgement req) s = execRedAcknowledgement req s := rfl
@[simp] theorem exec_relaxedAccessPerformed (req : Nat) (s : State) :
    exec (.relaxedAccessPerformed req) s = execRelaxedAccessPerformed req s := rfl
@[simp] theorem exec_postedStoreAccepted (req : Nat) (s : State) :
    exec (.postedStoreAccepted req) s = execPostedStoreAccepted req s := rfl
@[simp] theorem exec_postedStoreAck (req : Nat) (s : State) :
    exec (.postedStoreAck req) s = execPostedStoreAck req s := rfl
@[simp] theorem exec_translationWalk (die walk : Nat) (s : State) :
    exec (.translationWalk die walk) s = execTranslationWalk die walk s := rfl
@[simp] theorem exec_waitTimeout (core slot serial : Nat) (s : State) :
    exec (.waitTimeout core slot serial) s = execWaitTimeout core slot serial s := rfl
@[simp] theorem exec_threadStartMessage (core cid : Nat) (s : State) :
    exec (.threadStartMessage core cid) s = execThreadStartMessage core cid s := rfl
@[simp] theorem exec_migrationArrival (m : Nat) (s : State) :
    exec (.migrationArrival m) s = execMigrationArrival m s := rfl
@[simp] theorem exec_migrationRetry (m : Nat) (s : State) : exec (.migrationRetry m) s = execMigrationRetry m s := rfl
@[simp] theorem exec_landingSlotClaim (core : Nat) (s : State) :
    exec (.landingSlotClaim core) s = execLandingSlotClaim core s := rfl
@[simp] theorem exec_guestExitMessage (core slot cid : Nat) (v : Word) (s : State) :
    exec (.guestExitMessage core slot cid v) s = execGuestExitMessage core slot cid v s := rfl
@[simp] theorem exec_hcallReply (die cid call status : Nat) (r1 r2 : Word) (s : State) :
    exec (.hcallReply die cid call status r1 r2) s = execHcallReply die cid call status r1 r2 s := rfl
@[simp] theorem exec_streamPrefetch (core slot : Nat) (reg : Fin 8) (s : State) :
    exec (.streamPrefetch core slot reg) s = execStreamPrefetch core slot reg s := rfl
@[simp] theorem exec_streamElementWrite (core slot : Nat) (reg : Fin 8) (s : State) :
    exec (.streamElementWrite core slot reg) s = execStreamElementWrite core slot reg s := rfl
@[simp] theorem exec_cardAdmission (cluster : Nat) (s : State) :
    exec (.cardAdmission cluster) s = execCardAdmission cluster s := rfl
@[simp] theorem exec_copyJobStart (core : Nat) (s : State) :
    exec (.copyJobStart core) s = execCopyJobStart core s := rfl
@[simp] theorem exec_copyChunk (core : Nat) (s : State) : exec (.copyChunk core) s = execCopyChunk core s := rfl
@[simp] theorem exec_copyJobComplete (core : Nat) (s : State) :
    exec (.copyJobComplete core) s = execCopyJobComplete core s := rfl
@[simp] theorem exec_copySteal (core : Nat) (s : State) : exec (.copySteal core) s = execCopySteal core s := rfl
@[simp] theorem exec_mmaFire (core : Nat) (s : State) : exec (.mmaFire core) s = execMmaFire core s := rfl
@[simp] theorem exec_mmaComplete (core : Nat) (s : State) : exec (.mmaComplete core) s = execMmaComplete core s := rfl
@[simp] theorem exec_ellipsisJobStart (cluster : Nat) (s : State) :
    exec (.ellipsisJobStart cluster) s = execEllipsisJobStart cluster s := rfl
@[simp] theorem exec_mergeJob (cluster : Nat) (s : State) : exec (.mergeJob cluster) s = execMergeJob cluster s := rfl
@[simp] theorem exec_unmergeJob (cluster : Nat) (s : State) :
    exec (.unmergeJob cluster) s = execUnmergeJob cluster s := rfl
@[simp] theorem exec_routeJob (cluster : Nat) (s : State) : exec (.routeJob cluster) s = execRouteJob cluster s := rfl
@[simp] theorem exec_mapfreeJob (cluster : Nat) (s : State) :
    exec (.mapfreeJob cluster) s = execMapfreeJob cluster s := rfl
@[simp] theorem exec_collectiveComplete (coll : Nat) (s : State) :
    exec (.collectiveComplete coll) s = execCollectiveComplete coll s := rfl
@[simp] theorem exec_monitorArmRequest (core slot k : Nat) (s : State) :
    exec (.monitorArmRequest core slot k) s = execMonitorArmRequest core slot k s := rfl
@[simp] theorem exec_monitorDisarmRequest (core slot k : Nat) (s : State) :
    exec (.monitorDisarmRequest core slot k) s = execMonitorDisarmRequest core slot k s := rfl
@[simp] theorem exec_monitorAck (core slot serial : Nat) (s : State) :
    exec (.monitorAck core slot serial) s = execMonitorAck core slot serial s := rfl
@[simp] theorem exec_fireNoticeArrival (core slot k arm : Nat) (s : State) :
    exec (.fireNoticeArrival core slot k arm) s = execFireNoticeArrival core slot k arm s := rfl
@[simp] theorem exec_monitorLostNotice (core slot k arm : Nat) (s : State) :
    exec (.monitorLostNotice core slot k arm) s = execMonitorLostNotice core slot k arm s := rfl
@[simp] theorem exec_barrierArrival (core id : Nat) (s : State) :
    exec (.barrierArrival core id) s = execBarrierArrival core id s := rfl
@[simp] theorem exec_barrierPhaseComplete (core id : Nat) (s : State) :
    exec (.barrierPhaseComplete core id) s = execBarrierPhaseComplete core id s := rfl
@[simp] theorem exec_skipperTick (core : Nat) (s : State) : exec (.skipperTick core) s = execSkipperTick core s := rfl
@[simp] theorem exec_skipperOccupancy (frm dest n : Nat) (s : State) :
    exec (.skipperOccupancy frm dest n) s = execSkipperOccupancy frm dest n s := rfl
@[simp] theorem exec_skipperOffer (frm dest k : Nat) (s : State) :
    exec (.skipperOffer frm dest k) s = execSkipperOffer frm dest k s := rfl
@[simp] theorem exec_skipperGrant (frm dest g : Nat) (s : State) :
    exec (.skipperGrant frm dest g) s = execSkipperGrant frm dest g s := rfl
@[simp] theorem exec_skipperTransfer (frm dest g : Nat) (entries : List (Word × Word)) (s : State) :
    exec (.skipperTransfer frm dest g entries) s = execSkipperTransfer frm dest g entries s := rfl
@[simp] theorem exec_tileRequest (core slot serial : Nat) (s : State) :
    exec (.tileRequest core slot serial) s = execTileRequest core slot serial s := rfl
@[simp] theorem exec_tileReply (core slot serial : Nat) (tile : Option Word) (s : State) :
    exec (.tileReply core slot serial tile) s = execTileReply core slot serial tile s := rfl
@[simp] theorem exec_invocationMessage (m : Nat) (s : State) :
    exec (.invocationMessage m) s = execInvocationMessage m s := rfl
@[simp] theorem exec_invocationReply (m : Nat) (s : State) :
    exec (.invocationReply m) s = execInvocationReply m s := rfl
@[simp] theorem exec_instantBegin (cluster graph : Nat) (s : State) :
    exec (.instantBegin cluster graph) s = execInstantBegin cluster graph s := rfl
@[simp] theorem exec_nodeStart (cluster graph node : Nat) (s : State) :
    exec (.nodeStart cluster graph node) s = execNodeStart cluster graph node s := rfl
@[simp] theorem exec_emitMessage (cluster graph node sig : Nat) (v : Word) (s : State) :
    exec (.emitMessage cluster graph node sig v) s = execEmitMessage cluster graph node sig v s := rfl
@[simp] theorem exec_signalQuery (cluster graph node : Nat) (s : State) :
    exec (.signalQuery cluster graph node) s = execSignalQuery cluster graph node s := rfl
@[simp] theorem exec_channelRequest (cluster graph node : Nat) (s : State) :
    exec (.channelRequest cluster graph node) s = execChannelRequest cluster graph node s := rfl
@[simp] theorem exec_instantEnd (cluster graph : Nat) (s : State) :
    exec (.instantEnd cluster graph) s = execInstantEnd cluster graph s := rfl
@[simp] theorem exec_causalityFreeze (cluster graph : Nat) (s : State) :
    exec (.causalityFreeze cluster graph) s = execCausalityFreeze cluster graph s := rfl
@[simp] theorem exec_frozenInvocation (cluster graph : Nat) (s : State) :
    exec (.frozenInvocation cluster graph) s = execFrozenInvocation cluster graph s := rfl
@[simp] theorem exec_regionForcedReadout (cluster : Nat) (s : State) :
    exec (.regionForcedReadout cluster) s = execRegionForcedReadout cluster s := rfl
@[simp] theorem exec_staticEnergyTick (core : Nat) (s : State) :
    exec (.staticEnergyTick core) s = execStaticEnergyTick core s := rfl
@[simp] theorem exec_permitAudit (die : Nat) (s : State) : exec (.permitAudit die) s = execPermitAudit die s := rfl
@[simp] theorem exec_linkRetrainEnd (die link : Nat) (s : State) :
    exec (.linkRetrainEnd die link) s = execLinkRetrainEnd die link s := rfl
@[simp] theorem exec_placement (die : Nat) (s : State) : exec (.placement die) s = execPlacement die s := rfl
@[simp] theorem exec_launchComplete (launch : Nat) (s : State) :
    exec (.launchComplete launch) s = execLaunchComplete launch s := rfl
@[simp] theorem exec_lazySave (core cid : Nat) (s : State) :
    exec (.lazySave core cid) s = execLazySave core cid s := rfl
@[simp] theorem exec_preemptComplete (die cid : Nat) (s : State) :
    exec (.preemptComplete die cid) s = execPreemptComplete die cid s := rfl
@[simp] theorem exec_contextSave (core cid : Nat) (s : State) :
    exec (.contextSave core cid) s = execContextSave core cid s := rfl
@[simp] theorem exec_contextRestore (core cid : Nat) (s : State) :
    exec (.contextRestore core cid) s = execContextRestore core cid s := rfl
@[simp] theorem exec_killMessageArrival (core cid : Nat) (s : State) :
    exec (.killMessageArrival core cid) s = execKillMessageArrival core cid s := rfl
@[simp] theorem exec_killWindowEnd (core cid : Nat) (s : State) :
    exec (.killWindowEnd core cid) s = execKillWindowEnd core cid s := rfl
@[simp] theorem exec_killDone (die cid : Nat) (s : State) : exec (.killDone die cid) s = execKillDone die cid s := rfl
@[simp] theorem exec_unhandledTrapKill (die cid reason : Nat) (s : State) :
    exec (.unhandledTrapKill die cid reason) s = execUnhandledTrapKill die cid reason s := rfl
@[simp] theorem exec_eventAcceptance (die : Nat) (s : State) :
    exec (.eventAcceptance die) s = execEventAcceptance die s := rfl
@[simp] theorem exec_debugStepEnd (core slot : Nat) (s : State) :
    exec (.debugStepEnd core slot) s = execDebugStepEnd core slot s := rfl
@[simp] theorem exec_tdiError (part : Nat) (s : State) : exec (.tdiError part) s = execTdiError part s := rfl
@[simp] theorem exec_romVerify (s : State) : exec (.romVerify) s = execRomVerify s := rfl
@[simp] theorem exec_fullEntry (s : State) : exec (.fullEntry) s = execFullEntry s := rfl
@[simp] theorem exec_powerStateEntry (unit index : Nat) (s : State) :
    exec (.powerStateEntry unit index) s = execPowerStateEntry unit index s := rfl
@[simp] theorem exec_powerStateExit (unit index : Nat) (s : State) :
    exec (.powerStateExit unit index) s = execPowerStateExit unit index s := rfl
@[simp] theorem exec_clockThrottle (watts : Nat) (s : State) :
    exec (.clockThrottle watts) s = execClockThrottle watts s := rfl
@[simp] theorem exec_nodeDoneMessage (cluster graph node : Nat) (sigs : Word) (kind : Nat) (s : State) :
    exec (.nodeDoneMessage cluster graph node sigs kind) s = execNodeDoneMessage cluster graph node sigs kind s := rfl
@[simp] theorem exec_wastedSlot (core slot : Nat) (s : State) :
    exec (.wastedSlot core slot) s = execWastedSlot core slot s := rfl
@[simp] theorem exec_collectivePhaseEnd (coll : Nat) (s : State) :
    exec (.collectivePhaseEnd coll) s = execCollectivePhaseEnd coll s := rfl
@[simp] theorem exec_waitCallTimeout (app launch : Nat) (s : State) :
    exec (.waitCallTimeout app launch) s = execWaitCallTimeout app launch s := rfl
@[simp] theorem exec_invalidate (die cid va count : Nat) (s : State) :
    exec (.invalidate die cid va count) s = execInvalidate die cid va count s := rfl
@[simp] theorem exec_interrupt (die cid core thread : Nat) (word : BitVec 32) (s : State) :
    exec (.interrupt die cid core thread word) s = execInterrupt die cid core thread word s := rfl
@[simp] theorem exec_saveResume (die cid core : Nat) (s : State) :
    exec (.saveResume die cid core) s = execSaveResume die cid core s := rfl
@[simp] theorem exec_idleRead (die core : Nat) (s : State) :
    exec (.idleRead die core) s = execIdleRead die core s := rfl
@[simp] theorem exec_debugHalt (die core : Nat) (s : State) :
    exec (.debugHalt die core) s = execDebugHalt die core s := rfl
@[simp] theorem exec_debugGo (die core : Nat) (s : State) : exec (.debugGo die core) s = execDebugGo die core s := rfl
@[simp] theorem exec_saveArea (die cid core base len : Nat) (s : State) :
    exec (.saveArea die cid core base len) s = execSaveArea die cid core base len s := rfl
@[simp] theorem exec_groupSet (die group npart : Nat) (members : List (Nat × Nat)) (s : State) :
    exec (.groupSet die group npart members) s = execGroupSet die group npart members s := rfl
@[simp] theorem exec_debugRead (die cid core off len buf : Nat) (s : State) :
    exec (.debugRead die cid core off len buf) s = execDebugRead die cid core off len buf s := rfl
@[simp] theorem exec_debugWrite (die cid core off : Nat) (bytes : List Byte) (s : State) :
    exec (.debugWrite die cid core off bytes) s = execDebugWrite die cid core off bytes s := rfl
@[simp] theorem exec_debugStep (die cid core thread : Nat) (s : State) :
    exec (.debugStep die cid core thread) s = execDebugStep die cid core thread s := rfl
@[simp] theorem exec_exit (app : Nat) (code : Word) (s : State) : exec (.exit app code) s = execExit app code s := rfl
@[simp] theorem exec_log (app addr len : Nat) (s : State) : exec (.log app addr len) s = execLog app addr len s := rfl
@[simp] theorem exec_mapx (app : Nat) (words : List IWord) (tail : Nat) (s : State) :
    exec (.mapx app words tail) s = execMapx app words tail s := rfl
@[simp] theorem exec_translatorQuotaExhausted (app : Nat) (s : State) :
    exec (.translatorQuotaExhausted app) s = execTranslatorQuotaExhausted app s := rfl
@[simp] theorem exec_launch (app die : Nat) (desc : BitVec 1024) (s : State) :
    exec (.launch app die desc) s = execLaunch app die desc s := rfl
@[simp] theorem exec_wait (app launch timeout : Nat) (s : State) :
    exec (.wait app launch timeout) s = execWait app launch timeout s := rfl
@[simp] theorem exec_alloc (app bytes : Nat) (word0 : Word) (s : State) :
    exec (.alloc app bytes word0) s = execAlloc app bytes word0 s := rfl
@[simp] theorem exec_free (app va : Nat) (s : State) : exec (.free app va) s = execFree app va s := rfl
@[simp] theorem exec_event (app buf cap : Nat) (s : State) :
    exec (.event app buf cap) s = execEvent app buf cap s := rfl
@[simp] theorem exec_partitionInfo (app buf : Nat) (s : State) :
    exec (.partitionInfo app buf) s = execPartitionInfo app buf s := rfl
@[simp] theorem exec_lockInterface (part : Nat) (s : State) :
    exec (.lockInterface part) s = execLockInterface part s := rfl
@[simp] theorem exec_startInterface (part : Nat) (s : State) :
    exec (.startInterface part) s = execStartInterface part s := rfl
@[simp] theorem exec_stopInterface (part : Nat) (s : State) :
    exec (.stopInterface part) s = execStopInterface part s := rfl
@[simp] theorem exec_getVersion (s : State) : exec (.getVersion) s = execGetVersion s := rfl
@[simp] theorem exec_getCapabilities (s : State) : exec (.getCapabilities) s = execGetCapabilities s := rfl
@[simp] theorem exec_negotiateAlgorithms (s : State) :
    exec (.negotiateAlgorithms) s = execNegotiateAlgorithms s := rfl
@[simp] theorem exec_getDigests (s : State) : exec (.getDigests) s = execGetDigests s := rfl
@[simp] theorem exec_getCertificate (s : State) : exec (.getCertificate) s = execGetCertificate s := rfl
@[simp] theorem exec_challenge (nonce : BitVec 256) (s : State) :
    exec (.challenge nonce) s = execChallenge nonce s := rfl
@[simp] theorem exec_getMeasurements (index : Nat) (s : State) :
    exec (.getMeasurements index) s = execGetMeasurements index s := rfl
@[simp] theorem exec_keyExchange (port : Option Nat) (s : State) :
    exec (.keyExchange port) s = execKeyExchange port s := rfl
@[simp] theorem exec_finish (port : Option Nat) (s : State) : exec (.finish port) s = execFinish port s := rfl
@[simp] theorem exec_latencyToleranceWrite (ns : Nat) (s : State) :
    exec (.latencyToleranceWrite ns) s = execLatencyToleranceWrite ns s := rfl
@[simp] theorem exec_powerCapWrite (watts : Nat) (s : State) :
    exec (.powerCapWrite watts) s = execPowerCapWrite watts s := rfl
@[simp] theorem exec_hostRegisterWrite (off : Nat) (v : Word) (s : State) :
    exec (.hostRegisterWrite off v) s = execHostRegisterWrite off v s := rfl
@[simp] theorem exec_applicationImageLoad (app : Nat) (img : Image) (s : State) :
    exec (.applicationImageLoad app img) s = execApplicationImageLoad app img s := rfl
@[simp] theorem exec_partitionConfiguration (part device : Nat) (dies : List Nat) (keys : List Nat) (s : State) :
    exec (.partitionConfiguration part device dies keys) s = execPartitionConfiguration part device dies keys s := rfl
@[simp] theorem exec_linkBlockReceive (port : Nat) (tagOk : Bool) (s : State) :
    exec (.linkBlockReceive port tagOk) s = execLinkBlockReceive port tagOk s := rfl
@[simp] theorem exec_preempt (die cid : Nat) (forced : Bool) (s : State) :
    exec (.preempt die cid forced) s = execPreempt die cid forced s := rfl
@[simp] theorem exec_kill (die cid : Nat) (s : State) : exec (.kill die cid) s = execKill die cid s := rfl

end Sys2Proof.Machine
end

