-- ==== Sys2Proof/Laws/State.lean ====
section
/-! SUPPORT. One lemma for each field and each update of the state: what an update leaves unchanged. -/

namespace Sys2Proof.Machine

@[simp] theorem State.setCore_now (s : State) (k : Nat) (c : Core) : (s.setCore k c).now = s.now := rfl
@[simp] theorem State.setCore_cur (s : State) (k : Nat) (c : Core) : (s.setCore k c).cur = s.cur := rfl
@[simp] theorem State.setCore_slotPos (s : State) (k : Nat) (c : Core) : (s.setCore k c).slotPos = s.slotPos := rfl
@[simp] theorem State.setCore_serial (s : State) (k : Nat) (c : Core) : (s.setCore k c).serial = s.serial := rfl
@[simp] theorem State.setCore_free (s : State) (k : Nat) (c : Core) : (s.setCore k c).free = s.free := rfl
@[simp] theorem State.setCore_agenda (s : State) (k : Nat) (c : Core) : (s.setCore k c).agenda = s.agenda := rfl
@[simp] theorem State.setCore_mem (s : State) (k : Nat) (c : Core) : (s.setCore k c).mem = s.mem := rfl
@[simp] theorem State.setCore_oldWords (s : State) (k : Nat) (c : Core) : (s.setCore k c).oldWords = s.oldWords := rfl
@[simp] theorem State.setCore_badLines (s : State) (k : Nat) (c : Core) : (s.setCore k c).badLines = s.badLines := rfl
@[simp] theorem State.setCore_clusters (s : State) (k : Nat) (c : Core) : (s.setCore k c).clusters = s.clusters := rfl
@[simp] theorem State.setCore_dies (s : State) (k : Nat) (c : Core) : (s.setCore k c).dies = s.dies := rfl
@[simp] theorem State.setCore_reqs (s : State) (k : Nat) (c : Core) : (s.setCore k c).reqs = s.reqs := rfl
@[simp] theorem State.setCore_turns (s : State) (k : Nat) (c : Core) : (s.setCore k c).turns = s.turns := rfl
@[simp] theorem State.setCore_migs (s : State) (k : Nat) (c : Core) : (s.setCore k c).migs = s.migs := rfl
@[simp] theorem State.setCore_invs (s : State) (k : Nat) (c : Core) : (s.setCore k c).invs = s.invs := rfl
@[simp] theorem State.setCore_colls (s : State) (k : Nat) (c : Core) : (s.setCore k c).colls = s.colls := rfl
@[simp] theorem State.setCore_groups (s : State) (k : Nat) (c : Core) : (s.setCore k c).groups = s.groups := rfl
@[simp] theorem State.setCore_launches (s : State) (k : Nat) (c : Core) : (s.setCore k c).launches = s.launches := rfl
@[simp] theorem State.setCore_apps (s : State) (k : Nat) (c : Core) : (s.setCore k c).apps = s.apps := rfl
@[simp] theorem State.setCore_parts (s : State) (k : Nat) (c : Core) : (s.setCore k c).parts = s.parts := rfl
@[simp] theorem State.setCore_ports (s : State) (k : Nat) (c : Core) : (s.setCore k c).ports = s.ports := rfl
@[simp] theorem State.setCore_spdm (s : State) (k : Nat) (c : Core) : (s.setCore k c).spdm = s.spdm := rfl
@[simp] theorem State.setCore_boot (s : State) (k : Nat) (c : Core) : (s.setCore k c).boot = s.boot := rfl
@[simp] theorem State.setCore_inService (s : State) (k : Nat) (c : Core) : (s.setCore k c).inService = s.inService := rfl
@[simp] theorem State.setCore_trained (s : State) (k : Nat) (c : Core) : (s.setCore k c).trained = s.trained := rfl
@[simp] theorem State.setCore_tolerance (s : State) (k : Nat) (c : Core) : (s.setCore k c).tolerance = s.tolerance := rfl
@[simp] theorem State.setCore_cap (s : State) (k : Nat) (c : Core) : (s.setCore k c).cap = s.cap := rfl
@[simp] theorem State.setCore_clock (s : State) (k : Nat) (c : Core) : (s.setCore k c).clock = s.clock := rfl
@[simp] theorem State.setCore_deep (s : State) (k : Nat) (c : Core) : (s.setCore k c).deep = s.deep := rfl
@[simp] theorem State.setCore_bar0 (s : State) (k : Nat) (c : Core) : (s.setCore k c).bar0 = s.bar0 := rfl
@[simp] theorem State.setCore_appMem (s : State) (k : Nat) (c : Core) : (s.setCore k c).appMem = s.appMem := rfl
@[simp] theorem State.setCore_events (s : State) (k : Nat) (c : Core) : (s.setCore k c).events = s.events := rfl
@[simp] theorem State.setCore_seqNo (s : State) (k : Nat) (c : Core) : (s.setCore k c).seqNo = s.seqNo := rfl
@[simp] theorem State.setCore_copied (s : State) (k : Nat) (c : Core) : (s.setCore k c).copied = s.copied := rfl
@[simp] theorem State.setCore_pages (s : State) (k : Nat) (c : Core) : (s.setCore k c).pages = s.pages := rfl
@[simp] theorem State.setCore_waits (s : State) (k : Nat) (c : Core) : (s.setCore k c).waits = s.waits := rfl
@[simp] theorem State.setCore_replies (s : State) (k : Nat) (c : Core) : (s.setCore k c).replies = s.replies := rfl
@[simp] theorem State.setCore_dmas (s : State) (k : Nat) (c : Core) : (s.setCore k c).dmas = s.dmas := rfl

@[simp] theorem State.updCore_now (s : State) (k : Nat) (f : Core → Core) : (s.updCore k f).now = s.now := rfl
@[simp] theorem State.updCore_cur (s : State) (k : Nat) (f : Core → Core) : (s.updCore k f).cur = s.cur := rfl
@[simp] theorem State.updCore_slotPos (s : State) (k : Nat) (f : Core → Core) : (s.updCore k f).slotPos = s.slotPos := rfl
@[simp] theorem State.updCore_serial (s : State) (k : Nat) (f : Core → Core) : (s.updCore k f).serial = s.serial := rfl
@[simp] theorem State.updCore_free (s : State) (k : Nat) (f : Core → Core) : (s.updCore k f).free = s.free := rfl
@[simp] theorem State.updCore_agenda (s : State) (k : Nat) (f : Core → Core) : (s.updCore k f).agenda = s.agenda := rfl
@[simp] theorem State.updCore_mem (s : State) (k : Nat) (f : Core → Core) : (s.updCore k f).mem = s.mem := rfl
@[simp] theorem State.updCore_oldWords (s : State) (k : Nat) (f : Core → Core) : (s.updCore k f).oldWords = s.oldWords := rfl
@[simp] theorem State.updCore_badLines (s : State) (k : Nat) (f : Core → Core) : (s.updCore k f).badLines = s.badLines := rfl
@[simp] theorem State.updCore_clusters (s : State) (k : Nat) (f : Core → Core) : (s.updCore k f).clusters = s.clusters := rfl
@[simp] theorem State.updCore_dies (s : State) (k : Nat) (f : Core → Core) : (s.updCore k f).dies = s.dies := rfl
@[simp] theorem State.updCore_reqs (s : State) (k : Nat) (f : Core → Core) : (s.updCore k f).reqs = s.reqs := rfl
@[simp] theorem State.updCore_turns (s : State) (k : Nat) (f : Core → Core) : (s.updCore k f).turns = s.turns := rfl
@[simp] theorem State.updCore_migs (s : State) (k : Nat) (f : Core → Core) : (s.updCore k f).migs = s.migs := rfl
@[simp] theorem State.updCore_invs (s : State) (k : Nat) (f : Core → Core) : (s.updCore k f).invs = s.invs := rfl
@[simp] theorem State.updCore_colls (s : State) (k : Nat) (f : Core → Core) : (s.updCore k f).colls = s.colls := rfl
@[simp] theorem State.updCore_groups (s : State) (k : Nat) (f : Core → Core) : (s.updCore k f).groups = s.groups := rfl
@[simp] theorem State.updCore_launches (s : State) (k : Nat) (f : Core → Core) : (s.updCore k f).launches = s.launches := rfl
@[simp] theorem State.updCore_apps (s : State) (k : Nat) (f : Core → Core) : (s.updCore k f).apps = s.apps := rfl
@[simp] theorem State.updCore_parts (s : State) (k : Nat) (f : Core → Core) : (s.updCore k f).parts = s.parts := rfl
@[simp] theorem State.updCore_ports (s : State) (k : Nat) (f : Core → Core) : (s.updCore k f).ports = s.ports := rfl
@[simp] theorem State.updCore_spdm (s : State) (k : Nat) (f : Core → Core) : (s.updCore k f).spdm = s.spdm := rfl
@[simp] theorem State.updCore_boot (s : State) (k : Nat) (f : Core → Core) : (s.updCore k f).boot = s.boot := rfl
@[simp] theorem State.updCore_inService (s : State) (k : Nat) (f : Core → Core) : (s.updCore k f).inService = s.inService := rfl
@[simp] theorem State.updCore_trained (s : State) (k : Nat) (f : Core → Core) : (s.updCore k f).trained = s.trained := rfl
@[simp] theorem State.updCore_tolerance (s : State) (k : Nat) (f : Core → Core) : (s.updCore k f).tolerance = s.tolerance := rfl
@[simp] theorem State.updCore_cap (s : State) (k : Nat) (f : Core → Core) : (s.updCore k f).cap = s.cap := rfl
@[simp] theorem State.updCore_clock (s : State) (k : Nat) (f : Core → Core) : (s.updCore k f).clock = s.clock := rfl
@[simp] theorem State.updCore_deep (s : State) (k : Nat) (f : Core → Core) : (s.updCore k f).deep = s.deep := rfl
@[simp] theorem State.updCore_bar0 (s : State) (k : Nat) (f : Core → Core) : (s.updCore k f).bar0 = s.bar0 := rfl
@[simp] theorem State.updCore_appMem (s : State) (k : Nat) (f : Core → Core) : (s.updCore k f).appMem = s.appMem := rfl
@[simp] theorem State.updCore_events (s : State) (k : Nat) (f : Core → Core) : (s.updCore k f).events = s.events := rfl
@[simp] theorem State.updCore_seqNo (s : State) (k : Nat) (f : Core → Core) : (s.updCore k f).seqNo = s.seqNo := rfl
@[simp] theorem State.updCore_copied (s : State) (k : Nat) (f : Core → Core) : (s.updCore k f).copied = s.copied := rfl
@[simp] theorem State.updCore_pages (s : State) (k : Nat) (f : Core → Core) : (s.updCore k f).pages = s.pages := rfl
@[simp] theorem State.updCore_waits (s : State) (k : Nat) (f : Core → Core) : (s.updCore k f).waits = s.waits := rfl
@[simp] theorem State.updCore_replies (s : State) (k : Nat) (f : Core → Core) : (s.updCore k f).replies = s.replies := rfl
@[simp] theorem State.updCore_dmas (s : State) (k : Nat) (f : Core → Core) : (s.updCore k f).dmas = s.dmas := rfl

@[simp] theorem State.setThr_now (s : State) (k : Key) (t : Thread) : (s.setThr k t).now = s.now := rfl
@[simp] theorem State.setThr_cur (s : State) (k : Key) (t : Thread) : (s.setThr k t).cur = s.cur := rfl
@[simp] theorem State.setThr_slotPos (s : State) (k : Key) (t : Thread) : (s.setThr k t).slotPos = s.slotPos := rfl
@[simp] theorem State.setThr_serial (s : State) (k : Key) (t : Thread) : (s.setThr k t).serial = s.serial := rfl
@[simp] theorem State.setThr_free (s : State) (k : Key) (t : Thread) : (s.setThr k t).free = s.free := rfl
@[simp] theorem State.setThr_agenda (s : State) (k : Key) (t : Thread) : (s.setThr k t).agenda = s.agenda := rfl
@[simp] theorem State.setThr_mem (s : State) (k : Key) (t : Thread) : (s.setThr k t).mem = s.mem := rfl
@[simp] theorem State.setThr_oldWords (s : State) (k : Key) (t : Thread) : (s.setThr k t).oldWords = s.oldWords := rfl
@[simp] theorem State.setThr_badLines (s : State) (k : Key) (t : Thread) : (s.setThr k t).badLines = s.badLines := rfl
@[simp] theorem State.setThr_clusters (s : State) (k : Key) (t : Thread) : (s.setThr k t).clusters = s.clusters := rfl
@[simp] theorem State.setThr_dies (s : State) (k : Key) (t : Thread) : (s.setThr k t).dies = s.dies := rfl
@[simp] theorem State.setThr_reqs (s : State) (k : Key) (t : Thread) : (s.setThr k t).reqs = s.reqs := rfl
@[simp] theorem State.setThr_turns (s : State) (k : Key) (t : Thread) : (s.setThr k t).turns = s.turns := rfl
@[simp] theorem State.setThr_migs (s : State) (k : Key) (t : Thread) : (s.setThr k t).migs = s.migs := rfl
@[simp] theorem State.setThr_invs (s : State) (k : Key) (t : Thread) : (s.setThr k t).invs = s.invs := rfl
@[simp] theorem State.setThr_colls (s : State) (k : Key) (t : Thread) : (s.setThr k t).colls = s.colls := rfl
@[simp] theorem State.setThr_groups (s : State) (k : Key) (t : Thread) : (s.setThr k t).groups = s.groups := rfl
@[simp] theorem State.setThr_launches (s : State) (k : Key) (t : Thread) : (s.setThr k t).launches = s.launches := rfl
@[simp] theorem State.setThr_apps (s : State) (k : Key) (t : Thread) : (s.setThr k t).apps = s.apps := rfl
@[simp] theorem State.setThr_parts (s : State) (k : Key) (t : Thread) : (s.setThr k t).parts = s.parts := rfl
@[simp] theorem State.setThr_ports (s : State) (k : Key) (t : Thread) : (s.setThr k t).ports = s.ports := rfl
@[simp] theorem State.setThr_spdm (s : State) (k : Key) (t : Thread) : (s.setThr k t).spdm = s.spdm := rfl
@[simp] theorem State.setThr_boot (s : State) (k : Key) (t : Thread) : (s.setThr k t).boot = s.boot := rfl
@[simp] theorem State.setThr_inService (s : State) (k : Key) (t : Thread) : (s.setThr k t).inService = s.inService := rfl
@[simp] theorem State.setThr_trained (s : State) (k : Key) (t : Thread) : (s.setThr k t).trained = s.trained := rfl
@[simp] theorem State.setThr_tolerance (s : State) (k : Key) (t : Thread) : (s.setThr k t).tolerance = s.tolerance := rfl
@[simp] theorem State.setThr_cap (s : State) (k : Key) (t : Thread) : (s.setThr k t).cap = s.cap := rfl
@[simp] theorem State.setThr_clock (s : State) (k : Key) (t : Thread) : (s.setThr k t).clock = s.clock := rfl
@[simp] theorem State.setThr_deep (s : State) (k : Key) (t : Thread) : (s.setThr k t).deep = s.deep := rfl
@[simp] theorem State.setThr_bar0 (s : State) (k : Key) (t : Thread) : (s.setThr k t).bar0 = s.bar0 := rfl
@[simp] theorem State.setThr_appMem (s : State) (k : Key) (t : Thread) : (s.setThr k t).appMem = s.appMem := rfl
@[simp] theorem State.setThr_events (s : State) (k : Key) (t : Thread) : (s.setThr k t).events = s.events := rfl
@[simp] theorem State.setThr_seqNo (s : State) (k : Key) (t : Thread) : (s.setThr k t).seqNo = s.seqNo := rfl
@[simp] theorem State.setThr_copied (s : State) (k : Key) (t : Thread) : (s.setThr k t).copied = s.copied := rfl
@[simp] theorem State.setThr_pages (s : State) (k : Key) (t : Thread) : (s.setThr k t).pages = s.pages := rfl
@[simp] theorem State.setThr_waits (s : State) (k : Key) (t : Thread) : (s.setThr k t).waits = s.waits := rfl
@[simp] theorem State.setThr_replies (s : State) (k : Key) (t : Thread) : (s.setThr k t).replies = s.replies := rfl
@[simp] theorem State.setThr_dmas (s : State) (k : Key) (t : Thread) : (s.setThr k t).dmas = s.dmas := rfl

@[simp] theorem State.updThr_now (s : State) (k : Key) (f : Thread → Thread) : (s.updThr k f).now = s.now := rfl
@[simp] theorem State.updThr_cur (s : State) (k : Key) (f : Thread → Thread) : (s.updThr k f).cur = s.cur := rfl
@[simp] theorem State.updThr_slotPos (s : State) (k : Key) (f : Thread → Thread) : (s.updThr k f).slotPos = s.slotPos := rfl
@[simp] theorem State.updThr_serial (s : State) (k : Key) (f : Thread → Thread) : (s.updThr k f).serial = s.serial := rfl
@[simp] theorem State.updThr_free (s : State) (k : Key) (f : Thread → Thread) : (s.updThr k f).free = s.free := rfl
@[simp] theorem State.updThr_agenda (s : State) (k : Key) (f : Thread → Thread) : (s.updThr k f).agenda = s.agenda := rfl
@[simp] theorem State.updThr_mem (s : State) (k : Key) (f : Thread → Thread) : (s.updThr k f).mem = s.mem := rfl
@[simp] theorem State.updThr_oldWords (s : State) (k : Key) (f : Thread → Thread) : (s.updThr k f).oldWords = s.oldWords := rfl
@[simp] theorem State.updThr_badLines (s : State) (k : Key) (f : Thread → Thread) : (s.updThr k f).badLines = s.badLines := rfl
@[simp] theorem State.updThr_clusters (s : State) (k : Key) (f : Thread → Thread) : (s.updThr k f).clusters = s.clusters := rfl
@[simp] theorem State.updThr_dies (s : State) (k : Key) (f : Thread → Thread) : (s.updThr k f).dies = s.dies := rfl
@[simp] theorem State.updThr_reqs (s : State) (k : Key) (f : Thread → Thread) : (s.updThr k f).reqs = s.reqs := rfl
@[simp] theorem State.updThr_turns (s : State) (k : Key) (f : Thread → Thread) : (s.updThr k f).turns = s.turns := rfl
@[simp] theorem State.updThr_migs (s : State) (k : Key) (f : Thread → Thread) : (s.updThr k f).migs = s.migs := rfl
@[simp] theorem State.updThr_invs (s : State) (k : Key) (f : Thread → Thread) : (s.updThr k f).invs = s.invs := rfl
@[simp] theorem State.updThr_colls (s : State) (k : Key) (f : Thread → Thread) : (s.updThr k f).colls = s.colls := rfl
@[simp] theorem State.updThr_groups (s : State) (k : Key) (f : Thread → Thread) : (s.updThr k f).groups = s.groups := rfl
@[simp] theorem State.updThr_launches (s : State) (k : Key) (f : Thread → Thread) : (s.updThr k f).launches = s.launches := rfl
@[simp] theorem State.updThr_apps (s : State) (k : Key) (f : Thread → Thread) : (s.updThr k f).apps = s.apps := rfl
@[simp] theorem State.updThr_parts (s : State) (k : Key) (f : Thread → Thread) : (s.updThr k f).parts = s.parts := rfl
@[simp] theorem State.updThr_ports (s : State) (k : Key) (f : Thread → Thread) : (s.updThr k f).ports = s.ports := rfl
@[simp] theorem State.updThr_spdm (s : State) (k : Key) (f : Thread → Thread) : (s.updThr k f).spdm = s.spdm := rfl
@[simp] theorem State.updThr_boot (s : State) (k : Key) (f : Thread → Thread) : (s.updThr k f).boot = s.boot := rfl
@[simp] theorem State.updThr_inService (s : State) (k : Key) (f : Thread → Thread) : (s.updThr k f).inService = s.inService := rfl
@[simp] theorem State.updThr_trained (s : State) (k : Key) (f : Thread → Thread) : (s.updThr k f).trained = s.trained := rfl
@[simp] theorem State.updThr_tolerance (s : State) (k : Key) (f : Thread → Thread) : (s.updThr k f).tolerance = s.tolerance := rfl
@[simp] theorem State.updThr_cap (s : State) (k : Key) (f : Thread → Thread) : (s.updThr k f).cap = s.cap := rfl
@[simp] theorem State.updThr_clock (s : State) (k : Key) (f : Thread → Thread) : (s.updThr k f).clock = s.clock := rfl
@[simp] theorem State.updThr_deep (s : State) (k : Key) (f : Thread → Thread) : (s.updThr k f).deep = s.deep := rfl
@[simp] theorem State.updThr_bar0 (s : State) (k : Key) (f : Thread → Thread) : (s.updThr k f).bar0 = s.bar0 := rfl
@[simp] theorem State.updThr_appMem (s : State) (k : Key) (f : Thread → Thread) : (s.updThr k f).appMem = s.appMem := rfl
@[simp] theorem State.updThr_events (s : State) (k : Key) (f : Thread → Thread) : (s.updThr k f).events = s.events := rfl
@[simp] theorem State.updThr_seqNo (s : State) (k : Key) (f : Thread → Thread) : (s.updThr k f).seqNo = s.seqNo := rfl
@[simp] theorem State.updThr_copied (s : State) (k : Key) (f : Thread → Thread) : (s.updThr k f).copied = s.copied := rfl
@[simp] theorem State.updThr_pages (s : State) (k : Key) (f : Thread → Thread) : (s.updThr k f).pages = s.pages := rfl
@[simp] theorem State.updThr_waits (s : State) (k : Key) (f : Thread → Thread) : (s.updThr k f).waits = s.waits := rfl
@[simp] theorem State.updThr_replies (s : State) (k : Key) (f : Thread → Thread) : (s.updThr k f).replies = s.replies := rfl
@[simp] theorem State.updThr_dmas (s : State) (k : Key) (f : Thread → Thread) : (s.updThr k f).dmas = s.dmas := rfl

@[simp] theorem State.charge_now (s : State) (core cid eu : Nat) : (s.charge core cid eu).now = s.now := rfl
@[simp] theorem State.charge_cur (s : State) (core cid eu : Nat) : (s.charge core cid eu).cur = s.cur := rfl
@[simp] theorem State.charge_slotPos (s : State) (core cid eu : Nat) : (s.charge core cid eu).slotPos = s.slotPos := rfl
@[simp] theorem State.charge_serial (s : State) (core cid eu : Nat) : (s.charge core cid eu).serial = s.serial := rfl
@[simp] theorem State.charge_free (s : State) (core cid eu : Nat) : (s.charge core cid eu).free = s.free := rfl
@[simp] theorem State.charge_agenda (s : State) (core cid eu : Nat) : (s.charge core cid eu).agenda = s.agenda := rfl
@[simp] theorem State.charge_mem (s : State) (core cid eu : Nat) : (s.charge core cid eu).mem = s.mem := rfl
@[simp] theorem State.charge_oldWords (s : State) (core cid eu : Nat) : (s.charge core cid eu).oldWords = s.oldWords := rfl
@[simp] theorem State.charge_badLines (s : State) (core cid eu : Nat) : (s.charge core cid eu).badLines = s.badLines := rfl
@[simp] theorem State.charge_clusters (s : State) (core cid eu : Nat) : (s.charge core cid eu).clusters = s.clusters := rfl
@[simp] theorem State.charge_dies (s : State) (core cid eu : Nat) : (s.charge core cid eu).dies = s.dies := rfl
@[simp] theorem State.charge_reqs (s : State) (core cid eu : Nat) : (s.charge core cid eu).reqs = s.reqs := rfl
@[simp] theorem State.charge_turns (s : State) (core cid eu : Nat) : (s.charge core cid eu).turns = s.turns := rfl
@[simp] theorem State.charge_migs (s : State) (core cid eu : Nat) : (s.charge core cid eu).migs = s.migs := rfl
@[simp] theorem State.charge_invs (s : State) (core cid eu : Nat) : (s.charge core cid eu).invs = s.invs := rfl
@[simp] theorem State.charge_colls (s : State) (core cid eu : Nat) : (s.charge core cid eu).colls = s.colls := rfl
@[simp] theorem State.charge_groups (s : State) (core cid eu : Nat) : (s.charge core cid eu).groups = s.groups := rfl
@[simp] theorem State.charge_launches (s : State) (core cid eu : Nat) : (s.charge core cid eu).launches = s.launches := rfl
@[simp] theorem State.charge_apps (s : State) (core cid eu : Nat) : (s.charge core cid eu).apps = s.apps := rfl
@[simp] theorem State.charge_parts (s : State) (core cid eu : Nat) : (s.charge core cid eu).parts = s.parts := rfl
@[simp] theorem State.charge_ports (s : State) (core cid eu : Nat) : (s.charge core cid eu).ports = s.ports := rfl
@[simp] theorem State.charge_spdm (s : State) (core cid eu : Nat) : (s.charge core cid eu).spdm = s.spdm := rfl
@[simp] theorem State.charge_boot (s : State) (core cid eu : Nat) : (s.charge core cid eu).boot = s.boot := rfl
@[simp] theorem State.charge_inService (s : State) (core cid eu : Nat) : (s.charge core cid eu).inService = s.inService := rfl
@[simp] theorem State.charge_trained (s : State) (core cid eu : Nat) : (s.charge core cid eu).trained = s.trained := rfl
@[simp] theorem State.charge_tolerance (s : State) (core cid eu : Nat) : (s.charge core cid eu).tolerance = s.tolerance := rfl
@[simp] theorem State.charge_cap (s : State) (core cid eu : Nat) : (s.charge core cid eu).cap = s.cap := rfl
@[simp] theorem State.charge_clock (s : State) (core cid eu : Nat) : (s.charge core cid eu).clock = s.clock := rfl
@[simp] theorem State.charge_deep (s : State) (core cid eu : Nat) : (s.charge core cid eu).deep = s.deep := rfl
@[simp] theorem State.charge_bar0 (s : State) (core cid eu : Nat) : (s.charge core cid eu).bar0 = s.bar0 := rfl
@[simp] theorem State.charge_appMem (s : State) (core cid eu : Nat) : (s.charge core cid eu).appMem = s.appMem := rfl
@[simp] theorem State.charge_events (s : State) (core cid eu : Nat) : (s.charge core cid eu).events = s.events := rfl
@[simp] theorem State.charge_seqNo (s : State) (core cid eu : Nat) : (s.charge core cid eu).seqNo = s.seqNo := rfl
@[simp] theorem State.charge_copied (s : State) (core cid eu : Nat) : (s.charge core cid eu).copied = s.copied := rfl
@[simp] theorem State.charge_pages (s : State) (core cid eu : Nat) : (s.charge core cid eu).pages = s.pages := rfl
@[simp] theorem State.charge_waits (s : State) (core cid eu : Nat) : (s.charge core cid eu).waits = s.waits := rfl
@[simp] theorem State.charge_replies (s : State) (core cid eu : Nat) : (s.charge core cid eu).replies = s.replies := rfl
@[simp] theorem State.charge_dmas (s : State) (core cid eu : Nat) : (s.charge core cid eu).dmas = s.dmas := rfl

@[simp] theorem State.chargeIn_now (s : State) (core d eu : Nat) : (s.chargeIn core d eu).now = s.now := rfl
@[simp] theorem State.chargeIn_cur (s : State) (core d eu : Nat) : (s.chargeIn core d eu).cur = s.cur := rfl
@[simp] theorem State.chargeIn_slotPos (s : State) (core d eu : Nat) : (s.chargeIn core d eu).slotPos = s.slotPos := rfl
@[simp] theorem State.chargeIn_serial (s : State) (core d eu : Nat) : (s.chargeIn core d eu).serial = s.serial := rfl
@[simp] theorem State.chargeIn_free (s : State) (core d eu : Nat) : (s.chargeIn core d eu).free = s.free := rfl
@[simp] theorem State.chargeIn_agenda (s : State) (core d eu : Nat) : (s.chargeIn core d eu).agenda = s.agenda := rfl
@[simp] theorem State.chargeIn_mem (s : State) (core d eu : Nat) : (s.chargeIn core d eu).mem = s.mem := rfl
@[simp] theorem State.chargeIn_oldWords (s : State) (core d eu : Nat) : (s.chargeIn core d eu).oldWords = s.oldWords := rfl
@[simp] theorem State.chargeIn_badLines (s : State) (core d eu : Nat) : (s.chargeIn core d eu).badLines = s.badLines := rfl
@[simp] theorem State.chargeIn_clusters (s : State) (core d eu : Nat) : (s.chargeIn core d eu).clusters = s.clusters := rfl
@[simp] theorem State.chargeIn_dies (s : State) (core d eu : Nat) : (s.chargeIn core d eu).dies = s.dies := rfl
@[simp] theorem State.chargeIn_reqs (s : State) (core d eu : Nat) : (s.chargeIn core d eu).reqs = s.reqs := rfl
@[simp] theorem State.chargeIn_turns (s : State) (core d eu : Nat) : (s.chargeIn core d eu).turns = s.turns := rfl
@[simp] theorem State.chargeIn_migs (s : State) (core d eu : Nat) : (s.chargeIn core d eu).migs = s.migs := rfl
@[simp] theorem State.chargeIn_invs (s : State) (core d eu : Nat) : (s.chargeIn core d eu).invs = s.invs := rfl
@[simp] theorem State.chargeIn_colls (s : State) (core d eu : Nat) : (s.chargeIn core d eu).colls = s.colls := rfl
@[simp] theorem State.chargeIn_groups (s : State) (core d eu : Nat) : (s.chargeIn core d eu).groups = s.groups := rfl
@[simp] theorem State.chargeIn_launches (s : State) (core d eu : Nat) : (s.chargeIn core d eu).launches = s.launches := rfl
@[simp] theorem State.chargeIn_apps (s : State) (core d eu : Nat) : (s.chargeIn core d eu).apps = s.apps := rfl
@[simp] theorem State.chargeIn_parts (s : State) (core d eu : Nat) : (s.chargeIn core d eu).parts = s.parts := rfl
@[simp] theorem State.chargeIn_ports (s : State) (core d eu : Nat) : (s.chargeIn core d eu).ports = s.ports := rfl
@[simp] theorem State.chargeIn_spdm (s : State) (core d eu : Nat) : (s.chargeIn core d eu).spdm = s.spdm := rfl
@[simp] theorem State.chargeIn_boot (s : State) (core d eu : Nat) : (s.chargeIn core d eu).boot = s.boot := rfl
@[simp] theorem State.chargeIn_inService (s : State) (core d eu : Nat) : (s.chargeIn core d eu).inService = s.inService := rfl
@[simp] theorem State.chargeIn_trained (s : State) (core d eu : Nat) : (s.chargeIn core d eu).trained = s.trained := rfl
@[simp] theorem State.chargeIn_tolerance (s : State) (core d eu : Nat) : (s.chargeIn core d eu).tolerance = s.tolerance := rfl
@[simp] theorem State.chargeIn_cap (s : State) (core d eu : Nat) : (s.chargeIn core d eu).cap = s.cap := rfl
@[simp] theorem State.chargeIn_clock (s : State) (core d eu : Nat) : (s.chargeIn core d eu).clock = s.clock := rfl
@[simp] theorem State.chargeIn_deep (s : State) (core d eu : Nat) : (s.chargeIn core d eu).deep = s.deep := rfl
@[simp] theorem State.chargeIn_bar0 (s : State) (core d eu : Nat) : (s.chargeIn core d eu).bar0 = s.bar0 := rfl
@[simp] theorem State.chargeIn_appMem (s : State) (core d eu : Nat) : (s.chargeIn core d eu).appMem = s.appMem := rfl
@[simp] theorem State.chargeIn_events (s : State) (core d eu : Nat) : (s.chargeIn core d eu).events = s.events := rfl
@[simp] theorem State.chargeIn_seqNo (s : State) (core d eu : Nat) : (s.chargeIn core d eu).seqNo = s.seqNo := rfl
@[simp] theorem State.chargeIn_copied (s : State) (core d eu : Nat) : (s.chargeIn core d eu).copied = s.copied := rfl
@[simp] theorem State.chargeIn_pages (s : State) (core d eu : Nat) : (s.chargeIn core d eu).pages = s.pages := rfl
@[simp] theorem State.chargeIn_waits (s : State) (core d eu : Nat) : (s.chargeIn core d eu).waits = s.waits := rfl
@[simp] theorem State.chargeIn_replies (s : State) (core d eu : Nat) : (s.chargeIn core d eu).replies = s.replies := rfl
@[simp] theorem State.chargeIn_dmas (s : State) (core d eu : Nat) : (s.chargeIn core d eu).dmas = s.dmas := rfl

@[simp] theorem State.chargeRun_now (s : State) (core eu : Nat) : (s.chargeRun core eu).now = s.now := rfl
@[simp] theorem State.chargeRun_cur (s : State) (core eu : Nat) : (s.chargeRun core eu).cur = s.cur := rfl
@[simp] theorem State.chargeRun_slotPos (s : State) (core eu : Nat) : (s.chargeRun core eu).slotPos = s.slotPos := rfl
@[simp] theorem State.chargeRun_serial (s : State) (core eu : Nat) : (s.chargeRun core eu).serial = s.serial := rfl
@[simp] theorem State.chargeRun_free (s : State) (core eu : Nat) : (s.chargeRun core eu).free = s.free := rfl
@[simp] theorem State.chargeRun_agenda (s : State) (core eu : Nat) : (s.chargeRun core eu).agenda = s.agenda := rfl
@[simp] theorem State.chargeRun_mem (s : State) (core eu : Nat) : (s.chargeRun core eu).mem = s.mem := rfl
@[simp] theorem State.chargeRun_oldWords (s : State) (core eu : Nat) : (s.chargeRun core eu).oldWords = s.oldWords := rfl
@[simp] theorem State.chargeRun_badLines (s : State) (core eu : Nat) : (s.chargeRun core eu).badLines = s.badLines := rfl
@[simp] theorem State.chargeRun_clusters (s : State) (core eu : Nat) : (s.chargeRun core eu).clusters = s.clusters := rfl
@[simp] theorem State.chargeRun_dies (s : State) (core eu : Nat) : (s.chargeRun core eu).dies = s.dies := rfl
@[simp] theorem State.chargeRun_reqs (s : State) (core eu : Nat) : (s.chargeRun core eu).reqs = s.reqs := rfl
@[simp] theorem State.chargeRun_turns (s : State) (core eu : Nat) : (s.chargeRun core eu).turns = s.turns := rfl
@[simp] theorem State.chargeRun_migs (s : State) (core eu : Nat) : (s.chargeRun core eu).migs = s.migs := rfl
@[simp] theorem State.chargeRun_invs (s : State) (core eu : Nat) : (s.chargeRun core eu).invs = s.invs := rfl
@[simp] theorem State.chargeRun_colls (s : State) (core eu : Nat) : (s.chargeRun core eu).colls = s.colls := rfl
@[simp] theorem State.chargeRun_groups (s : State) (core eu : Nat) : (s.chargeRun core eu).groups = s.groups := rfl
@[simp] theorem State.chargeRun_launches (s : State) (core eu : Nat) : (s.chargeRun core eu).launches = s.launches := rfl
@[simp] theorem State.chargeRun_apps (s : State) (core eu : Nat) : (s.chargeRun core eu).apps = s.apps := rfl
@[simp] theorem State.chargeRun_parts (s : State) (core eu : Nat) : (s.chargeRun core eu).parts = s.parts := rfl
@[simp] theorem State.chargeRun_ports (s : State) (core eu : Nat) : (s.chargeRun core eu).ports = s.ports := rfl
@[simp] theorem State.chargeRun_spdm (s : State) (core eu : Nat) : (s.chargeRun core eu).spdm = s.spdm := rfl
@[simp] theorem State.chargeRun_boot (s : State) (core eu : Nat) : (s.chargeRun core eu).boot = s.boot := rfl
@[simp] theorem State.chargeRun_inService (s : State) (core eu : Nat) : (s.chargeRun core eu).inService = s.inService := rfl
@[simp] theorem State.chargeRun_trained (s : State) (core eu : Nat) : (s.chargeRun core eu).trained = s.trained := rfl
@[simp] theorem State.chargeRun_tolerance (s : State) (core eu : Nat) : (s.chargeRun core eu).tolerance = s.tolerance := rfl
@[simp] theorem State.chargeRun_cap (s : State) (core eu : Nat) : (s.chargeRun core eu).cap = s.cap := rfl
@[simp] theorem State.chargeRun_clock (s : State) (core eu : Nat) : (s.chargeRun core eu).clock = s.clock := rfl
@[simp] theorem State.chargeRun_deep (s : State) (core eu : Nat) : (s.chargeRun core eu).deep = s.deep := rfl
@[simp] theorem State.chargeRun_bar0 (s : State) (core eu : Nat) : (s.chargeRun core eu).bar0 = s.bar0 := rfl
@[simp] theorem State.chargeRun_appMem (s : State) (core eu : Nat) : (s.chargeRun core eu).appMem = s.appMem := rfl
@[simp] theorem State.chargeRun_events (s : State) (core eu : Nat) : (s.chargeRun core eu).events = s.events := rfl
@[simp] theorem State.chargeRun_seqNo (s : State) (core eu : Nat) : (s.chargeRun core eu).seqNo = s.seqNo := rfl
@[simp] theorem State.chargeRun_copied (s : State) (core eu : Nat) : (s.chargeRun core eu).copied = s.copied := rfl
@[simp] theorem State.chargeRun_pages (s : State) (core eu : Nat) : (s.chargeRun core eu).pages = s.pages := rfl
@[simp] theorem State.chargeRun_waits (s : State) (core eu : Nat) : (s.chargeRun core eu).waits = s.waits := rfl
@[simp] theorem State.chargeRun_replies (s : State) (core eu : Nat) : (s.chargeRun core eu).replies = s.replies := rfl
@[simp] theorem State.chargeRun_dmas (s : State) (core eu : Nat) : (s.chargeRun core eu).dmas = s.dmas := rfl

@[simp] theorem State.updCluster_now (s : State) (k : Nat) (f : Cluster → Cluster) : (s.updCluster k f).now = s.now := rfl
@[simp] theorem State.updCluster_cur (s : State) (k : Nat) (f : Cluster → Cluster) : (s.updCluster k f).cur = s.cur := rfl
@[simp] theorem State.updCluster_slotPos (s : State) (k : Nat) (f : Cluster → Cluster) : (s.updCluster k f).slotPos = s.slotPos := rfl
@[simp] theorem State.updCluster_serial (s : State) (k : Nat) (f : Cluster → Cluster) : (s.updCluster k f).serial = s.serial := rfl
@[simp] theorem State.updCluster_free (s : State) (k : Nat) (f : Cluster → Cluster) : (s.updCluster k f).free = s.free := rfl
@[simp] theorem State.updCluster_agenda (s : State) (k : Nat) (f : Cluster → Cluster) : (s.updCluster k f).agenda = s.agenda := rfl
@[simp] theorem State.updCluster_mem (s : State) (k : Nat) (f : Cluster → Cluster) : (s.updCluster k f).mem = s.mem := rfl
@[simp] theorem State.updCluster_oldWords (s : State) (k : Nat) (f : Cluster → Cluster) : (s.updCluster k f).oldWords = s.oldWords := rfl
@[simp] theorem State.updCluster_badLines (s : State) (k : Nat) (f : Cluster → Cluster) : (s.updCluster k f).badLines = s.badLines := rfl
@[simp] theorem State.updCluster_cores (s : State) (k : Nat) (f : Cluster → Cluster) : (s.updCluster k f).cores = s.cores := rfl
@[simp] theorem State.updCluster_dies (s : State) (k : Nat) (f : Cluster → Cluster) : (s.updCluster k f).dies = s.dies := rfl
@[simp] theorem State.updCluster_reqs (s : State) (k : Nat) (f : Cluster → Cluster) : (s.updCluster k f).reqs = s.reqs := rfl
@[simp] theorem State.updCluster_turns (s : State) (k : Nat) (f : Cluster → Cluster) : (s.updCluster k f).turns = s.turns := rfl
@[simp] theorem State.updCluster_migs (s : State) (k : Nat) (f : Cluster → Cluster) : (s.updCluster k f).migs = s.migs := rfl
@[simp] theorem State.updCluster_invs (s : State) (k : Nat) (f : Cluster → Cluster) : (s.updCluster k f).invs = s.invs := rfl
@[simp] theorem State.updCluster_colls (s : State) (k : Nat) (f : Cluster → Cluster) : (s.updCluster k f).colls = s.colls := rfl
@[simp] theorem State.updCluster_groups (s : State) (k : Nat) (f : Cluster → Cluster) : (s.updCluster k f).groups = s.groups := rfl
@[simp] theorem State.updCluster_launches (s : State) (k : Nat) (f : Cluster → Cluster) : (s.updCluster k f).launches = s.launches := rfl
@[simp] theorem State.updCluster_apps (s : State) (k : Nat) (f : Cluster → Cluster) : (s.updCluster k f).apps = s.apps := rfl
@[simp] theorem State.updCluster_parts (s : State) (k : Nat) (f : Cluster → Cluster) : (s.updCluster k f).parts = s.parts := rfl
@[simp] theorem State.updCluster_ports (s : State) (k : Nat) (f : Cluster → Cluster) : (s.updCluster k f).ports = s.ports := rfl
@[simp] theorem State.updCluster_spdm (s : State) (k : Nat) (f : Cluster → Cluster) : (s.updCluster k f).spdm = s.spdm := rfl
@[simp] theorem State.updCluster_boot (s : State) (k : Nat) (f : Cluster → Cluster) : (s.updCluster k f).boot = s.boot := rfl
@[simp] theorem State.updCluster_inService (s : State) (k : Nat) (f : Cluster → Cluster) : (s.updCluster k f).inService = s.inService := rfl
@[simp] theorem State.updCluster_trained (s : State) (k : Nat) (f : Cluster → Cluster) : (s.updCluster k f).trained = s.trained := rfl
@[simp] theorem State.updCluster_tolerance (s : State) (k : Nat) (f : Cluster → Cluster) : (s.updCluster k f).tolerance = s.tolerance := rfl
@[simp] theorem State.updCluster_cap (s : State) (k : Nat) (f : Cluster → Cluster) : (s.updCluster k f).cap = s.cap := rfl
@[simp] theorem State.updCluster_clock (s : State) (k : Nat) (f : Cluster → Cluster) : (s.updCluster k f).clock = s.clock := rfl
@[simp] theorem State.updCluster_deep (s : State) (k : Nat) (f : Cluster → Cluster) : (s.updCluster k f).deep = s.deep := rfl
@[simp] theorem State.updCluster_bar0 (s : State) (k : Nat) (f : Cluster → Cluster) : (s.updCluster k f).bar0 = s.bar0 := rfl
@[simp] theorem State.updCluster_appMem (s : State) (k : Nat) (f : Cluster → Cluster) : (s.updCluster k f).appMem = s.appMem := rfl
@[simp] theorem State.updCluster_events (s : State) (k : Nat) (f : Cluster → Cluster) : (s.updCluster k f).events = s.events := rfl
@[simp] theorem State.updCluster_seqNo (s : State) (k : Nat) (f : Cluster → Cluster) : (s.updCluster k f).seqNo = s.seqNo := rfl
@[simp] theorem State.updCluster_copied (s : State) (k : Nat) (f : Cluster → Cluster) : (s.updCluster k f).copied = s.copied := rfl
@[simp] theorem State.updCluster_pages (s : State) (k : Nat) (f : Cluster → Cluster) : (s.updCluster k f).pages = s.pages := rfl
@[simp] theorem State.updCluster_waits (s : State) (k : Nat) (f : Cluster → Cluster) : (s.updCluster k f).waits = s.waits := rfl
@[simp] theorem State.updCluster_replies (s : State) (k : Nat) (f : Cluster → Cluster) : (s.updCluster k f).replies = s.replies := rfl
@[simp] theorem State.updCluster_dmas (s : State) (k : Nat) (f : Cluster → Cluster) : (s.updCluster k f).dmas = s.dmas := rfl

@[simp] theorem State.updDie_now (s : State) (d : Nat) (f : Die → Die) : (s.updDie d f).now = s.now := rfl
@[simp] theorem State.updDie_cur (s : State) (d : Nat) (f : Die → Die) : (s.updDie d f).cur = s.cur := rfl
@[simp] theorem State.updDie_slotPos (s : State) (d : Nat) (f : Die → Die) : (s.updDie d f).slotPos = s.slotPos := rfl
@[simp] theorem State.updDie_serial (s : State) (d : Nat) (f : Die → Die) : (s.updDie d f).serial = s.serial := rfl
@[simp] theorem State.updDie_free (s : State) (d : Nat) (f : Die → Die) : (s.updDie d f).free = s.free := rfl
@[simp] theorem State.updDie_agenda (s : State) (d : Nat) (f : Die → Die) : (s.updDie d f).agenda = s.agenda := rfl
@[simp] theorem State.updDie_mem (s : State) (d : Nat) (f : Die → Die) : (s.updDie d f).mem = s.mem := rfl
@[simp] theorem State.updDie_oldWords (s : State) (d : Nat) (f : Die → Die) : (s.updDie d f).oldWords = s.oldWords := rfl
@[simp] theorem State.updDie_badLines (s : State) (d : Nat) (f : Die → Die) : (s.updDie d f).badLines = s.badLines := rfl
@[simp] theorem State.updDie_cores (s : State) (d : Nat) (f : Die → Die) : (s.updDie d f).cores = s.cores := rfl
@[simp] theorem State.updDie_clusters (s : State) (d : Nat) (f : Die → Die) : (s.updDie d f).clusters = s.clusters := rfl
@[simp] theorem State.updDie_reqs (s : State) (d : Nat) (f : Die → Die) : (s.updDie d f).reqs = s.reqs := rfl
@[simp] theorem State.updDie_turns (s : State) (d : Nat) (f : Die → Die) : (s.updDie d f).turns = s.turns := rfl
@[simp] theorem State.updDie_migs (s : State) (d : Nat) (f : Die → Die) : (s.updDie d f).migs = s.migs := rfl
@[simp] theorem State.updDie_invs (s : State) (d : Nat) (f : Die → Die) : (s.updDie d f).invs = s.invs := rfl
@[simp] theorem State.updDie_colls (s : State) (d : Nat) (f : Die → Die) : (s.updDie d f).colls = s.colls := rfl
@[simp] theorem State.updDie_groups (s : State) (d : Nat) (f : Die → Die) : (s.updDie d f).groups = s.groups := rfl
@[simp] theorem State.updDie_launches (s : State) (d : Nat) (f : Die → Die) : (s.updDie d f).launches = s.launches := rfl
@[simp] theorem State.updDie_apps (s : State) (d : Nat) (f : Die → Die) : (s.updDie d f).apps = s.apps := rfl
@[simp] theorem State.updDie_parts (s : State) (d : Nat) (f : Die → Die) : (s.updDie d f).parts = s.parts := rfl
@[simp] theorem State.updDie_ports (s : State) (d : Nat) (f : Die → Die) : (s.updDie d f).ports = s.ports := rfl
@[simp] theorem State.updDie_spdm (s : State) (d : Nat) (f : Die → Die) : (s.updDie d f).spdm = s.spdm := rfl
@[simp] theorem State.updDie_boot (s : State) (d : Nat) (f : Die → Die) : (s.updDie d f).boot = s.boot := rfl
@[simp] theorem State.updDie_inService (s : State) (d : Nat) (f : Die → Die) : (s.updDie d f).inService = s.inService := rfl
@[simp] theorem State.updDie_trained (s : State) (d : Nat) (f : Die → Die) : (s.updDie d f).trained = s.trained := rfl
@[simp] theorem State.updDie_tolerance (s : State) (d : Nat) (f : Die → Die) : (s.updDie d f).tolerance = s.tolerance := rfl
@[simp] theorem State.updDie_cap (s : State) (d : Nat) (f : Die → Die) : (s.updDie d f).cap = s.cap := rfl
@[simp] theorem State.updDie_clock (s : State) (d : Nat) (f : Die → Die) : (s.updDie d f).clock = s.clock := rfl
@[simp] theorem State.updDie_deep (s : State) (d : Nat) (f : Die → Die) : (s.updDie d f).deep = s.deep := rfl
@[simp] theorem State.updDie_bar0 (s : State) (d : Nat) (f : Die → Die) : (s.updDie d f).bar0 = s.bar0 := rfl
@[simp] theorem State.updDie_appMem (s : State) (d : Nat) (f : Die → Die) : (s.updDie d f).appMem = s.appMem := rfl
@[simp] theorem State.updDie_events (s : State) (d : Nat) (f : Die → Die) : (s.updDie d f).events = s.events := rfl
@[simp] theorem State.updDie_seqNo (s : State) (d : Nat) (f : Die → Die) : (s.updDie d f).seqNo = s.seqNo := rfl
@[simp] theorem State.updDie_copied (s : State) (d : Nat) (f : Die → Die) : (s.updDie d f).copied = s.copied := rfl
@[simp] theorem State.updDie_pages (s : State) (d : Nat) (f : Die → Die) : (s.updDie d f).pages = s.pages := rfl
@[simp] theorem State.updDie_waits (s : State) (d : Nat) (f : Die → Die) : (s.updDie d f).waits = s.waits := rfl
@[simp] theorem State.updDie_replies (s : State) (d : Nat) (f : Die → Die) : (s.updDie d f).replies = s.replies := rfl
@[simp] theorem State.updDie_dmas (s : State) (d : Nat) (f : Die → Die) : (s.updDie d f).dmas = s.dmas := rfl

@[simp] theorem State.updCtx_now (s : State) (die cid : Nat) (f : Ctx → Ctx) : (s.updCtx die cid f).now = s.now := rfl
@[simp] theorem State.updCtx_cur (s : State) (die cid : Nat) (f : Ctx → Ctx) : (s.updCtx die cid f).cur = s.cur := rfl
@[simp] theorem State.updCtx_slotPos (s : State) (die cid : Nat) (f : Ctx → Ctx) : (s.updCtx die cid f).slotPos = s.slotPos := rfl
@[simp] theorem State.updCtx_serial (s : State) (die cid : Nat) (f : Ctx → Ctx) : (s.updCtx die cid f).serial = s.serial := rfl
@[simp] theorem State.updCtx_free (s : State) (die cid : Nat) (f : Ctx → Ctx) : (s.updCtx die cid f).free = s.free := rfl
@[simp] theorem State.updCtx_agenda (s : State) (die cid : Nat) (f : Ctx → Ctx) : (s.updCtx die cid f).agenda = s.agenda := rfl
@[simp] theorem State.updCtx_mem (s : State) (die cid : Nat) (f : Ctx → Ctx) : (s.updCtx die cid f).mem = s.mem := rfl
@[simp] theorem State.updCtx_oldWords (s : State) (die cid : Nat) (f : Ctx → Ctx) : (s.updCtx die cid f).oldWords = s.oldWords := rfl
@[simp] theorem State.updCtx_badLines (s : State) (die cid : Nat) (f : Ctx → Ctx) : (s.updCtx die cid f).badLines = s.badLines := rfl
@[simp] theorem State.updCtx_cores (s : State) (die cid : Nat) (f : Ctx → Ctx) : (s.updCtx die cid f).cores = s.cores := rfl
@[simp] theorem State.updCtx_clusters (s : State) (die cid : Nat) (f : Ctx → Ctx) : (s.updCtx die cid f).clusters = s.clusters := rfl
@[simp] theorem State.updCtx_reqs (s : State) (die cid : Nat) (f : Ctx → Ctx) : (s.updCtx die cid f).reqs = s.reqs := rfl
@[simp] theorem State.updCtx_turns (s : State) (die cid : Nat) (f : Ctx → Ctx) : (s.updCtx die cid f).turns = s.turns := rfl
@[simp] theorem State.updCtx_migs (s : State) (die cid : Nat) (f : Ctx → Ctx) : (s.updCtx die cid f).migs = s.migs := rfl
@[simp] theorem State.updCtx_invs (s : State) (die cid : Nat) (f : Ctx → Ctx) : (s.updCtx die cid f).invs = s.invs := rfl
@[simp] theorem State.updCtx_colls (s : State) (die cid : Nat) (f : Ctx → Ctx) : (s.updCtx die cid f).colls = s.colls := rfl
@[simp] theorem State.updCtx_groups (s : State) (die cid : Nat) (f : Ctx → Ctx) : (s.updCtx die cid f).groups = s.groups := rfl
@[simp] theorem State.updCtx_launches (s : State) (die cid : Nat) (f : Ctx → Ctx) : (s.updCtx die cid f).launches = s.launches := rfl
@[simp] theorem State.updCtx_apps (s : State) (die cid : Nat) (f : Ctx → Ctx) : (s.updCtx die cid f).apps = s.apps := rfl
@[simp] theorem State.updCtx_parts (s : State) (die cid : Nat) (f : Ctx → Ctx) : (s.updCtx die cid f).parts = s.parts := rfl
@[simp] theorem State.updCtx_ports (s : State) (die cid : Nat) (f : Ctx → Ctx) : (s.updCtx die cid f).ports = s.ports := rfl
@[simp] theorem State.updCtx_spdm (s : State) (die cid : Nat) (f : Ctx → Ctx) : (s.updCtx die cid f).spdm = s.spdm := rfl
@[simp] theorem State.updCtx_boot (s : State) (die cid : Nat) (f : Ctx → Ctx) : (s.updCtx die cid f).boot = s.boot := rfl
@[simp] theorem State.updCtx_inService (s : State) (die cid : Nat) (f : Ctx → Ctx) : (s.updCtx die cid f).inService = s.inService := rfl
@[simp] theorem State.updCtx_trained (s : State) (die cid : Nat) (f : Ctx → Ctx) : (s.updCtx die cid f).trained = s.trained := rfl
@[simp] theorem State.updCtx_tolerance (s : State) (die cid : Nat) (f : Ctx → Ctx) : (s.updCtx die cid f).tolerance = s.tolerance := rfl
@[simp] theorem State.updCtx_cap (s : State) (die cid : Nat) (f : Ctx → Ctx) : (s.updCtx die cid f).cap = s.cap := rfl
@[simp] theorem State.updCtx_clock (s : State) (die cid : Nat) (f : Ctx → Ctx) : (s.updCtx die cid f).clock = s.clock := rfl
@[simp] theorem State.updCtx_deep (s : State) (die cid : Nat) (f : Ctx → Ctx) : (s.updCtx die cid f).deep = s.deep := rfl
@[simp] theorem State.updCtx_bar0 (s : State) (die cid : Nat) (f : Ctx → Ctx) : (s.updCtx die cid f).bar0 = s.bar0 := rfl
@[simp] theorem State.updCtx_appMem (s : State) (die cid : Nat) (f : Ctx → Ctx) : (s.updCtx die cid f).appMem = s.appMem := rfl
@[simp] theorem State.updCtx_events (s : State) (die cid : Nat) (f : Ctx → Ctx) : (s.updCtx die cid f).events = s.events := rfl
@[simp] theorem State.updCtx_seqNo (s : State) (die cid : Nat) (f : Ctx → Ctx) : (s.updCtx die cid f).seqNo = s.seqNo := rfl
@[simp] theorem State.updCtx_copied (s : State) (die cid : Nat) (f : Ctx → Ctx) : (s.updCtx die cid f).copied = s.copied := rfl
@[simp] theorem State.updCtx_pages (s : State) (die cid : Nat) (f : Ctx → Ctx) : (s.updCtx die cid f).pages = s.pages := rfl
@[simp] theorem State.updCtx_waits (s : State) (die cid : Nat) (f : Ctx → Ctx) : (s.updCtx die cid f).waits = s.waits := rfl
@[simp] theorem State.updCtx_replies (s : State) (die cid : Nat) (f : Ctx → Ctx) : (s.updCtx die cid f).replies = s.replies := rfl
@[simp] theorem State.updCtx_dmas (s : State) (die cid : Nat) (f : Ctx → Ctx) : (s.updCtx die cid f).dmas = s.dmas := rfl

@[simp] theorem State.post_now (s : State) (n : Nat) (e : Instr) : (s.post n e).now = s.now := rfl
@[simp] theorem State.post_cur (s : State) (n : Nat) (e : Instr) : (s.post n e).cur = s.cur := rfl
@[simp] theorem State.post_slotPos (s : State) (n : Nat) (e : Instr) : (s.post n e).slotPos = s.slotPos := rfl
@[simp] theorem State.post_serial (s : State) (n : Nat) (e : Instr) : (s.post n e).serial = s.serial := rfl
@[simp] theorem State.post_free (s : State) (n : Nat) (e : Instr) : (s.post n e).free = s.free := rfl
@[simp] theorem State.post_mem (s : State) (n : Nat) (e : Instr) : (s.post n e).mem = s.mem := rfl
@[simp] theorem State.post_oldWords (s : State) (n : Nat) (e : Instr) : (s.post n e).oldWords = s.oldWords := rfl
@[simp] theorem State.post_badLines (s : State) (n : Nat) (e : Instr) : (s.post n e).badLines = s.badLines := rfl
@[simp] theorem State.post_cores (s : State) (n : Nat) (e : Instr) : (s.post n e).cores = s.cores := rfl
@[simp] theorem State.post_clusters (s : State) (n : Nat) (e : Instr) : (s.post n e).clusters = s.clusters := rfl
@[simp] theorem State.post_dies (s : State) (n : Nat) (e : Instr) : (s.post n e).dies = s.dies := rfl
@[simp] theorem State.post_reqs (s : State) (n : Nat) (e : Instr) : (s.post n e).reqs = s.reqs := rfl
@[simp] theorem State.post_turns (s : State) (n : Nat) (e : Instr) : (s.post n e).turns = s.turns := rfl
@[simp] theorem State.post_migs (s : State) (n : Nat) (e : Instr) : (s.post n e).migs = s.migs := rfl
@[simp] theorem State.post_invs (s : State) (n : Nat) (e : Instr) : (s.post n e).invs = s.invs := rfl
@[simp] theorem State.post_colls (s : State) (n : Nat) (e : Instr) : (s.post n e).colls = s.colls := rfl
@[simp] theorem State.post_groups (s : State) (n : Nat) (e : Instr) : (s.post n e).groups = s.groups := rfl
@[simp] theorem State.post_launches (s : State) (n : Nat) (e : Instr) : (s.post n e).launches = s.launches := rfl
@[simp] theorem State.post_apps (s : State) (n : Nat) (e : Instr) : (s.post n e).apps = s.apps := rfl
@[simp] theorem State.post_parts (s : State) (n : Nat) (e : Instr) : (s.post n e).parts = s.parts := rfl
@[simp] theorem State.post_ports (s : State) (n : Nat) (e : Instr) : (s.post n e).ports = s.ports := rfl
@[simp] theorem State.post_spdm (s : State) (n : Nat) (e : Instr) : (s.post n e).spdm = s.spdm := rfl
@[simp] theorem State.post_boot (s : State) (n : Nat) (e : Instr) : (s.post n e).boot = s.boot := rfl
@[simp] theorem State.post_inService (s : State) (n : Nat) (e : Instr) : (s.post n e).inService = s.inService := rfl
@[simp] theorem State.post_trained (s : State) (n : Nat) (e : Instr) : (s.post n e).trained = s.trained := rfl
@[simp] theorem State.post_tolerance (s : State) (n : Nat) (e : Instr) : (s.post n e).tolerance = s.tolerance := rfl
@[simp] theorem State.post_cap (s : State) (n : Nat) (e : Instr) : (s.post n e).cap = s.cap := rfl
@[simp] theorem State.post_clock (s : State) (n : Nat) (e : Instr) : (s.post n e).clock = s.clock := rfl
@[simp] theorem State.post_deep (s : State) (n : Nat) (e : Instr) : (s.post n e).deep = s.deep := rfl
@[simp] theorem State.post_bar0 (s : State) (n : Nat) (e : Instr) : (s.post n e).bar0 = s.bar0 := rfl
@[simp] theorem State.post_appMem (s : State) (n : Nat) (e : Instr) : (s.post n e).appMem = s.appMem := rfl
@[simp] theorem State.post_events (s : State) (n : Nat) (e : Instr) : (s.post n e).events = s.events := rfl
@[simp] theorem State.post_seqNo (s : State) (n : Nat) (e : Instr) : (s.post n e).seqNo = s.seqNo := rfl
@[simp] theorem State.post_copied (s : State) (n : Nat) (e : Instr) : (s.post n e).copied = s.copied := rfl
@[simp] theorem State.post_pages (s : State) (n : Nat) (e : Instr) : (s.post n e).pages = s.pages := rfl
@[simp] theorem State.post_waits (s : State) (n : Nat) (e : Instr) : (s.post n e).waits = s.waits := rfl
@[simp] theorem State.post_replies (s : State) (n : Nat) (e : Instr) : (s.post n e).replies = s.replies := rfl
@[simp] theorem State.post_dmas (s : State) (n : Nat) (e : Instr) : (s.post n e).dmas = s.dmas := rfl

end Sys2Proof.Machine
end

