-- ==== Sys2Proof/Laws/Tables.lean ====
section
/-! SUPPORT. Tables, vectors, and reading back what was put: cores, threads, clusters, dies, contexts. -/

namespace Sys2Proof.Machine

@[simp] theorem tget_tput_same {α : Type} (t : Tab α) (n : Nat) (x : α) : tget (tput t n x) n = some x := by
  induction t with
  | nil => simp [tput, tget]
  | cons p t ih =>
    obtain ⟨k, a⟩ := p
    simp only [tput]
    split
    · simp [tget]
    · split
      · simp [tget]
      · rw [tget, if_neg (by omega)]; exact ih

theorem tget_tput_ne {α : Type} (t : Tab α) {n m : Nat} (x : α) (h : m ≠ n) : tget (tput t n x) m = tget t m := by
  induction t with
  | nil => simp [tput, tget, Ne.symm h]
  | cons p t ih =>
    obtain ⟨k, a⟩ := p
    simp only [tput]
    split
    · simp [tget, Ne.symm h]
    · split
      · next h1 h2 => subst h2; simp [tget, Ne.symm h]
      · simp only [tget, ih]

@[simp] theorem tput_tput {α : Type} (t : Tab α) (n : Nat) (x y : α) : tput (tput t n x) n y = tput t n y := by
  induction t with
  | nil => simp [tput]
  | cons p t ih =>
    obtain ⟨k, a⟩ := p
    simp only [tput]
    split
    · simp [tput]
    · split
      · next h1 h2 => subst h2; simp [tput]
      · next h1 h2 => rw [tput, if_neg h1, if_neg h2, ih]

@[simp] theorem vset_vset {α : Type} {n : Nat} (v : Vector α n) (i : Nat) (a b : α) : vset (vset v i a) i b = vset v i b := by
  simp [vset, Vector.setIfInBounds]

@[simp] theorem vget_vset_same {α : Type} {n : Nat} (v : Vector α n) (i : Nat) (a d : α) (h : i < n) :
    vget (vset v i a) i d = a := by
  simp [vget, vset, h]

theorem vget_vset_ne {α : Type} {n : Nat} (v : Vector α n) (i j : Nat) (a d : α) (h : j ≠ i) :
    vget (vset v i a) j d = vget v j d := by
  simp [vget, vset, Array.getD_eq_getD_getElem?, Ne.symm h]

@[simp] theorem State.core_setCore (s : State) (k : Nat) (c : Core) : (s.setCore k c).core k = c := by
  simp [State.core, State.setCore]

theorem State.core_setCore_ne (s : State) {k j : Nat} (c : Core) (h : j ≠ k) : (s.setCore k c).core j = s.core j := by
  simp [State.core, State.setCore, tget_tput_ne _ _ h]

@[simp] theorem State.core_updCore (s : State) (k : Nat) (f : Core → Core) : (s.updCore k f).core k = f (s.core k) := by
  simp [State.updCore]

theorem State.core_updCore_ne (s : State) {k j : Nat} (f : Core → Core) (h : j ≠ k) :
    (s.updCore k f).core j = s.core j := by
  simp [State.updCore, State.core_setCore_ne _ _ h]

@[simp] theorem State.cluster_updCluster (s : State) (k : Nat) (f : Cluster → Cluster) :
    (s.updCluster k f).cluster k = f (s.cluster k) := by
  simp [State.cluster, State.updCluster]

theorem State.cluster_updCluster_ne (s : State) {k j : Nat} (f : Cluster → Cluster) (h : j ≠ k) :
    (s.updCluster k f).cluster j = s.cluster j := by
  simp [State.cluster, State.updCluster, tget_tput_ne _ _ h]

@[simp] theorem State.die_updDie (s : State) (d : Nat) (f : Die → Die) : (s.updDie d f).die d = f (s.die d) := by
  simp [State.die, State.updDie]

theorem State.die_updDie_ne (s : State) {d e : Nat} (f : Die → Die) (h : e ≠ d) : (s.updDie d f).die e = s.die e := by
  simp [State.die, State.updDie, tget_tput_ne _ _ h]

@[simp] theorem State.ctx_updCtx (s : State) (d c : Nat) (f : Ctx → Ctx) : (s.updCtx d c f).ctx d c = f (s.ctx d c) := by
  simp [State.ctx, State.updCtx]

@[simp] theorem Core.ctx_updCtx (c : Core) (cid : Nat) (f : CCtx → CCtx) : (c.updCtx cid f).ctx cid = f (c.ctx cid) := by
  simp [Core.ctx, Core.updCtx]

theorem Core.ctx_updCtx_ne (c : Core) {cid j : Nat} (f : CCtx → CCtx) (h : j ≠ cid) : (c.updCtx cid f).ctx j = c.ctx j := by
  simp [Core.ctx, Core.updCtx, tget_tput_ne _ _ h]

/-! ### Threads -/

@[simp] theorem Core.thr_setThr (c : Core) (i : Nat) (t : Thread) (h : i < 16) : (c.setThr i t).thr i = t := by
  simp [Core.thr, Core.setThr, h]

theorem Core.thr_setThr_ne (c : Core) {i j : Nat} (t : Thread) (h : j ≠ i) : (c.setThr i t).thr j = c.thr j := by
  simp [Core.thr, Core.setThr, vget_vset_ne _ _ _ _ _ h]

@[simp] theorem State.thr_setThr (s : State) (k : Key) (t : Thread) (h : k.2 < 16) : (s.setThr k t).thr k = t := by
  simp [State.thr, State.setThr, h]

theorem State.thr_setThr_ne (s : State) {k j : Key} (t : Thread) (h : j ≠ k) : (s.setThr k t).thr j = s.thr j := by
  unfold State.thr State.setThr
  by_cases h1 : j.1 = k.1
  · have h2 : j.2 ≠ k.2 := fun h2 => h (Prod.ext h1 h2)
    rw [h1, State.core_updCore, Core.thr_setThr_ne _ _ h2]
  · rw [State.core_updCore_ne _ _ h1]

@[simp] theorem State.thr_updThr (s : State) (k : Key) (f : Thread → Thread) (h : k.2 < 16) :
    (s.updThr k f).thr k = f (s.thr k) := by
  simp [State.updThr, h]

theorem State.thr_updThr_ne (s : State) {k j : Key} (f : Thread → Thread) (h : j ≠ k) : (s.updThr k f).thr j = s.thr j := by
  simp [State.updThr, State.thr_setThr_ne _ _ h]

@[simp] theorem State.setCore_setCore (s : State) (k : Nat) (c d : Core) : (s.setCore k c).setCore k d = s.setCore k d := by
  simp [State.setCore]

theorem State.updCore_updCore (s : State) (k : Nat) (f g : Core → Core) :
    (s.updCore k f).updCore k g = s.updCore k (fun c => g (f c)) := by
  unfold State.updCore; simp

@[simp] theorem State.setThr_setThr (s : State) (k : Key) (t u : Thread) : (s.setThr k t).setThr k u = s.setThr k u := by
  simp only [State.setThr, State.updCore_updCore]
  congr 1
  funext c
  simp [Core.setThr]

theorem State.updThr_updThr (s : State) (k : Key) (f g : Thread → Thread) (h : k.2 < 16) :
    (s.updThr k f).updThr k g = s.updThr k (fun t => g (f t)) := by
  simp [State.updThr, h]

/-! ### Charges -/

@[simp] theorem State.thr_charge (s : State) (core cid eu : Nat) (k : Key) : (s.charge core cid eu).thr k = s.thr k := by
  unfold State.thr State.charge
  by_cases h : k.1 = core
  · subst h; simp [Core.updCtx, Core.thr]
  · rw [State.core_updCore_ne _ _ h]

@[simp] theorem State.core_chargeIn (s : State) (core d eu : Nat) :
    (s.chargeIn core d eu).core core = (s.core core).updCtx (s.core core).cid (·.owe s.now (s.now + d) eu) := by
  simp [State.chargeIn]

theorem State.core_chargeIn_ne (s : State) {core j : Nat} (d eu : Nat) (h : j ≠ core) :
    (s.chargeIn core d eu).core j = s.core j := by
  simp [State.chargeIn, State.core_updCore_ne _ _ h]

@[simp] theorem State.thr_chargeIn (s : State) (core d eu : Nat) (k : Key) : (s.chargeIn core d eu).thr k = s.thr k := by
  unfold State.thr
  by_cases h : k.1 = core
  · subst h; rw [State.core_chargeIn]; rfl
  · rw [State.core_chargeIn_ne _ _ _ h]

@[simp] theorem State.thr_chargeRun (s : State) (core eu : Nat) (k : Key) : (s.chargeRun core eu).thr k = s.thr k :=
  State.thr_chargeIn s core 0 eu k

@[simp] theorem State.core_updThr_run (s : State) (k : Key) (f : Thread → Thread) (c : Nat) :
    ((s.updThr k f).core c).run = (s.core c).run := by
  unfold State.updThr State.setThr
  by_cases h : c = k.1
  · subst h; simp [Core.setThr]
  · rw [State.core_updCore_ne _ _ h]

@[simp] theorem State.core_setThr_run (s : State) (k : Key) (t : Thread) (c : Nat) :
    ((s.setThr k t).core c).run = (s.core c).run := by
  unfold State.setThr
  by_cases h : c = k.1
  · subst h; simp [Core.setThr]
  · rw [State.core_updCore_ne _ _ h]

@[simp] theorem State.core_setThr_ctxs (s : State) (k : Key) (t : Thread) (c : Nat) :
    ((s.setThr k t).core c).ctxs = (s.core c).ctxs := by
  unfold State.setThr
  by_cases h : c = k.1
  · subst h; simp [Core.setThr]
  · rw [State.core_updCore_ne _ _ h]

end Sys2Proof.Machine
end

