-- ==== Sys2Proof/Laws/Memory.lean ====
section
/-! SUPPORT. Memory: the canonical form and that every operation keeps it; reading back what was written. -/

namespace Sys2Proof.Machine

/-- The canonical form without its head: every later address lies above a. -/
theorem Mem.wf_cons (a : Nat) (b : Byte) (m : Mem) :
    Mem.wf ((a, b) :: m) = true ↔ b ≠ Mem.unlisted ∧ (∀ c ∈ m.head?, a < c.1) ∧ Mem.wf m = true := by
  cases m with
  | nil => simp [Mem.wf]
  | cons d m => simp [Mem.wf, and_assoc]

theorem Mem.wf_tail {c : Host.Cell} {m : Mem} (h : Mem.wf (c :: m) = true) : Mem.wf m = true := by
  obtain ⟨a, b⟩ := c
  exact ((Mem.wf_cons a b m).1 h).2.2

/-- Every address of a canonical memory lies above a bound of its first. -/
theorem Mem.wf_lt {a : Nat} {b : Byte} {m : Mem} (h : Mem.wf ((a, b) :: m) = true) : ∀ c ∈ m, a < c.1 := by
  induction m generalizing a b with
  | nil => simp
  | cons d m ih =>
    obtain ⟨k, v⟩ := d
    have h1 := (Mem.wf_cons a b _).1 h
    have hk : a < k := h1.2.1 (k, v) (by simp)
    intro c hc
    rcases List.mem_cons.1 hc with rfl | hc
    · exact hk
    · exact Nat.lt_trans hk (ih h1.2.2 c hc)

theorem Mem.head_set (m : Mem) (a : Nat) (b : Byte) (c : Host.Cell) (h : c ∈ (m.set a b).head?) : c.1 = a ∨ c ∈ m := by
  induction m with
  | nil =>
    simp only [Mem.set] at h
    split at h
    · simp at h
    · left; simp only [List.head?_cons, Option.mem_some_iff] at h; rw [← h]
  | cons d m ih =>
    obtain ⟨k, v⟩ := d
    simp only [Mem.set] at h
    split at h
    · split at h
      · right; exact List.mem_of_mem_head? h
      · left; simp only [List.head?_cons, Option.mem_some_iff] at h; rw [← h]
    · split at h
      · split at h
        · right; exact List.mem_cons_of_mem _ (List.mem_of_mem_head? h)
        · left; simp only [List.head?_cons, Option.mem_some_iff] at h; rw [← h]
      · right; simp only [List.head?_cons, Option.mem_some_iff] at h; rw [← h]; simp

theorem Mem.wf_set (m : Mem) (a : Nat) (b : Byte) (h : m.wf = true) : (m.set a b).wf = true := by
  induction m with
  | nil =>
    simp only [Mem.set]
    split <;> simp_all [Mem.wf]
  | cons d m ih =>
    obtain ⟨k, v⟩ := d
    have hc := (Mem.wf_cons k v m).1 h
    simp only [Mem.set]
    split
    · split
      · exact h
      · next hb => exact (Mem.wf_cons a b _).2 ⟨hb, by simpa using ‹a < k›, h⟩
    · split
      · split
        · exact hc.2.2
        · next hak hb => exact (Mem.wf_cons a b m).2 ⟨hb, by subst hak; exact hc.2.1, hc.2.2⟩
      · next h1 h2 =>
        refine (Mem.wf_cons k v _).2 ⟨hc.1, ?_, ih hc.2.2⟩
        intro c hcm
        rcases Mem.head_set m a b c hcm with h3 | h3
        · omega
        · exact Mem.wf_lt h c h3

theorem Mem.wf_write (m : Mem) (a n v : Nat) (h : m.wf = true) : (m.write a n v).wf = true := by
  induction n generalizing m a v with
  | zero => exact h
  | succ n ih => exact ih _ _ _ (Mem.wf_set _ _ _ h)

theorem Mem.wf_writeBytes (m : Mem) (a : Nat) (bs : List Byte) (h : m.wf = true) : (m.writeBytes a bs).wf = true := by
  induction bs generalizing m a with
  | nil => exact h
  | cons b bs ih => exact ih _ _ (Mem.wf_set _ _ _ h)

theorem Mem.get_of_lt {m : Mem} {a : Nat} (h : ∀ c ∈ m, a < c.1) : m.get a = Mem.unlisted := by
  cases m with
  | nil => rfl
  | cons d m =>
    obtain ⟨k, v⟩ := d
    have : a < k := h (k, v) (by simp)
    simp only [Mem.get]
    rw [if_neg (by omega), if_pos this]

theorem Mem.get_set_same (m : Mem) (a : Nat) (b : Byte) (h : m.wf = true) : (m.set a b).get a = b := by
  induction m with
  | nil =>
    simp only [Mem.set]
    split <;> simp_all [Mem.get]
  | cons d m ih =>
    obtain ⟨k, v⟩ := d
    simp only [Mem.set]
    split
    · next hlt =>
      split
      · next hb => simp only [Mem.get]; rw [if_neg (by omega), if_pos hlt, hb]
      · simp [Mem.get]
    · split
      · next hak =>
        subst hak
        split
        · next hb => rw [Mem.get_of_lt (Mem.wf_lt h), hb]
        · simp [Mem.get]
      · next h1 h2 =>
        simp only [Mem.get]
        rw [if_neg (by omega), if_neg (by omega)]
        exact ih (Mem.wf_tail h)

theorem Mem.get_set_ne (m : Mem) {a x : Nat} (b : Byte) (h : m.wf = true) (hx : x ≠ a) : (m.set a b).get x = m.get x := by
  induction m with
  | nil =>
    simp only [Mem.set]
    split
    · rfl
    · simp only [Mem.get]; rw [if_neg (Ne.symm hx)]; split <;> rfl
  | cons d m ih =>
    obtain ⟨k, v⟩ := d
    simp only [Mem.set]
    split
    · next hlt =>
      split
      · rfl
      · rw [Mem.get, if_neg (Ne.symm hx)]
        split
        · next hxa => rw [Mem.get, if_neg (by omega), if_pos (by omega)]
        · rfl
    · split
      · next hak =>
        subst hak
        split
        · simp only [Mem.get]
          rw [if_neg (Ne.symm hx)]
          split
          · next hlt => exact Mem.get_of_lt fun c hc => Nat.lt_trans hlt (Mem.wf_lt h c hc)
          · rfl
        · simp only [Mem.get]; rw [if_neg (Ne.symm hx), if_neg (Ne.symm hx)]
      · simp only [Mem.get, ih (Mem.wf_tail h)]

/-- A write of n bytes from a leaves every other address alone. -/
theorem Mem.get_write_out (m : Mem) (a n v x : Nat) (h : m.wf = true) (hx : x < a ∨ a + n ≤ x) :
    (m.write a n v).get x = m.get x := by
  induction n generalizing m a v with
  | zero => rfl
  | succ n ih =>
    simp only [Mem.write]
    rw [ih _ _ _ (Mem.wf_set _ _ _ h) (by omega), Mem.get_set_ne _ _ h (by omega)]

theorem Mem.read_congr (m m' : Mem) (a n : Nat) (h : ∀ x, a ≤ x → x < a + n → m.get x = m'.get x) :
    m.read a n = m'.read a n := by
  induction n generalizing a with
  | zero => rfl
  | succ n ih =>
    simp only [Mem.read]
    rw [h a (Nat.le_refl _) (by omega), ih (a + 1) fun x h1 h2 => h x (by omega) (by omega)]

/-- A read after a write to the same place gives the value written. -/
theorem Mem.read_write_same (m : Mem) (a n v : Nat) (h : m.wf = true) : (m.write a n v).read a n = v % 256 ^ n := by
  induction n generalizing m a v with
  | zero => simp [Mem.read, Nat.mod_one]
  | succ n ih =>
    simp only [Mem.write, Mem.read]
    rw [ih _ _ _ (Mem.wf_set _ _ _ h), Mem.get_write_out _ _ _ _ _ (Mem.wf_set _ _ _ h) (Or.inl (by omega)),
      Mem.get_set_same _ _ _ h, Nat.pow_succ', Nat.mod_mul]
    simp

/-- A read elsewhere is not changed by a write. -/
theorem Mem.read_write_out (m : Mem) (a n v b k : Nat) (h : m.wf = true) (hx : b + k ≤ a ∨ a + n ≤ b) :
    (m.write a n v).read b k = m.read b k :=
  Mem.read_congr _ _ _ _ fun x h1 h2 => Mem.get_write_out _ _ _ _ _ h (by omega)

theorem State.reset_memOk : State.reset.mem.wf = true ∧ State.reset.appMem.wf = true := ⟨rfl, rfl⟩

end Sys2Proof.Machine
end

