-- ==== Sys2Proof/Laws/PerInstr.lean ====
section
/-! SUPPORT. What holds of every instruction as syntax, one lemma per constructor. -/

namespace Sys2Proof.Laws.ReservedM

/-- The word of an instruction has M[23] = 0 (R52). -/
def Statement (i : Instr) : Prop := ∀ f, i.toFields = some f → f.m[3] = false

theorem of_fields {i : Instr} {f : Fields} (h : i.toFields = some f) (hm : f.m[3] = false) : Statement i := by
  intro g hg
  rw [h] at hg
  cases hg
  exact hm

theorem of_none {i : Instr} (h : i.toFields = none) : Statement i := by
  intro g hg
  rw [h] at hg
  cases hg

@[simp] theorem m_opB (b : OpB) : b.m[3] = false := by cases b <;> simp [OpB.m]
@[simp] theorem m_opV (b : OpV) : b.m[3] = false := by cases b <;> simp [OpV.m]
@[simp] theorem m_movB (b : MovB) : b.m[3] = false := by cases b <;> simp [MovB.m]
@[simp] theorem m_rx (b : Bool) : (rxM b)[3] = false := by cases b <;> decide
@[simp] theorem m_zb (b : Bool) : (zbM b)[3] = false := by cases b <;> decide
@[simp] theorem m_base (gd : Guard) (op : Nat) : (base gd op).m = 0 := rfl
@[simp] theorem m_withB (f : Fields) (b : OpB) : (f.withB b).m = b.m := rfl
@[simp] theorem m_withV (f : Fields) (b : OpV) : (f.withV b).m = b.m := rfl
@[simp] theorem m_withLit (f : Fields) (v : BitVec 32) : (f.withLit v).m = 1#4 := rfl
@[simp] theorem m_ggb (gd : Guard) (op fn : Nat) (d a : GReg) (b : OpB) : (encGGB gd op fn d a b).m = b.m := rfl
@[simp] theorem m_alu (gd : Guard) (op : Nat) (w : Bool) (v : Nat) (d a : GReg) (b : OpB) : (encAlu gd op w v d a b).m = b.m := rfl
@[simp] theorem m_fp (gd : Guard) (op fn : Nat) (x : FpX) (d a : GReg) (b : OpB) : (encFp gd op fn x d a b).m = b.m := rfl
@[simp] theorem m_fp2 (gd : Guard) (op fn : Nat) (x : FpX) (d a : GReg) : (encFp2 gd op fn x d a).m = 0 := rfl
@[simp] theorem m_v (gd : Guard) (op fn : Nat) (x : FpX) (d a : VReg) (b : OpV) : (encV gd op fn x d a b).m = b.m := rfl
@[simp] theorem m_v2 (gd : Guard) (op fn : Nat) (x : FpX) (d a : VReg) : (encV2 gd op fn x d a).m = 0 := rfl
@[simp] theorem m_mem (gd : Guard) (op fn : Nat) (x : MemX) (a : GReg) (b : OpB) : (encMem gd op fn x a b).m = b.m ||| rxM x.rx := rfl
@[simp] theorem m_amo (gd : Guard) (op fn : Nat) (x : MemX) (d a : GReg) (b : OpB) (c : GReg) :
    (encAmo gd op fn x d a b c).m = b.m ||| rxM x.rx := rfl

theorem nop (gd : Guard) : Statement (.nop gd) :=
  of_fields rfl (by simp)

theorem br (gd : Guard) (off : BitVec 32) : Statement (.br gd off) :=
  of_fields rfl (by simp)

theorem brx (gd : Guard) (a : GReg) : Statement (.brx gd a) :=
  of_fields rfl (by simp)

theorem call (gd : Guard) (off : BitVec 32) : Statement (.call gd off) :=
  of_fields rfl (by simp)

theorem callx (gd : Guard) (a : GReg) : Statement (.callx gd a) :=
  of_fields rfl (by simp)

theorem tstart (gd : Guard) (d a : GReg) (b : OpB) : Statement (.tstart gd d a b) :=
  of_fields rfl (by simp)

theorem tstartLight (gd : Guard) (d a : GReg) (b : OpB) : Statement (.tstartLight gd d a b) :=
  of_fields rfl (by simp)

theorem treap (gd : Guard) (d : GReg) (b : OpB) : Statement (.treap gd d b) :=
  of_fields rfl (by simp)

theorem texit (gd : Guard) (b : OpB) : Statement (.texit gd b) :=
  of_fields rfl (by simp)

theorem tstat (gd : Guard) (d : GReg) (b : OpB) : Statement (.tstat gd d b) :=
  of_fields rfl (by simp)

theorem halt (gd : Guard) (d : GReg) (b : OpB) : Statement (.halt gd d b) :=
  of_fields rfl (by simp)

theorem spawn (gd : Guard) (d : PReg) (a c : GReg) : Statement (.spawn gd d a c) :=
  of_fields rfl (by simp)

theorem take (gd : Guard) (d : PReg) (a : GReg) : Statement (.take gd d a) :=
  of_fields rfl (by simp)

theorem fetchtile (gd : Guard) (d : PReg) (a : GReg) : Statement (.fetchtile gd d a) :=
  of_fields rfl (by simp)

theorem tileq (gd : Guard) (a : GReg) (b : OpB) : Statement (.tileq gd a b) :=
  of_fields rfl (by simp)

theorem go (gd : Guard) (a : GReg) (b : OpB) : Statement (.go gd a b) :=
  of_fields rfl (by simp)

theorem hcall (gd : Guard) (b : OpB) : Statement (.hcall gd b) :=
  of_fields rfl (by simp)

theorem trap (gd : Guard) (b : OpB) : Statement (.trap gd b) :=
  of_fields rfl (by simp)

theorem eret (gd : Guard) : Statement (.eret gd) :=
  of_fields rfl (by simp)

theorem sysr (gd : Guard) (d : GReg) (num : BitVec 32) : Statement (.sysr gd d num) :=
  of_fields rfl (by simp)

theorem sysw (gd : Guard) (a : GReg) (num : BitVec 32) : Statement (.sysw gd a num) :=
  of_fields rfl (by simp)

theorem bkpt (gd : Guard) (b : OpB) : Statement (.bkpt gd b) :=
  of_fields rfl (by simp)

theorem iflush (gd : Guard) : Statement (.iflush gd) :=
  of_fields rfl (by simp)

theorem vcopyb (gd : Guard) (dest frm : Fin 4) (d a c : GReg) : Statement (.vcopyb gd dest frm d a c) :=
  of_fields rfl (by simp)

theorem add (gd : Guard) (w32 sat : Bool) (d a : GReg) (b : OpB) : Statement (.add gd w32 sat d a b) :=
  of_fields rfl (by simp)

theorem sub (gd : Guard) (w32 sat : Bool) (d a : GReg) (b : OpB) : Statement (.sub gd w32 sat d a b) :=
  of_fields rfl (by simp)

theorem mul (gd : Guard) (w32 : Bool) (d a : GReg) (b : OpB) : Statement (.mul gd w32 d a b) :=
  of_fields rfl (by simp)

theorem mulh (gd : Guard) (w32 : Bool) (v : MulhV) (d a : GReg) (b : OpB) : Statement (.mulh gd w32 v d a b) :=
  of_fields rfl (by simp)

theorem div (gd : Guard) (w32 u : Bool) (d a : GReg) (b : OpB) : Statement (.div gd w32 u d a b) :=
  of_fields rfl (by simp)

theorem rem (gd : Guard) (w32 u : Bool) (d a : GReg) (b : OpB) : Statement (.rem gd w32 u d a b) :=
  of_fields rfl (by simp)

theorem and (gd : Guard) (w32 : Bool) (d a : GReg) (b : OpB) : Statement (.and gd w32 d a b) :=
  of_fields rfl (by simp)

theorem or (gd : Guard) (w32 : Bool) (d a : GReg) (b : OpB) : Statement (.or gd w32 d a b) :=
  of_fields rfl (by simp)

theorem xor (gd : Guard) (w32 : Bool) (d a : GReg) (b : OpB) : Statement (.xor gd w32 d a b) :=
  of_fields rfl (by simp)

theorem andn (gd : Guard) (w32 : Bool) (d a : GReg) (b : OpB) : Statement (.andn gd w32 d a b) :=
  of_fields rfl (by simp)

theorem shl (gd : Guard) (w32 : Bool) (d a : GReg) (b : OpB) : Statement (.shl gd w32 d a b) :=
  of_fields rfl (by simp)

theorem shr (gd : Guard) (w32 arith : Bool) (d a : GReg) (b : OpB) : Statement (.shr gd w32 arith d a b) :=
  of_fields rfl (by simp)

theorem rot (gd : Guard) (w32 right : Bool) (d a : GReg) (b : OpB) : Statement (.rot gd w32 right d a b) :=
  of_fields rfl (by simp)

theorem min (gd : Guard) (w32 u : Bool) (d a : GReg) (b : OpB) : Statement (.min gd w32 u d a b) :=
  of_fields rfl (by simp)

theorem max (gd : Guard) (w32 u : Bool) (d a : GReg) (b : OpB) : Statement (.max gd w32 u d a b) :=
  of_fields rfl (by simp)

theorem clz (gd : Guard) (w32 trailing : Bool) (d a : GReg) : Statement (.clz gd w32 trailing d a) :=
  of_fields rfl (by simp)

theorem popc (gd : Guard) (w32 : Bool) (d a : GReg) : Statement (.popc gd w32 d a) :=
  of_fields rfl (by simp)

theorem sel (gd : Guard) (w32 : Bool) (d a : GReg) (b : OpB) (c : PReg) : Statement (.sel gd w32 d a b c) :=
  of_fields rfl (by simp)

theorem cmp (gd : Guard) (w32 : Bool) (cond : Cond) (d : PReg) (a : GReg) (b : OpB) : Statement (.cmp gd w32 cond d a b) :=
  of_fields rfl (by simp)

theorem plog (gd : Guard) (op : PlogOp) (d a b : PReg) : Statement (.plog gd op d a b) :=
  of_fields rfl (by simp)

theorem mov (gd : Guard) (w32 : Bool) (d : MovD) (b : MovB) : Statement (.mov gd w32 d b) :=
  of_fields rfl (by simp)

theorem movh (gd : Guard) (d : GReg) (b : OpB) : Statement (.movh gd d b) :=
  of_fields rfl (by simp)

theorem movs (gd : Guard) (d : GReg) (r : SReg) : Statement (.movs gd d r) :=
  of_fields rfl (by simp)

theorem wrs (gd : Guard) (r : WSReg) (b : OpB) : Statement (.wrs gd r b) :=
  of_fields rfl (by simp)

theorem ext (gd : Guard) (sx : Bool) (d a : GReg) (b : OpB) : Statement (.ext gd sx d a b) :=
  of_fields rfl (by simp)

theorem ins (gd : Guard) (d a : GReg) (b : OpB) (c : GReg) : Statement (.ins gd d a b c) :=
  of_fields rfl (by simp)

theorem lea (gd : Guard) (w32 : Bool) (k : Fin 5) (d a : GReg) (b : OpB) : Statement (.lea gd w32 k d a b) :=
  of_fields rfl (by simp)

theorem fadd (gd : Guard) (x : FpX) (d a : GReg) (b : OpB) : Statement (.fadd gd x d a b) :=
  of_fields rfl (by simp)

theorem fsub (gd : Guard) (x : FpX) (d a : GReg) (b : OpB) : Statement (.fsub gd x d a b) :=
  of_fields rfl (by simp)

theorem fmul (gd : Guard) (x : FpX) (d a : GReg) (b : OpB) : Statement (.fmul gd x d a b) :=
  of_fields rfl (by simp)

theorem ffma (gd : Guard) (x : FpX) (d a : GReg) (b : OpB) (c : GReg) : Statement (.ffma gd x d a b c) :=
  of_fields rfl (by simp)

theorem fdiv (gd : Guard) (x : FpX) (d a : GReg) (b : OpB) : Statement (.fdiv gd x d a b) :=
  of_fields rfl (by simp)

theorem fsqrt (gd : Guard) (x : FpX) (d a : GReg) : Statement (.fsqrt gd x d a) :=
  of_fields rfl (by simp)

theorem fmin (gd : Guard) (x : FpX) (d a : GReg) (b : OpB) : Statement (.fmin gd x d a b) :=
  of_fields rfl (by simp)

theorem fmax (gd : Guard) (x : FpX) (d a : GReg) (b : OpB) : Statement (.fmax gd x d a b) :=
  of_fields rfl (by simp)

theorem fcmp (gd : Guard) (cond : FCond) (x : FpX) (d : PReg) (a : GReg) (b : OpB) : Statement (.fcmp gd cond x d a b) :=
  of_fields rfl (by simp)

theorem fcvt (gd : Guard) (src : ETy) (x : FpX) (d a : GReg) : Statement (.fcvt gd src x d a) :=
  of_fields rfl (by simp)

theorem frcp (gd : Guard) (x : FpX) (d a : GReg) : Statement (.frcp gd x d a) :=
  of_fields rfl (by simp)

theorem frsq (gd : Guard) (x : FpX) (d a : GReg) : Statement (.frsq gd x d a) :=
  of_fields rfl (by simp)

theorem frstep (gd : Guard) (rsq : Bool) (x : FpX) (d a : GReg) (b : OpB) : Statement (.frstep gd rsq x d a b) :=
  of_fields rfl (by simp)

theorem fclass (gd : Guard) (x : FpX) (d a : GReg) : Statement (.fclass gd x d a) :=
  of_fields rfl (by simp)

theorem fsgn (gd : Guard) (m : SgnV) (x : FpX) (d a : GReg) (b : OpB) : Statement (.fsgn gd m x d a b) :=
  of_fields rfl (by simp)

theorem vadd (gd : Guard) (x : FpX) (d a : VReg) (b : OpV) : Statement (.vadd gd x d a b) :=
  of_fields rfl (by simp)

theorem vsub (gd : Guard) (x : FpX) (d a : VReg) (b : OpV) : Statement (.vsub gd x d a b) :=
  of_fields rfl (by simp)

theorem vmul (gd : Guard) (x : FpX) (d a : VReg) (b : OpV) : Statement (.vmul gd x d a b) :=
  of_fields rfl (by simp)

theorem vfma (gd : Guard) (x : FpX) (d a : VReg) (b : OpV) (c : VReg) : Statement (.vfma gd x d a b c) :=
  of_fields rfl (by simp)

theorem vmin (gd : Guard) (u : Bool) (x : FpX) (d a : VReg) (b : OpV) : Statement (.vmin gd u x d a b) :=
  of_fields rfl (by simp)

theorem vmax (gd : Guard) (u : Bool) (x : FpX) (d a : VReg) (b : OpV) : Statement (.vmax gd u x d a b) :=
  of_fields rfl (by simp)

theorem vabs (gd : Guard) (x : FpX) (d a : VReg) : Statement (.vabs gd x d a) :=
  of_fields rfl (by simp)

theorem vneg (gd : Guard) (x : FpX) (d a : VReg) : Statement (.vneg gd x d a) :=
  of_fields rfl (by simp)

theorem vcvt (gd : Guard) (src : ETy) (part : Fin 4) (x : FpX) (d a : VReg) : Statement (.vcvt gd src part x d a) :=
  of_fields rfl (by simp)

theorem vcmp (gd : Guard) (cond : FCond) (x : FpX) (d : PReg) (a : VReg) (b : OpV) : Statement (.vcmp gd cond x d a b) :=
  of_fields rfl (by simp)

theorem vsel (gd : Guard) (x : FpX) (d a : VReg) (b : OpV) (c : PReg) : Statement (.vsel gd x d a b c) :=
  of_fields rfl (by simp)

theorem vand (gd : Guard) (x : FpX) (d a : VReg) (b : OpV) : Statement (.vand gd x d a b) :=
  of_fields rfl (by simp)

theorem vor (gd : Guard) (x : FpX) (d a : VReg) (b : OpV) : Statement (.vor gd x d a b) :=
  of_fields rfl (by simp)

theorem vxor (gd : Guard) (x : FpX) (d a : VReg) (b : OpV) : Statement (.vxor gd x d a b) :=
  of_fields rfl (by simp)

theorem vshl (gd : Guard) (x : FpX) (d a : VReg) (b : OpV) : Statement (.vshl gd x d a b) :=
  of_fields rfl (by simp)

theorem vshr (gd : Guard) (arith : Bool) (x : FpX) (d a : VReg) (b : OpV) : Statement (.vshr gd arith x d a b) :=
  of_fields rfl (by simp)

theorem vred (gd : Guard) (op : VRedOp) (u : Bool) (x : FpX) (d : GReg) (a : VReg) : Statement (.vred gd op u x d a) :=
  of_fields rfl (by simp)

theorem vbcast (gd : Guard) (elem : Option VReg) (x : FpX) (d : VReg) (b : OpB) : Statement (.vbcast gd elem x d b):= by
  cases elem <;> exact of_fields rfl (by simp)

theorem vperm (gd : Guard) (x : FpX) (d a b : VReg) : Statement (.vperm gd x d a b) :=
  of_fields rfl (by simp)

theorem viota (gd : Guard) (x : FpX) (d : VReg) (b : OpB) : Statement (.viota gd x d b) :=
  of_fields rfl (by simp)

theorem vrcp (gd : Guard) (x : FpX) (d a : VReg) : Statement (.vrcp gd x d a) :=
  of_fields rfl (by simp)

theorem vrsq (gd : Guard) (x : FpX) (d a : VReg) : Statement (.vrsq gd x d a) :=
  of_fields rfl (by simp)

theorem vrstep (gd : Guard) (rsq : Bool) (x : FpX) (d a : VReg) (b : OpV) : Statement (.vrstep gd rsq x d a b) :=
  of_fields rfl (by simp)

theorem vexp2 (gd : Guard) (x : FpX) (d a : VReg) : Statement (.vexp2 gd x d a) :=
  of_fields rfl (by simp)

theorem vlog2 (gd : Guard) (x : FpX) (d a : VReg) : Statement (.vlog2 gd x d a) :=
  of_fields rfl (by simp)

theorem vszb (gd : Guard) (int : Bool) (x : FpX) (d a : VReg) (b : OpV) : Statement (.vszb gd int x d a b) :=
  of_fields rfl (by simp)

theorem vextr (gd : Guard) (x : FpX) (d : GReg) (a : VReg) (b : OpB) : Statement (.vextr gd x d a b) :=
  of_fields rfl (by simp)

theorem vinsr (gd : Guard) (x : FpX) (d : VReg) (a : GReg) (b : OpB) : Statement (.vinsr gd x d a b) :=
  of_fields rfl (by simp)

theorem vscanp (gd : Guard) (op : VRedOp) (u ex : Bool) (x : FpX) (d a : VReg) : Statement (.vscanp gd op u ex x d a) :=
  of_fields rfl (by simp)

theorem nzscan (gd : Guard) (d : VReg) (a : GReg) (b : OpB) (c : GReg) : Statement (.nzscan gd d a b c) :=
  of_fields rfl (by simp)

theorem scfg (gd : Guard) (out : Bool) (ety : ETy) (space : Fin 4) (ndim : Fin 4) (d : VReg) (a : GReg) (b : OpB) : Statement (.scfg gd out ety space ndim d a b) :=
  of_fields rfl (by simp)

theorem sstart (gd : Guard) (d : Fin 8) : Statement (.sstart gd d) :=
  of_fields rfl (by simp)

theorem sstop (gd : Guard) (d : Fin 8) : Statement (.sstop gd d) :=
  of_fields rfl (by simp)

theorem sstat (gd : Guard) (what : StatV) (d : GReg) (a : Fin 8) : Statement (.sstat gd what d a) :=
  of_fields rfl (by simp)

theorem ld (gd : Guard) (sx : Bool) (x : MemX) (d a : GReg) (b : OpB) : Statement (.ld gd sx x d a b) :=
  of_fields rfl (by simp)

theorem st (gd : Guard) (x : MemX) (a : GReg) (b : OpB) (c : GReg) : Statement (.st gd x a b c) :=
  of_fields rfl (by simp)

theorem ldp (gd : Guard) (sx : Bool) (x : MemX) (d a : GReg) (b : OpB) : Statement (.ldp gd sx x d a b) :=
  of_fields rfl (by simp)

theorem stp (gd : Guard) (x : MemX) (a : GReg) (b : OpB) (c : GReg) : Statement (.stp gd x a b c) :=
  of_fields rfl (by simp)

theorem vld (gd : Guard) (x : MemX) (d : VReg) (a : GReg) (b : OpB) : Statement (.vld gd x d a b) :=
  of_fields rfl (by simp)

theorem vst (gd : Guard) (zb : Bool) (x : MemX) (a : GReg) (b : OpB) (c : VReg) : Statement (.vst gd zb x a b c) :=
  of_fields rfl (by simp)

theorem vldx (gd : Guard) (k : Fin 4) (x : MemX) (d : VReg) (a : GReg) (b : VReg) : Statement (.vldx gd k x d a b) :=
  of_fields rfl (by simp)

theorem vstx (gd : Guard) (zb : Bool) (k : Fin 4) (x : MemX) (a : GReg) (b c : VReg) : Statement (.vstx gd zb k x a b c) :=
  of_fields rfl (by simp)

theorem stq (gd : Guard) (a : GReg) (b : OpB) (c : VReg) : Statement (.stq gd a b c) :=
  of_fields rfl (by simp)

theorem fence (gd : Guard) (obs : BitVec 5) : Statement (.fence gd obs) :=
  of_fields rfl (by simp)

theorem amoadd (gd : Guard) (x : MemX) (d a : GReg) (b : OpB) (c : GReg) : Statement (.amoadd gd x d a b c) :=
  of_fields rfl (by simp)

theorem amoand (gd : Guard) (x : MemX) (d a : GReg) (b : OpB) (c : GReg) : Statement (.amoand gd x d a b c) :=
  of_fields rfl (by simp)

theorem amoor (gd : Guard) (x : MemX) (d a : GReg) (b : OpB) (c : GReg) : Statement (.amoor gd x d a b c) :=
  of_fields rfl (by simp)

theorem amoxor (gd : Guard) (x : MemX) (d a : GReg) (b : OpB) (c : GReg) : Statement (.amoxor gd x d a b c) :=
  of_fields rfl (by simp)

theorem amoswap (gd : Guard) (x : MemX) (d a : GReg) (b : OpB) (c : GReg) : Statement (.amoswap gd x d a b c) :=
  of_fields rfl (by simp)

theorem amomin (gd : Guard) (u : Bool) (x : MemX) (d a : GReg) (b : OpB) (c : GReg) : Statement (.amomin gd u x d a b c) :=
  of_fields rfl (by simp)

theorem amomax (gd : Guard) (u : Bool) (x : MemX) (d a : GReg) (b : OpB) (c : GReg) : Statement (.amomax gd u x d a b c) :=
  of_fields rfl (by simp)

theorem amofadd (gd : Guard) (x : MemX) (d a : GReg) (b : OpB) (c : GReg) : Statement (.amofadd gd x d a b c) :=
  of_fields rfl (by simp)

theorem amofmin (gd : Guard) (x : MemX) (d a : GReg) (b : OpB) (c : GReg) : Statement (.amofmin gd x d a b c) :=
  of_fields rfl (by simp)

theorem amofmax (gd : Guard) (x : MemX) (d a : GReg) (b : OpB) (c : GReg) : Statement (.amofmax gd x d a b c) :=
  of_fields rfl (by simp)

theorem cas (gd : Guard) (x : MemX) (d a : GReg) (b : OpB) (c : GReg) : Statement (.cas gd x d a b c) :=
  of_fields rfl (by simp)

theorem cas2 (gd : Guard) (x : MemX) (d a : GReg) (b : OpB) (c : GReg) : Statement (.cas2 gd x d a b c) :=
  of_fields rfl (by simp)

theorem red (gd : Guard) (op : RedOp) (u : Bool) (ety : ETy) (a : GReg) (b : OpB) (c : GReg) : Statement (.red gd op u ety a b c) :=
  of_fields rfl (by simp)

theorem bind (gd : Guard) (x : BindX) (d a : GReg) (b : OpB) (c : GReg) : Statement (.bind gd x d a b c) :=
  of_fields rfl (by simp)

theorem unbind (gd : Guard) (slot : Fin 8) : Statement (.unbind gd slot) :=
  of_fields rfl (by simp)

theorem unbindAll (gd : Guard) : Statement (.unbindAll gd) :=
  of_fields rfl (by simp)

theorem clst (gd : Guard) (d : GReg) (b : OpB) : Statement (.clst gd d b) :=
  of_fields rfl (by simp)

theorem clhold (gd : Guard) : Statement (.clhold gd) :=
  of_fields rfl (by simp)

theorem clrel (gd : Guard) : Statement (.clrel gd) :=
  of_fields rfl (by simp)

theorem marm (gd : Guard) (a : GReg) (b : OpB) : Statement (.marm gd a b) :=
  of_fields rfl (by simp)

theorem mdis (gd : Guard) (a : GReg) (b : OpB) : Statement (.mdis gd a b) :=
  of_fields rfl (by simp)

theorem mdisAll (gd : Guard) : Statement (.mdisAll gd) :=
  of_fields rfl (by simp)

theorem mwait (gd : Guard) (d : GReg) (b : OpB) : Statement (.mwait gd d b) :=
  of_fields rfl (by simp)

theorem breg (gd : Guard) (n : Fin 8) (a : GReg) : Statement (.breg gd n a) :=
  of_fields rfl (by simp)

theorem bcfg (gd : Guard) (n : Fin 8) (a : GReg) : Statement (.bcfg gd n a) :=
  of_fields rfl (by simp)

theorem barr (gd : Guard) (n : Fin 8) : Statement (.barr gd n) :=
  of_fields rfl (by simp)

theorem bwait (gd : Guard) (n : Fin 8) (d : GReg) (b : OpB) : Statement (.bwait gd n d b) :=
  of_fields rfl (by simp)

theorem twany (gd : Guard) (d a : GReg) (b : OpB) : Statement (.twany gd d a b) :=
  of_fields rfl (by simp)

theorem twall (gd : Guard) (d a : GReg) (b : OpB) : Statement (.twall gd d a b) :=
  of_fields rfl (by simp)

theorem tffr (gd : Guard) (d a : GReg) : Statement (.tffr gd d a) :=
  of_fields rfl (by simp)

theorem tclr (gd : Guard) (d : GReg) (b : OpB) : Statement (.tclr gd d b) :=
  of_fields rfl (by simp)

theorem tstatus (gd : Guard) (d : GReg) (b : OpB) : Statement (.tstatus gd d b) :=
  of_fields rfl (by simp)

theorem qstat (gd : Guard) (d : GReg) (b : OpB) : Statement (.qstat gd d b) :=
  of_fields rfl (by simp)

theorem ginvoke (gd : Guard) (d : PReg) (a : GReg) (b : OpB) : Statement (.ginvoke gd d a b) :=
  of_fields rfl (by simp)

theorem emit (gd : Guard) (a : GReg) (b : OpB) : Statement (.emit gd a b) :=
  of_fields rfl (by simp)

theorem sigt (gd : Guard) (d : PReg) (b : OpB) : Statement (.sigt gd d b) :=
  of_fields rfl (by simp)

theorem sigq (gd : Guard) (d : GReg) (b : OpB) : Statement (.sigq gd d b) :=
  of_fields rfl (by simp)

theorem sigv (gd : Guard) (d : GReg) (b : OpB) : Statement (.sigv gd d b) :=
  of_fields rfl (by simp)

theorem retract (gd : Guard) (b : OpB) : Statement (.retract gd b) :=
  of_fields rfl (by simp)

theorem retractAll (gd : Guard) : Statement (.retractAll gd) :=
  of_fields rfl (by simp)

theorem pause (gd : Guard) : Statement (.pause gd) :=
  of_fields rfl (by simp)

theorem dget (gd : Guard) (d : GReg) (a : DReg) : Statement (.dget gd d a) :=
  of_fields rfl (by simp)

theorem dset (gd : Guard) (d : DReg) (b : OpB) : Statement (.dset gd d b) :=
  of_fields rfl (by simp)

theorem chw (gd : Guard) (d : ChReg) (b : OpB) : Statement (.chw gd d b) :=
  of_fields rfl (by simp)

theorem chr (gd : Guard) (d : GReg) (a : ChReg) : Statement (.chr gd d a) :=
  of_fields rfl (by simp)

theorem sigpre (gd : Guard) (val : Bool) (d : GReg) (b : OpB) : Statement (.sigpre gd val d b) :=
  of_fields rfl (by simp)

theorem gend (gd : Guard) : Statement (.gend gd) :=
  of_fields rfl (by simp)

theorem memoryReply (req : Nat) : Statement (.memoryReply req) := of_none rfl

theorem homeAccess (core : Nat) : Statement (.homeAccess core) := of_none rfl

theorem atomicRequest (req : Nat) : Statement (.atomicRequest req) := of_none rfl

theorem redAcknowledgement (req : Nat) : Statement (.redAcknowledgement req) := of_none rfl

theorem relaxedAccessPerformed (req : Nat) : Statement (.relaxedAccessPerformed req) := of_none rfl

theorem postedStoreAccepted (req : Nat) : Statement (.postedStoreAccepted req) := of_none rfl

theorem postedStoreAck (req : Nat) : Statement (.postedStoreAck req) := of_none rfl

theorem translationWalk (die walk : Nat) : Statement (.translationWalk die walk) := of_none rfl

theorem waitTimeout (core slot serial : Nat) : Statement (.waitTimeout core slot serial) := of_none rfl

theorem threadStartMessage (core cid : Nat) : Statement (.threadStartMessage core cid) := of_none rfl

theorem migrationArrival (m : Nat) : Statement (.migrationArrival m) := of_none rfl

theorem migrationRetry (m : Nat) : Statement (.migrationRetry m) := of_none rfl

theorem landingSlotClaim (core : Nat) : Statement (.landingSlotClaim core) := of_none rfl

theorem guestExitMessage (core slot cid : Nat) (v : Word) : Statement (.guestExitMessage core slot cid v) := of_none rfl

theorem hcallReply (die cid call status : Nat) (r1 r2 : Word) : Statement (.hcallReply die cid call status r1 r2) := of_none rfl

theorem streamPrefetch (core slot : Nat) (reg : Fin 8) : Statement (.streamPrefetch core slot reg) := of_none rfl

theorem streamElementWrite (core slot : Nat) (reg : Fin 8) : Statement (.streamElementWrite core slot reg) := of_none rfl

theorem cardAdmission (cluster : Nat) : Statement (.cardAdmission cluster) := of_none rfl

theorem copyJobStart (core : Nat) : Statement (.copyJobStart core) := of_none rfl

theorem copyChunk (core : Nat) : Statement (.copyChunk core) := of_none rfl

theorem copyJobComplete (core : Nat) : Statement (.copyJobComplete core) := of_none rfl

theorem copySteal (core : Nat) : Statement (.copySteal core) := of_none rfl

theorem mmaFire (core : Nat) : Statement (.mmaFire core) := of_none rfl

theorem mmaComplete (core : Nat) : Statement (.mmaComplete core) := of_none rfl

theorem ellipsisJobStart (cluster : Nat) : Statement (.ellipsisJobStart cluster) := of_none rfl

theorem mergeJob (cluster : Nat) : Statement (.mergeJob cluster) := of_none rfl

theorem unmergeJob (cluster : Nat) : Statement (.unmergeJob cluster) := of_none rfl

theorem routeJob (cluster : Nat) : Statement (.routeJob cluster) := of_none rfl

theorem mapfreeJob (cluster : Nat) : Statement (.mapfreeJob cluster) := of_none rfl

theorem collectiveComplete (coll : Nat) : Statement (.collectiveComplete coll) := of_none rfl

theorem monitorArmRequest (core slot k : Nat) : Statement (.monitorArmRequest core slot k) := of_none rfl

theorem monitorDisarmRequest (core slot k : Nat) : Statement (.monitorDisarmRequest core slot k) := of_none rfl

theorem monitorAck (core slot serial : Nat) : Statement (.monitorAck core slot serial) := of_none rfl

theorem fireNoticeArrival (core slot k arm : Nat) : Statement (.fireNoticeArrival core slot k arm) := of_none rfl

theorem monitorLostNotice (core slot k arm : Nat) : Statement (.monitorLostNotice core slot k arm) := of_none rfl

theorem barrierArrival (core id : Nat) : Statement (.barrierArrival core id) := of_none rfl

theorem barrierPhaseComplete (core id : Nat) : Statement (.barrierPhaseComplete core id) := of_none rfl

theorem skipperTick (core : Nat) : Statement (.skipperTick core) := of_none rfl

theorem skipperOccupancy (frm dest n : Nat) : Statement (.skipperOccupancy frm dest n) := of_none rfl

theorem skipperOffer (frm dest k : Nat) : Statement (.skipperOffer frm dest k) := of_none rfl

theorem skipperGrant (frm dest g : Nat) : Statement (.skipperGrant frm dest g) := of_none rfl

theorem skipperTransfer (frm dest g : Nat) (entries : List (Word × Word)) : Statement (.skipperTransfer frm dest g entries) := of_none rfl

theorem tileRequest (core slot serial : Nat) : Statement (.tileRequest core slot serial) := of_none rfl

theorem tileReply (core slot serial : Nat) (tile : Option Word) : Statement (.tileReply core slot serial tile) := of_none rfl

theorem invocationMessage (m : Nat) : Statement (.invocationMessage m) := of_none rfl

theorem invocationReply (m : Nat) : Statement (.invocationReply m) := of_none rfl

theorem instantBegin (cluster graph : Nat) : Statement (.instantBegin cluster graph) := of_none rfl

theorem nodeStart (cluster graph node : Nat) : Statement (.nodeStart cluster graph node) := of_none rfl

theorem emitMessage (cluster graph node sig : Nat) (v : Word) : Statement (.emitMessage cluster graph node sig v) := of_none rfl

theorem signalQuery (cluster graph node : Nat) : Statement (.signalQuery cluster graph node) := of_none rfl

theorem channelRequest (cluster graph node : Nat) : Statement (.channelRequest cluster graph node) := of_none rfl

theorem instantEnd (cluster graph : Nat) : Statement (.instantEnd cluster graph) := of_none rfl

theorem causalityFreeze (cluster graph : Nat) : Statement (.causalityFreeze cluster graph) := of_none rfl

theorem frozenInvocation (cluster graph : Nat) : Statement (.frozenInvocation cluster graph) := of_none rfl

theorem regionForcedReadout (cluster : Nat) : Statement (.regionForcedReadout cluster) := of_none rfl

theorem staticEnergyTick (core : Nat) : Statement (.staticEnergyTick core) := of_none rfl

theorem permitAudit (die : Nat) : Statement (.permitAudit die) := of_none rfl

theorem linkRetrainEnd (die link : Nat) : Statement (.linkRetrainEnd die link) := of_none rfl

theorem placement (die : Nat) : Statement (.placement die) := of_none rfl

theorem launchComplete (launch : Nat) : Statement (.launchComplete launch) := of_none rfl

theorem lazySave (core cid : Nat) : Statement (.lazySave core cid) := of_none rfl

theorem preemptComplete (die cid : Nat) : Statement (.preemptComplete die cid) := of_none rfl

theorem contextSave (core cid : Nat) : Statement (.contextSave core cid) := of_none rfl

theorem contextRestore (core cid : Nat) : Statement (.contextRestore core cid) := of_none rfl

theorem killMessageArrival (core cid : Nat) : Statement (.killMessageArrival core cid) := of_none rfl

theorem killWindowEnd (core cid : Nat) : Statement (.killWindowEnd core cid) := of_none rfl

theorem killDone (die cid : Nat) : Statement (.killDone die cid) := of_none rfl

theorem unhandledTrapKill (die cid reason : Nat) : Statement (.unhandledTrapKill die cid reason) := of_none rfl

theorem eventAcceptance (die : Nat) : Statement (.eventAcceptance die) := of_none rfl

theorem debugStepEnd (core slot : Nat) : Statement (.debugStepEnd core slot) := of_none rfl

theorem tdiError (part : Nat) : Statement (.tdiError part) := of_none rfl

theorem romVerify : Statement .romVerify := of_none rfl

theorem fullEntry : Statement .fullEntry := of_none rfl

theorem powerStateEntry (unit index : Nat) : Statement (.powerStateEntry unit index) := of_none rfl

theorem powerStateExit (unit index : Nat) : Statement (.powerStateExit unit index) := of_none rfl

theorem clockThrottle (watts : Nat) : Statement (.clockThrottle watts) := of_none rfl

theorem nodeDoneMessage (cluster graph node : Nat) (sigs : Word) (kind : Nat) : Statement (.nodeDoneMessage cluster graph node sigs kind) := of_none rfl

theorem wastedSlot (core slot : Nat) : Statement (.wastedSlot core slot) := of_none rfl

theorem collectivePhaseEnd (coll : Nat) : Statement (.collectivePhaseEnd coll) := of_none rfl

theorem waitCallTimeout (app launch : Nat) : Statement (.waitCallTimeout app launch) := of_none rfl

theorem invalidate (die cid va count : Nat) : Statement (.invalidate die cid va count) := of_none rfl

theorem interrupt (die cid core thread : Nat) (word : BitVec 32) : Statement (.interrupt die cid core thread word) := of_none rfl

theorem saveResume (die cid core : Nat) : Statement (.saveResume die cid core) := of_none rfl

theorem idleRead (die core : Nat) : Statement (.idleRead die core) := of_none rfl

theorem debugHalt (die core : Nat) : Statement (.debugHalt die core) := of_none rfl

theorem debugGo (die core : Nat) : Statement (.debugGo die core) := of_none rfl

theorem groupSet (die group npart : Nat) (members : List (Nat × Nat)) : Statement (.groupSet die group npart members) := of_none rfl

theorem saveArea (die cid core base len : Nat) : Statement (.saveArea die cid core base len) := of_none rfl

theorem debugRead (die cid core off len buf : Nat) : Statement (.debugRead die cid core off len buf) := of_none rfl

theorem debugWrite (die cid core off : Nat) (bytes : List Byte) : Statement (.debugWrite die cid core off bytes) := of_none rfl

theorem debugStep (die cid core thread : Nat) : Statement (.debugStep die cid core thread) := of_none rfl

theorem exit (app : Nat) (code : Word) : Statement (.exit app code) := of_none rfl

theorem log (app addr len : Nat) : Statement (.log app addr len) := of_none rfl

theorem mapx (app : Nat) (words : List IWord) (tail : Nat) : Statement (.mapx app words tail) := of_none rfl

theorem translatorQuotaExhausted (app : Nat) : Statement (.translatorQuotaExhausted app) := of_none rfl

theorem launch (app die : Nat) (desc : BitVec 1024) : Statement (.launch app die desc) := of_none rfl

theorem wait (app launch timeout : Nat) : Statement (.wait app launch timeout) := of_none rfl

theorem alloc (app bytes : Nat) (word0 : Word) : Statement (.alloc app bytes word0) := of_none rfl

theorem free (app va : Nat) : Statement (.free app va) := of_none rfl

theorem event (app buf cap : Nat) : Statement (.event app buf cap) := of_none rfl

theorem partitionInfo (app buf : Nat) : Statement (.partitionInfo app buf) := of_none rfl

theorem lockInterface (part : Nat) : Statement (.lockInterface part) := of_none rfl

theorem startInterface (part : Nat) : Statement (.startInterface part) := of_none rfl

theorem stopInterface (part : Nat) : Statement (.stopInterface part) := of_none rfl

theorem getVersion : Statement .getVersion := of_none rfl

theorem getCapabilities : Statement .getCapabilities := of_none rfl

theorem negotiateAlgorithms : Statement .negotiateAlgorithms := of_none rfl

theorem getDigests : Statement .getDigests := of_none rfl

theorem getCertificate : Statement .getCertificate := of_none rfl

theorem challenge (nonce : BitVec 256) : Statement (.challenge nonce) := of_none rfl

theorem getMeasurements (index : Nat) : Statement (.getMeasurements index) := of_none rfl

theorem keyExchange (port : Option Nat) : Statement (.keyExchange port) := of_none rfl

theorem finish (port : Option Nat) : Statement (.finish port) := of_none rfl

theorem latencyToleranceWrite (ns : Nat) : Statement (.latencyToleranceWrite ns) := of_none rfl

theorem powerCapWrite (watts : Nat) : Statement (.powerCapWrite watts) := of_none rfl

theorem hostRegisterWrite (off : Nat) (v : Word) : Statement (.hostRegisterWrite off v) := of_none rfl

theorem applicationImageLoad (app : Nat) (img : Image) : Statement (.applicationImageLoad app img) := of_none rfl

theorem partitionConfiguration (part device : Nat) (dies : List Nat) (keys : List Nat) : Statement (.partitionConfiguration part device dies keys) := of_none rfl

theorem linkBlockReceive (port : Nat) (tagOk : Bool) : Statement (.linkBlockReceive port tagOk) := of_none rfl

theorem preempt (die cid : Nat) (forced : Bool) : Statement (.preempt die cid forced) := of_none rfl

theorem kill (die cid : Nat) : Statement (.kill die cid) := of_none rfl

end Sys2Proof.Laws.ReservedM
end

