-- ==== Sys2Proof/Laws/Steps.lean ====
section
/-! SUPPORT. What the issue of an instruction comes to when nothing stands in its way. -/

namespace Sys2Proof.Machine

theorem State.Clear.slot {s : State} (h : s.Clear) : s.cur.2 < 16 := by
  have := h.here
  simp only [State.resident, Bool.and_eq_true, decide_eq_true_eq] at this
  exact this.1.2

theorem hazard_clear {s : State} (h : s.Clear) (i : Instr) : hazard i s.cur s = none := by
  simp [hazard, h.rlx, h.dfault]

theorem firstBound_none {t : Thread} (h : ∀ i, t.clause i = none) (rs : List GReg) : t.firstBound rs = none := by
  simp [Thread.firstBound, Thread.bound, h]

theorem readers_none {t : Thread} (h : ∀ i, t.clause i = none) (rs : List GReg) : t.readers rs = [] := by
  simp [Thread.readers, h]

theorem closure_none {t : Thread} (h : ∀ i, t.clause i = none) (n : Nat) : t.closure n [] = [] := by
  induction n with
  | zero => rfl
  | succ n ih =>
    have : (List.range 8).filter (fun i => ([] : List Nat).contains i || (t.readers (t.dsts [])).contains i) = [] := by
      simp [Thread.dsts, readers_none h]
    rw [Thread.closure, this, ih]

theorem triggered_none {t : Thread} (h : ∀ i, t.clause i = none) (rs : List GReg) : t.triggered rs = [] := by
  simp [Thread.triggered, readers_none h, closure_none h]

theorem slotsOf_none {t : Thread} (h : ∀ i, t.clause i = none) (p : Clause → Bool) : t.slotsOf p = [] := by
  simp [Thread.slotsOf, h]

/-! ### Writes of a commit -/

theorem setG_with (t : Thread) (r : GReg) (v : Word) (pc : Addr) (w : Tab WalkRes) (x : Option (List Word)) :
    ({ t with pc := pc, walked := w, seen := x } : Thread).setG r v = { t.setG r v with pc := pc, walked := w, seen := x } := by
  unfold Thread.setG; split <;> rfl

theorem setP_with (t : Thread) (r : PReg) (v : Word) (pc : Addr) (w : Tab WalkRes) (x : Option (List Word)) :
    ({ t with pc := pc, walked := w, seen := x } : Thread).setP r v = { t.setP r v with pc := pc, walked := w, seen := x } := by
  unfold Thread.setP; split <;> rfl

theorem setV_with (t : Thread) (r : VReg) (v : VWord) (pc : Addr) (w : Tab WalkRes) (x : Option (List Word)) :
    ({ t with pc := pc, walked := w, seen := x } : Thread).setV r v = { t.setV r v with pc := pc, walked := w, seen := x } := rfl

theorem foldG_with (l : List (GReg × Word)) (t : Thread) (pc : Addr) (w : Tab WalkRes) (x : Option (List Word)) :
    l.foldl (fun t w => t.setG w.1 w.2) ({ t with pc := pc, walked := w, seen := x } : Thread) =
      { l.foldl (fun t w => t.setG w.1 w.2) t with pc := pc, walked := w, seen := x } := by
  induction l generalizing t with
  | nil => rfl
  | cons y l ih => simp only [List.foldl_cons, setG_with, ih]

theorem foldP_with (l : List (PReg × Word)) (t : Thread) (pc : Addr) (w : Tab WalkRes) (x : Option (List Word)) :
    l.foldl (fun t w => t.setP w.1 w.2) ({ t with pc := pc, walked := w, seen := x } : Thread) =
      { l.foldl (fun t w => t.setP w.1 w.2) t with pc := pc, walked := w, seen := x } := by
  induction l generalizing t with
  | nil => rfl
  | cons y l ih => simp only [List.foldl_cons, setP_with, ih]

theorem foldV_with (l : List (VReg × VWord)) (t : Thread) (pc : Addr) (w : Tab WalkRes) (x : Option (List Word)) :
    l.foldl (fun t w => t.setV w.1 w.2) ({ t with pc := pc, walked := w, seen := x } : Thread) =
      { l.foldl (fun t w => t.setV w.1 w.2) t with pc := pc, walked := w, seen := x } := by
  induction l generalizing t with
  | nil => rfl
  | cons y l ih => simp only [List.foldl_cons, setV_with, ih]

/-- What a commit leaves of a thread whose PC is at the next word. -/
def Commit.on (c : Commit) (t : Thread) : Thread := { c.apply t with pc := c.pc.getD t.pc }

theorem apply_with (c : Commit) (t : Thread) (pc : Addr) (w : Tab WalkRes) (x : Option (List Word)) :
    c.apply ({ t with pc := pc, walked := w, seen := x } : Thread) = { c.apply t with pc := pc, walked := w, seen := x } := by
  simp only [Commit.apply, foldG_with, foldP_with, foldV_with]

theorem foldG_keep (l : List (GReg × Word)) (t : Thread) :
    ∃ g, l.foldl (fun t w => t.setG w.1 w.2) t = { t with g := g } := by
  induction l generalizing t with
  | nil => exact ⟨t.g, rfl⟩
  | cons x l ih =>
    obtain ⟨g, hg⟩ := ih (t.setG x.1 x.2)
    refine ⟨g, ?_⟩
    rw [List.foldl_cons, hg]
    unfold Thread.setG; split <;> rfl

theorem foldP_keep (l : List (PReg × Word)) (t : Thread) :
    ∃ p, l.foldl (fun t w => t.setP w.1 w.2) t = { t with p := p } := by
  induction l generalizing t with
  | nil => exact ⟨t.p, rfl⟩
  | cons x l ih =>
    obtain ⟨g, hg⟩ := ih (t.setP x.1 x.2)
    refine ⟨g, ?_⟩
    rw [List.foldl_cons, hg]
    unfold Thread.setP; split <;> rfl

theorem foldV_keep (l : List (VReg × VWord)) (t : Thread) :
    ∃ v, l.foldl (fun t w => t.setV w.1 w.2) t = { t with v := v } := by
  induction l generalizing t with
  | nil => exact ⟨t.v, rfl⟩
  | cons x l ih =>
    obtain ⟨g, hg⟩ := ih (t.setV x.1 x.2)
    exact ⟨g, by rw [List.foldl_cons, hg]; rfl⟩

/-- A commit writes g, p and v registers and flags, and nothing else of the thread. -/
theorem apply_keep (c : Commit) (t : Thread) :
    ∃ g p v, c.apply t = { t with g := g, p := p, v := v, fflags := t.fflags ||| c.flags } := by
  obtain ⟨g, hg⟩ := foldG_keep c.g t
  obtain ⟨p, hp⟩ := foldP_keep c.p { t with g := g }
  obtain ⟨v, hv⟩ := foldV_keep c.v { t with g := g, p := p }
  exact ⟨g, p, v, by simp only [Commit.apply, hg, hp, hv]⟩

theorem clause_apply (c : Commit) (t : Thread) (i : Nat) : (c.apply t).clause i = t.clause i := by
  obtain ⟨g, p, v, h⟩ := apply_keep c t
  rw [h]; rfl

/-! ### Commit and issue -/

theorem alignUp_ge (x t : Nat) : x ≤ alignUp x t := Nat.le_add_right _ _

theorem nextTurn_plain (slot t0 lat forf : Nat) :
    nextTurn slot t0 none lat 0 forf = (alignUp (t0 + Nat.max lat 1) slot + 16 * forf, forf) := by
  have := alignUp_ge (t0 + Nat.max lat 1) slot
  simp only [nextTurn, Option.getD_none, Nat.add_zero, if_pos this, Nat.sub_self, Nat.zero_div, Nat.zero_add]

theorem clauseSet_nil (t : Thread) : t.clauseSet [] = (t, ⟨0, 0, 0, none⟩) := rfl

/-- A commit that traps nowhere and triggers no clause. -/
theorem commit_plain {s s' : State} {k : Key} {t : Thread} {c : Commit} {t0 eu : Nat} (ht : s'.thr k = t)
    (hf : t.fpTraps c.flags = false) (hb : t.firstBound (c.g.map (·.1)) = none)
    (hs : c.slots.getD (({ (c.apply t).awake with pc := c.pc.getD (pcNext t.pc) } : Thread).triggered (c.g.map (·.1))) = []) :
    s.commit k t0 none eu c s' =
      (((s'.setThr k
        { (c.apply t).awake with
          pc := c.pc.getD (pcNext t.pc)
          next := alignUp (t0 + Nat.max c.lat 1) k.2 + 16 * c.forf
          forfeit := (c.apply t).forfeit + BitVec.ofNat 64 c.forf }).chargeIn k.1 (t0 + Nat.max c.lat 1 - s'.cyc (dieOf k.1))
          (eu + c.extra)).intEnd k).stepEnd k := by
  simp only [State.commit, ht, hf, hb, hs, clauseSet_nil, nextTurn_plain, Bool.false_eq_true, if_false, Nat.mul_zero,
    Nat.add_zero]
  rfl

theorem intEnd_quiet {s : State} {k : Key} (h : ((s.thr k).intPending && (s.thr k).ie && !(s.thr k).mode) = false) :
    s.intEnd k = s := by
  simp only [State.intEnd, h, Bool.false_eq_true, if_false]

theorem stepEnd_free {s : State} {k : Key} (h : (s.core k.1).dstep ≠ some k.2) : s.stepEnd k = s := by
  rw [State.stepEnd, if_neg h]

theorem core_setThr_dstep (s : State) (k : Key) (t : Thread) (c : Nat) :
    ((s.setThr k t).core c).dstep = (s.core c).dstep := by
  unfold State.setThr
  by_cases h : c = k.1
  · subst h; simp [Core.setThr]
  · rw [State.core_updCore_ne _ _ h]

theorem core_chargeIn_dstep (s : State) (j d eu c : Nat) : ((s.chargeIn j d eu).core c).dstep = (s.core c).dstep := by
  by_cases h : c = j
  · subst h; rw [State.core_chargeIn]; rfl
  · rw [State.core_chargeIn_ne _ _ _ h]

theorem awake_clear {s : State} (h : s.Clear) (c : Commit) :
    (c.apply s.me).awake = { c.apply s.me with walked := [], seen := none } := by
  obtain ⟨g, p, v, e⟩ := apply_keep c s.me
  have h1 := h.awake
  have h2 := h.idle
  rw [e]
  simp only [Thread.awake, if_neg h1]
  rw [h2]

/-- The commit of an instruction whose thread is clear: the writes and nothing else. -/
theorem commit_clear {s s' : State} {c : Commit} {eu : Nat} (hc : s'.Clear)
    (hf : s'.me.fpTraps c.flags = false) (hs : c.slots = none ∨ c.slots = some []) :
    s.commit s'.cur (s'.cyc (dieOf s'.cur.1)) none eu c s' = s'.retired (eu + c.extra) c.lat c.forf c.on := by
  have ha := awake_clear hc c
  have hk := hc.slot
  obtain ⟨g, p, v, e⟩ := apply_keep c s'.me
  rw [commit_plain (t := s'.me) rfl hf (firstBound_none hc.clause _), ha]
  · rw [stepEnd_free, intEnd_quiet]
    · rw [State.retired, State.updThr, Nat.add_sub_cancel_left]
      simp only [Thread.retire, Thread.atPc, Thread.due, Commit.on, apply_with, e]
    · rw [State.thr_chargeIn, State.thr_setThr _ _ _ hk, e]
      exact hc.quiet
    · rw [intEnd_quiet]
      · rw [core_chargeIn_dstep, core_setThr_dstep]; exact hc.free
      · rw [State.thr_chargeIn, State.thr_setThr _ _ _ hk, e]
        exact hc.quiet
  · rcases hs with hs | hs <;> rw [hs]
    · refine triggered_none (fun i => ?_) _
      rw [ha]
      exact (clause_apply c s'.me i).trans (hc.clause i)
    · rfl

/-- An instruction of a clear thread, guard on, that completes at once with no effect beyond its commit. -/
theorem issueWith_clear {s : State} {on : Thread → Bool} {pre : Thread → Option (Cause × Word)} {i : Instr} {eu : Nat}
    {body : Run → State → Act} (hc : s.Clear) (hp : pre s.me = none) (ho : on s.me = true) :
    issueWith on pre i eu body s =
      .next (s.settle s.cur (s.cyc (dieOf s.cur.1)) none eu s.serial (body ⟨s.cur, s.me, s.serial, i⟩ s)) := by
  simp only [issueWith, hc.here, if_true, hazard_clear hc, Option.getD_none]
  rw [show pre (s.thr s.cur) = none from hp, show on (s.thr s.cur) = true from ho]
  rfl

theorem issue_clear {s : State} {gd : Guard} {i : Instr} {eu : Nat} {body : Run → State → Act} (hc : s.Clear)
    (hg : s.me.guardOn gd = true) :
    issue i gd eu body s =
      .next (s.settle s.cur (s.cyc (dieOf s.cur.1)) none eu s.serial (body ⟨s.cur, s.me, s.serial, i⟩ s)) :=
  issueWith_clear hc rfl hg

/-- An instruction that only commits. -/
theorem issue_done {s : State} {gd : Guard} {i : Instr} {eu : Nat} {body : Run → State → Act} {c : Commit} (hc : s.Clear)
    (hg : s.me.guardOn gd = true) (hb : body ⟨s.cur, s.me, s.serial, i⟩ s = .done c s)
    (hf : s.me.fpTraps c.flags = false) (hs : c.slots = none ∨ c.slots = some []) :
    issue i gd eu body s = .next (s.retired (eu + c.extra) c.lat c.forf c.on) := by
  rw [issue_clear hc hg, hb]
  exact congrArg Host.Outcome.next (commit_clear hc hf hs)

theorem fpTraps_zero (t : Thread) : t.fpTraps 0 = false := by
  simp [Thread.fpTraps]

theorem setG_pc (t : Thread) (d : GReg) (v : Word) : (t.setG d v).pc = t.pc := by
  unfold Thread.setG; split <;> rfl

theorem onG (d : GReg) (v : Word) : ({ g := [(d, v)] } : Commit).on = fun t => t.setG d v := by
  funext t
  have h (f : BitVec 5) : f ||| 0 = f := by simp
  simp only [Commit.on, Commit.apply, List.foldl_cons, List.foldl_nil, Option.getD_none, h]
  rw [← setG_pc t d v]

theorem setP_pc (t : Thread) (d : PReg) (v : Word) : (t.setP d v).pc = t.pc := by
  unfold Thread.setP; split <;> rfl

theorem onP (d : PReg) (v : Word) : ({ p := [(d, v)] } : Commit).on = fun t => t.setP d v := by
  funext t
  have h (f : BitVec 5) : f ||| 0 = f := by simp
  simp only [Commit.on, Commit.apply, List.foldl_cons, List.foldl_nil, Option.getD_none, h]
  rw [← setP_pc t d v]

/-- An instruction that writes one g register. -/
theorem issue_g {s : State} {gd : Guard} {i : Instr} {eu : Nat} {body : Run → State → Act} {d : GReg} {v : Word} (hc : s.Clear)
    (hg : s.me.guardOn gd = true) (hb : body ⟨s.cur, s.me, s.serial, i⟩ s = .writeG d v s) :
    issue i gd eu body s = .next (s.retired eu 0 0 (·.setG d v)) := by
  rw [issue_done hc hg hb (fpTraps_zero _) (Or.inl rfl), onG]; rfl

/-- An instruction that writes one p register. -/
theorem issue_p {s : State} {gd : Guard} {i : Instr} {eu : Nat} {body : Run → State → Act} {d : PReg} {v : Word} (hc : s.Clear)
    (hg : s.me.guardOn gd = true) (hb : body ⟨s.cur, s.me, s.serial, i⟩ s = .writeP d v s) :
    issue i gd eu body s = .next (s.retired eu 0 0 (·.setP d v)) := by
  rw [issue_done hc hg hb (fpTraps_zero _) (Or.inl rfl), onP]; rfl

/-! ### An effect on the thread beside the commit -/

/-- A change of the thread that leaves it clear. -/
theorem clear_updThr {s : State} (h : s.Clear) (f : Thread → Thread) (hst : (f s.me).st = s.me.st)
    (hp : (f s.me).pend = s.me.pend) (hr : (f s.me).rlx = s.me.rlx) (hd : (f s.me).dfault = s.me.dfault)
    (hcl : (f s.me).cl = s.me.cl) (hs : (f s.me).seen = s.me.seen) (hi : ((f s.me).intPending && (f s.me).ie && !(f s.me).mode) = false) :
    (s.updThr s.cur f).Clear := by
  have hk := h.slot
  have e : (s.updThr s.cur f).me = f s.me := State.thr_updThr s s.cur f hk
  have here := h.here
  refine ⟨?_, by rw [e, hp]; exact h.idle, by rw [e, hst]; exact h.awake, by rw [e, hr]; exact h.rlx,
    by rw [e, hd]; exact h.dfault, by rw [e, hs]; exact h.seen, fun i => ?_, by rw [e]; exact hi, ?_⟩
  · show (s.updThr s.cur f).resident s.cur = true
    unfold State.resident at here ⊢
    rw [State.core_updThr_run, State.thr_updThr s s.cur f hk, show (f (s.thr s.cur)).st = (s.thr s.cur).st from hst]
    exact here
  · rw [e]
    show vget (f s.me).cl i none = none
    rw [hcl]; exact h.clause i
  · show ((s.updThr s.cur f).core s.cur.1).dstep ≠ _
    unfold State.updThr
    rw [core_setThr_dstep]; exact h.free

/-- The commit of an instruction that has changed the state. -/
theorem commit_clear_at {s s' : State} {k : Key} {t0 : Nat} {c : Commit} {eu : Nat} (hc : s'.Clear) (hk : s'.cur = k)
    (ht : s'.cyc (dieOf k.1) = t0) (hf : s'.me.fpTraps c.flags = false) (hs : c.slots = none ∨ c.slots = some []) :
    s.commit k t0 none eu c s' = s'.retired (eu + c.extra) c.lat c.forf c.on := by
  subst hk ht
  exact commit_clear hc hf hs

theorem cyc_setCore (s : State) (k : Nat) (c : Core) (d : Nat) : (s.setCore k c).cyc d = s.cyc d := rfl
theorem cyc_updThr (s : State) (k : Key) (f : Thread → Thread) (d : Nat) : (s.updThr k f).cyc d = s.cyc d := rfl

theorem retire_comp (t : Thread) (nx forf : Nat) (f g : Thread → Thread)
    (hf : f (t.atPc (pcNext t.pc)) = (f t).atPc (pcNext t.pc))
    (hff : (f t).forfeit = t.forfeit) (hpc : (f t).pc = t.pc) :
    (f t).retire nx forf g = t.retire nx forf fun t => g (f t) := by
  unfold Thread.retire
  rw [hff, hpc, ← hf]

theorem retired_updThr {s : State} (hk : s.cur.2 < 16) (eu lat forf : Nat) (f g : Thread → Thread)
    (hf : ∀ t : Thread, f (t.atPc (pcNext t.pc)) = (f t).atPc (pcNext t.pc))
    (hff : ∀ t, (f t).forfeit = t.forfeit) (hpc : ∀ t, (f t).pc = t.pc) :
    (s.updThr s.cur f).retired eu lat forf g = s.retired eu lat forf fun t => g (f t) := by
  have h : (fun t => (f t).retire (alignUp (s.cyc (dieOf s.cur.1) + Nat.max lat 1) s.cur.2 + 16 * forf) forf g) =
      fun t => t.retire (alignUp (s.cyc (dieOf s.cur.1) + Nat.max lat 1) s.cur.2 + 16 * forf) forf fun t => g (f t) :=
    funext fun t => retire_comp t _ _ f g (hf t) (hff t) (hpc t)
  unfold State.retired
  rw [← h]
  show ((s.updThr s.cur f).updThr s.cur _).chargeIn s.cur.1 (Nat.max lat 1) eu = _
  rw [State.updThr_updThr _ _ _ _ hk]
  rfl

/-- An instruction that changes the thread and commits. -/
theorem issue_thread {s : State} {gd : Guard} {i : Instr} {eu : Nat} {body : Run → State → Act} {f : Thread → Thread}
    (hc : s.Clear) (hg : s.me.guardOn gd = true)
    (hb : body ⟨s.cur, s.me, s.serial, i⟩ s = .done {} (s.updThr s.cur f)) (hu : (s.updThr s.cur f).Clear)
    (hf : ∀ t : Thread, f (t.atPc (pcNext t.pc)) = (f t).atPc (pcNext t.pc))
    (hff : ∀ t, (f t).forfeit = t.forfeit) (hpc : ∀ t, (f t).pc = t.pc) :
    issue i gd eu body s = .next (s.retired eu 0 0 f) := by
  have h0 (x : BitVec 5) : x ||| 0 = x := by simp
  have hon : ({} : Commit).on = fun t => t := by
    funext t
    simp only [Commit.on, Commit.apply, List.foldl_nil, Option.getD_none, h0]
  have h1 := commit_clear_at (s := s) (k := s.cur) (t0 := s.cyc (dieOf s.cur.1)) (c := {}) (eu := eu) hu rfl rfl (fpTraps_zero _)
    (Or.inl rfl)
  rw [retired_updThr hc.slot _ _ _ _ _ hf hff hpc, hon] at h1
  rw [issue_clear hc hg, hb]
  exact congrArg Host.Outcome.next h1

theorem next_g {s : State} {d : GReg} {v w : Word} {eu lat forf : Nat} (h : v = w) :
    (Host.Outcome.next (s.retired eu lat forf (·.setG d v)) : Host.Outcome State Fault Refusal) =
      .next (s.retired eu lat forf (·.setG d w)) := by rw [h]

theorem next_p {s : State} {d : PReg} {v w : Word} {eu lat forf : Nat} (h : v = w) :
    (Host.Outcome.next (s.retired eu lat forf (·.setP d v)) : Host.Outcome State Fault Refusal) =
      .next (s.retired eu lat forf (·.setP d w)) := by rw [h]

end Sys2Proof.Machine
end

