-- ==== Sys2Proof/Laws/Scalar.lean ====
section
/-! SUPPORT. The model's w-bit integers are those of the statements. -/

namespace Sys2Proof.Machine

theorem sgn_toInt (w : Nat) (hw : 0 < w) (b : Nat) : Num.sgn w b = (BitVec.ofNat w b).toInt := by
  have h2 : 2 ^ w = 2 * 2 ^ (w - 1) := by rw [← Nat.pow_succ']; congr 1; omega
  simp only [Num.sgn, BitVec.toInt, BitVec.toNat_ofNat]
  have := Nat.mod_lt b (show 0 < 2 ^ w from Nat.two_pow_pos w)
  split <;> split <;> push_cast <;> omega

theorem sw_spec (w32 : Bool) (x : Word) : sw w32 x = Spec.sw (if w32 then 32 else 64) x := by
  unfold sw Spec.sw wd
  cases w32 <;> simp only [if_true, Bool.false_eq_true, if_false] <;> rw [sgn_toInt _ (by decide)]
  · simp
  · rfl

theorem uw_spec (w32 : Bool) (x : Word) : uw w32 x = Spec.uw (if w32 then 32 else 64) x := by
  unfold uw Spec.uw wd
  cases w32
  · simpa using x.isLt
  · simp

theorem wrap_ofInt (w : Nat) (v : Int) : Num.wrap w v = (BitVec.ofInt w v).toNat := by
  simp [Num.wrap, BitVec.toNat_ofInt]

theorem fin_spec (w32 : Bool) (v : Int) : fin w32 v = Spec.fin (if w32 then 32 else 64) v := by
  unfold fin Spec.fin wd
  cases w32 <;> simp only [if_true, Bool.false_eq_true, if_false] <;>
    rw [sgn_toInt _ (by decide), wrap_ofInt, BitVec.ofNat_toNat, BitVec.setWidth_eq] <;> rfl

theorem finN_spec (w32 : Bool) (v : Nat) : finN w32 v = Spec.fin (if w32 then 32 else 64) v := fin_spec w32 v

end Sys2Proof.Machine
end

