-- ==== Sys2Proof/Laws/Vector.lean ====
section
/-! SUPPORT. Elements of vectors: reading what was merged; the issue of a lane-wise instruction. -/

namespace Sys2Proof.Machine

theorem vpack_lt (w : Nat) (xs : List Nat) : vpack w xs < 2 ^ (w * xs.length) := by
  induction xs with
  | nil => simp [vpack]
  | cons x xs ih =>
    simp only [vpack, List.length_cons, Nat.mul_add, Nat.mul_one]
    rw [Nat.pow_add]
    have h1 : x % 2 ^ w < 2 ^ w := Nat.mod_lt _ (Nat.two_pow_pos _)
    have h2 : vpack w xs + 1 ≤ 2 ^ (w * xs.length) := ih
    calc x % 2 ^ w + 2 ^ w * vpack w xs < 2 ^ w + 2 ^ w * vpack w xs := by omega
      _ = 2 ^ w * (vpack w xs + 1) := by rw [Nat.mul_add, Nat.mul_one, Nat.add_comm]
      _ ≤ 2 ^ w * 2 ^ (w * xs.length) := Nat.mul_le_mul_left _ h2
      _ = 2 ^ (w * xs.length) * 2 ^ w := Nat.mul_comm _ _

theorem vpack_elem (w : Nat) (xs : List Nat) (j : Nat) (h : j < xs.length) :
    (vpack w xs >>> (w * j)) % 2 ^ w = xs[j] % 2 ^ w := by
  induction xs generalizing j with
  | nil => simp at h
  | cons x xs ih =>
    cases j with
    | zero => simp [vpack, Nat.add_mul_mod_self_left]
    | succ j =>
      have e : (x % 2 ^ w + 2 ^ w * vpack w xs) >>> (w * (j + 1)) = vpack w xs >>> (w * j) := by
        rw [Nat.mul_add, Nat.mul_one, Nat.add_comm (w * j) w, Nat.shiftRight_add, Nat.shiftRight_eq_div_pow _ w,
          Nat.add_mul_div_left _ _ (Nat.two_pow_pos _), Nat.div_eq_of_lt (Nat.mod_lt _ (Nat.two_pow_pos _)), Nat.zero_add]
      simp only [vpack, e, List.getElem_cons_succ]
      exact ih j (by simpa using h)

/-- Element e of a merged vector: the new one, or the old one where there is none. -/
theorem velem_vmerge {w : Nat} (hw : w * (2048 / w) = 2048) (old : VWord) (xs : List (Option Nat)) (e : Nat) (he : e < 2048 / w)
    (hx : xs.length ≤ 2048 / w) :
    velem w (vmerge w old xs) e = ((xs[e]?).join).elim (velem w old e) (· % 2 ^ w) := by
  have hl : (xs ++ List.replicate (2048 / w - xs.length) none).length = 2048 / w := by
    rw [List.length_append, List.length_replicate]; omega
  have hb : vpack w ((xs ++ List.replicate (2048 / w - xs.length) none).mapIdx fun j (x : Option Nat) => x.getD (velem w old j)) <
      2 ^ 2048 := by
    refine Nat.lt_of_lt_of_le (vpack_lt _ _) (Nat.le_of_eq ?_)
    rw [List.length_mapIdx, hl, hw]
  have h1 : velem w (vmerge w old xs) e = (vpack w ((xs ++ List.replicate (2048 / w - xs.length) none).mapIdx
      fun j (x : Option Nat) => x.getD (velem w old j)) >>> (w * e)) % 2 ^ w := by
    show (BitVec.toNat (vmerge w old xs) >>> (w * e)) % 2 ^ w = _
    unfold vmerge
    rw [BitVec.toNat_ofNat, Nat.mod_eq_of_lt hb]
  rw [h1, vpack_elem _ _ _ (by rw [List.length_mapIdx, hl]; exact he), List.getElem_mapIdx]
  by_cases h : e < xs.length
  · rw [List.getElem_append_left h, List.getElem?_eq_getElem h]
    cases xs[e] <;> simp [velem]
  · rw [List.getElem_append_right (by omega), List.getElem?_eq_none (by omega)]
    simp [velem]

/-! ### Instructions on registers alone -/

theorem streamCheck_none {r : Run} (h : ∀ v, r.t.stream v = none) (ops : List VOp) (s : State) (go : Act) :
    streamCheck r ops s go = go := by
  induction ops with
  | nil => rfl
  | cons o ops ih => simp only [streamCheck, h, ih]

theorem withStreams_none {r : Run} (h : ∀ v, r.t.stream v = none) (e : Nat) (ops : List VOp) (s : State) (f : Nat → VRes) :
    withStreams r e ops s f = .done { (f e).c with extra := 0 } s := by
  have hb : boundOps r.t ops = [] := by
    unfold boundOps
    rw [List.filterMap_eq_nil_iff]
    intro o _
    rw [h]; rfl
  unfold withStreams
  rw [streamCheck_none h, hb]
  rfl

theorem noStreams_none {r : Run} (h : ∀ v, r.t.stream v = none) (vs : List (Nat × VReg)) (s : State) (go : Act) :
    noStreams r vs s go = go := by
  have : (vs.findSome? fun p => (r.t.stream p.2).map fun x => (p, x)) = none := by
    rw [List.findSome?_eq_none_iff]
    intro p _
    rw [h]; rfl
  unfold noStreams
  rw [this]

/-- A lane-wise instruction of a clear heavy thread. -/
theorem issueV_clear {s : State} {gd : Guard} {i : Instr} {eu : Nat} {body : Run → State → Act} (hc : s.Clear)
    (hl : s.Lanes gd) :
    issueV i gd eu body s =
      .next (s.settle s.cur (s.cyc (dieOf s.cur.1)) none eu s.serial (body ⟨s.cur, s.me, s.serial, i⟩ s)) := by
  have ho : (s.me.lanes gd != 0) = true := by simpa using hl.some
  rw [issueV, issueWith_clear hc rfl ho]
  simp only [heavyOnly, hl.heavy, Bool.false_eq_true, if_false]

theorem settle_done {s : State} {eu : Nat} {c : Commit} (hc : s.Clear) (hf : s.me.fpTraps c.flags = false)
    (hs : c.slots = none) :
    s.settle s.cur (s.cyc (dieOf s.cur.1)) none eu s.serial (.done c s) = s.retired (eu + c.extra) c.lat c.forf c.on :=
  commit_clear hc hf (Or.inl hs)

theorem settle_trap {s : State} {eu : Nat} {c : Commit} (hf : s.me.fpTraps c.flags = true) :
    s.settle s.cur (s.cyc (dieOf s.cur.1)) none eu s.serial (.done c s) =
      s.trapStep s.cur eu .fpException (c.flags.zeroExtend 64) := by
  simp only [State.settle, State.commit]
  rw [if_pos hf]

/-- What an instruction that commits with flags comes to. -/
theorem ends_of {s : State} {i : Instr} {eu : Nat} {c : Commit} {f : Thread → Thread} (hc : s.Clear)
    (he : exec i s = .next (s.settle s.cur (s.cyc (dieOf s.cur.1)) none eu s.serial (.done c s)))
    (hx : c.extra = 0) (hl : c.lat = 0) (hs : c.slots = none) {sub : Bool} (hsub : c.forf = if sub then 2 else 0)
    (hon : ∀ t : Thread, c.on t = { f t with fflags := t.fflags ||| c.flags }) :
    s.ends i eu c.flags sub f := by
  constructor
  · intro h
    have hf : s.me.fpTraps c.flags = false := by simp [Thread.fpTraps, Thread.enables, h]
    rw [he, settle_done hc hf hs, hx, hl, hsub, funext hon]
    rfl
  · intro h
    have hf : s.me.fpTraps c.flags = true := by simpa [Thread.fpTraps, Thread.enables] using h
    rw [he, settle_trap hf]

theorem onV (t : Thread) (d : VReg) (v : VWord) (fl : BitVec 5) (fo ex : Nat) :
    ({ v := [(d, v)], flags := fl, forf := fo, extra := ex } : Commit).on t =
      { t.setV d v with fflags := t.fflags ||| fl } := rfl

theorem unionF_eq (rs : List Num.Res) : unionF rs = rs.foldl (fun f r => f ||| r.f) 0 := rfl

theorem mem_active {s : State} {gd : Guard} {w n e : Nat} (he : e < n) :
    e ∈ s.active gd w n ↔ (s.me.lanes gd).getLsbD (e * w / 32) = true := by
  simp [State.active, List.mem_filter, he]

theorem filterMap_active {α : Type} (l : List Nat) (p : Nat → Bool) (f : Nat → α) :
    (l.map fun e => if p e then some (f e) else none).filterMap id = (l.filter p).map f := by
  induction l with
  | nil => rfl
  | cons a l ih =>
    rw [List.map_cons, List.filterMap_cons, List.filter_cons]
    by_cases h : p a = true
    · rw [if_pos h, if_pos h, List.map_cons, ← ih]; rfl
    · rw [if_neg h, if_neg h, ← ih]; rfl

/-- The active elements of an element-wise instruction without streams. -/
theorem elemwise_c {s : State} {i : Instr} {gd : Guard} {w : Nat} {d : VReg} {f : Nat → Num.Res}
    (hst : ∀ v, s.me.stream v = none) :
    (elemwise ⟨s.cur, s.me, s.serial, i⟩ gd w d f (elems w)).c =
      { v := [(d, vmerge w (s.me.rv d) ((List.range (2048 / w)).map fun e =>
          if (s.me.lanes gd).getLsbD (e * w / 32) then some (f e).r else none))],
        flags := (s.active gd w (2048 / w)).foldl (fun g e => g ||| (f e).f) 0
        forf := if (s.active gd w (2048 / w)).any fun e => (f e).sub then 2 else 0 } := by
  have hva (e : Nat) (h : e < elems w) : vact (s.me.lanes gd) w (elems w) e = (s.me.lanes gd).getLsbD (e * w / 32) := by
    simp [vact, h, laneOn, laneOf]
  have hmap : ((List.range (elems w)).map fun e => if vact (s.me.lanes gd) w (elems w) e then some (f e) else none) =
      (List.range (elems w)).map fun e => if (s.me.lanes gd).getLsbD (e * w / 32) then some (f e) else none := by
    apply List.map_congr_left
    intro e h
    rw [hva e (List.mem_range.1 h)]
  have hfil := filterMap_active (List.range (elems w)) (fun e => (s.me.lanes gd).getLsbD (e * w / 32)) f
  simp only [elemwise, hmap, hfil, Thread.vput, hst]
  have h1 : (List.map (fun x => Option.map (fun x => x.r) x) ((List.range (elems w)).map fun e =>
      if (s.me.lanes gd).getLsbD (e * w / 32) then some (f e) else none)) =
      (List.range (2048 / w)).map fun e => if (s.me.lanes gd).getLsbD (e * w / 32) then some (f e).r else none := by
    rw [List.map_map]
    apply List.map_congr_left
    intro e _
    simp only [Function.comp]
    split <;> rfl
  rw [h1, unionF_eq, List.foldl_map]
  have h2 : anySub (((List.range (elems w)).filter fun e => (s.me.lanes gd).getLsbD (e * w / 32)).map f) =
      (s.active gd w (2048 / w)).any fun e => (f e).sub := by
    unfold anySub State.active elems
    rw [List.any_map]; rfl
  rw [h2]
  rfl

/-- An element-wise instruction on registers. -/
theorem lanewise_of {s : State} {i : Instr} {gd : Guard} {eu w : Nat} {d : VReg} {f : Nat → Num.Res} {ops : List VOp}
    (hc : s.Clear) (hl : s.Lanes gd) (hw : w * (2048 / w) = 2048)
    (he : exec i s = .next (s.settle s.cur (s.cyc (dieOf s.cur.1)) none eu s.serial
      (withStreams ⟨s.cur, s.me, s.serial, i⟩ (elems w) ops s (elemwise ⟨s.cur, s.me, s.serial, i⟩ gd w d f)))) :
    s.lanewise i gd eu w d f := by
  rw [withStreams_none hl.stream, elemwise_c hl.stream] at he
  refine ⟨_, ends_of hc he rfl rfl rfl rfl (fun t => rfl), ?_⟩
  intro e h
  rw [velem_vmerge hw _ _ e h (by simp)]
  simp only [List.getElem?_map, List.getElem?_range h, Option.map_some, Option.join_some]
  by_cases hl : (s.me.lanes gd).getLsbD (e * w / 32) = true
  · rw [if_pos ((mem_active h).2 hl), if_pos hl]; rfl
  · rw [if_neg (fun hm => hl ((mem_active h).1 hm)), if_neg hl]; rfl

end Sys2Proof.Machine
end

