-- ==== Sys2Proof/Tests/Slice0.lean ====
section
/-! SUPPORT. Tests: an ill-formed term for each check, words written out, single steps, and for every statement states that meet its
hypotheses. -/

namespace Sys2Proof.Tests

section

-- The theorems are checked one after another: side by side, their evaluations would need more memory than the check has.
set_option Elab.async false

open Sys2Proof Sys2Proof.Machine

/-- A machine that runs one thread at address 0, whose word is a `NOP`; its memory is reached at its own addresses. -/
def w0 : State := State.reset.withFetchWord 96 1

/-- Any guard. -/
def any : Guard := ⟨false, 0⟩

/-- The next state of a step that gives one. -/
def nextOf (o : Host.Outcome State Fault Refusal) : State :=
  match o with
  | .next s => s
  | _ => State.reset

/-- The state w0 with values in g registers. -/
def regs (l : List (GReg × Word)) : State := w0.updThr (0, 0) fun t => l.foldl (fun t p => t.setG p.1 p.2) t

/-- The hypotheses of `Clear` but the one on clauses. -/
def clearB (s : State) : Bool :=
  s.resident s.cur && s.me.pend.isNone && s.me.st != .waiting && s.me.rlx.isEmpty && s.me.dfault.isEmpty &&
  s.me.seen.isNone && !(s.me.intPending && s.me.ie && !s.me.mode) && (s.core s.cur.1).dstep != some s.cur.2

theorem clause_none {t : Thread} (h : t.cl = Vector.replicate 8 none) (i : Nat) : t.clause i = none := by
  rw [Thread.clause, vget, h, Array.getD]
  split <;> simp

theorem clear_of {s : State} (h : clearB s = true) (hc : s.me.cl = Vector.replicate 8 none) : s.Clear := by
  simp only [clearB, Bool.and_eq_true, bne_iff_ne, List.isEmpty_iff, Option.isNone_iff_eq_none, Bool.not_eq_true'] at h
  obtain ⟨⟨⟨⟨⟨⟨⟨h1, h2⟩, h3⟩, h4⟩, h5⟩, h6⟩, h7⟩, h8⟩ := h
  exact ⟨h1, h2, h3, h4, h5, h6, clause_none hc, h7, h8⟩

theorem none_only {α : Type} {l : List (Option α)} (h : l.all (·.isNone) = true) {p : α → Prop} : ∀ x, some x ∈ l → p x := by
  intro x hx
  simpa using List.all_eq_true.mp h _ hx

theorem stream_none {t : Thread} (h : t.str = Vector.replicate 8 none) (v : VReg) : t.stream v = none := by
  rw [Thread.stream, vget, h, Array.getD]
  split
  · rfl
  · split <;> simp

/-! ### The checks of well-formedness each refuse a term (R46, R52 to R54, R117, R128, R143, R157, R188, R210, R278) -/

theorem test_illFormed_sat : (Instr.fmin any ⟨.fp32, .rne, true⟩ 1 2 (.g 3)).wellFormed = false := by decide
theorem test_illFormed_scalarType : (Instr.fadd any ⟨.fp16, .rne, false⟩ 1 2 (.g 3)).wellFormed = false := by decide
theorem test_illFormed_convertType : (Instr.fcvt any .int8 ⟨.fp32, .rne, false⟩ 1 2).wellFormed = false := by decide
theorem test_illFormed_classType : (Instr.fclass any ⟨.int32, .rne, false⟩ 1 2).wellFormed = false := by decide
theorem test_illFormed_vectorType : (Instr.vadd any ⟨.fp64, .rne, false⟩ 1 2 (.v 3)).wellFormed = false := by decide
theorem test_illFormed_vectorRound : (Instr.vadd any ⟨.int32, .rtz, false⟩ 1 2 (.v 3)).wellFormed = false := by decide
theorem test_illFormed_logicType : (Instr.vand any ⟨.fp32, .rne, false⟩ 1 2 (.v 3)).wellFormed = false := by decide
theorem test_illFormed_unsigned : (Instr.vmin any true ⟨.fp32, .rne, false⟩ 1 2 (.v 3)).wellFormed = false := by decide
theorem test_illFormed_absSat : (Instr.vabs any ⟨.fp32, .rne, true⟩ 1 2).wellFormed = false := by decide
theorem test_illFormed_part : (Instr.vcvt any .fp32 1 ⟨.int32, .rne, false⟩ 1 2).wellFormed = false := by decide
theorem test_illFormed_reduce : (Instr.vred any .or false ⟨.fp32, .rne, false⟩ 1 2).wellFormed = false := by decide
theorem test_illFormed_stream : (Instr.scfg any false .fp64 2 0 8 5 (.lit 0)).wellFormed = false := by decide
theorem test_illFormed_pair : (Instr.take any 1 5).wellFormed = false := by decide
theorem test_illFormed_loadOrder : (Instr.ld any false ⟨false, .int32, .glob, .rel, 1⟩ 1 2 (.g 3)).wellFormed = false := by decide
theorem test_illFormed_storeOrder : (Instr.st any ⟨false, .int32, .glob, .acq, 1⟩ 1 (.g 2) 3).wellFormed = false := by decide
theorem test_illFormed_observers : (Instr.ld any false ⟨false, .int32, .glob, .plain, 1⟩ 1 2 (.g 3)).wellFormed = false := by decide
theorem test_illFormed_relaxed : (Instr.ld any false ⟨true, .int32, .glob, .acq, 1⟩ 1 2 (.g 3)).wellFormed = false := by decide
theorem test_illFormed_queueSpace : (Instr.ld any false ⟨false, .int32, .queue, .plain, 0⟩ 1 2 (.g 3)).wellFormed = false := by decide
theorem test_illFormed_bitmapType : (Instr.ld any false ⟨false, .fp32, .zmap, .plain, 0⟩ 1 2 (.g 3)).wellFormed = false := by decide
theorem test_illFormed_signExtend : (Instr.ld any true ⟨false, .int64, .glob, .plain, 0⟩ 1 2 (.g 3)).wellFormed = false := by decide
theorem test_illFormed_oddPair : (Instr.ldp any false ⟨false, .int64, .glob, .plain, 0⟩ 1 2 (.g 3)).wellFormed = false := by decide
theorem test_illFormed_vectorSpace : (Instr.vld any ⟨false, .fp32, .zmap, .plain, 0⟩ 1 2 (.g 3)).wellFormed = false := by decide
theorem test_illFormed_bitmapStore : (Instr.vst any true ⟨false, .fp32, .glob, .plain, 0⟩ 1 (.g 3) 2).wellFormed = false := by decide
theorem test_illFormed_indexed : (Instr.vldx any 0 ⟨false, .fp16, .glob, .plain, 0⟩ 1 2 3).wellFormed = false := by decide
theorem test_illFormed_atomicType : (Instr.amoadd any ⟨false, .fp32, .glob, .ar, 1⟩ 1 2 (.lit 0) 3).wellFormed = false := by decide
theorem test_illFormed_atomicSpace : (Instr.amoadd any ⟨false, .int32, .abuf, .ar, 1⟩ 1 2 (.lit 0) 3).wellFormed = false := by decide
theorem test_illFormed_atomicFloat : (Instr.amofadd any ⟨false, .int32, .glob, .ar, 1⟩ 1 2 (.lit 0) 3).wellFormed = false := by decide
theorem test_illFormed_copyTo : (Instr.vcopyb any 1 2 5 6 7).wellFormed = false := by decide
theorem test_illFormed_pairCas : (Instr.cas2 any ⟨false, .int64, .glob, .ar, 1⟩ 1 2 (.lit 0) 4).wellFormed = false := by decide
theorem test_illFormed_red : (Instr.red any .add true .int32 1 (.lit 0) 2).wellFormed = false := by decide
theorem test_illFormed_bindWord : (Instr.bind any ⟨0, 0, .add, .add⟩ 16 1 (.g 2) 0).wellFormed = false := by decide
theorem test_illFormed_bindDest : (Instr.bind any ⟨0, 0, .add, .pass⟩ 15 1 (.g 2) 0).wellFormed = false := by decide

/-! ### Words written out from the fields of R44, the opcodes of R55 and the layouts of the chapters -/

def word (a b c : BitVec 32) : IWord := c ++ (b ++ a)

/-- Outside a node, the word reads as the instruction. -/
def reads (a b c : BitVec 32) (i : Instr) : Bool := (decodeWord false (word a b c)).toOption == some i

theorem test_word_nop : reads 0x00000001 0 0 (.nop any) = true := by decide
theorem test_word_br : reads 0x00100002 0 0x00000030 (.br any 0x30) = true := by decide
theorem test_word_spawn : reads 0x3100000A 0x00000706 0 (.spawn any 1 6 7) = true := by decide
theorem test_word_go : reads 0x0010000E 0x00000005 0x00000008 (.go any 5 (.lit 8)) = true := by decide
theorem test_word_sysr : reads 0x05100012 0 0x00000003 (.sysr any 5 3) = true := by decide
theorem test_word_vcopyb : reads 0x05000217 0x00000706 0 (.vcopyb any 2 0 5 6 7) = true := by decide
theorem test_word_add : reads 0x05130020 0x00000006 0x00000064 (.add ⟨false, 3⟩ false false 5 6 (.lit 100)) = true := by decide
theorem test_word_movs : reads 0x05000036 0x00000040 0 (.movs any 5 .tid) = true := by decide
theorem test_word_ffma :
    reads 0x09090043 0x00010C0A 0x0000000B (.ffma ⟨true, 1⟩ ⟨.fp32, .rtz, false⟩ 9 10 (.g 11) 12) = true := by decide
theorem test_word_vfma :
    reads 0x23020053 0x00002328 0x00000029 (.vfma ⟨false, 2⟩ ⟨.fp32, .rne, false⟩ 3 8 (.v 9) 3) = true := by decide
theorem test_word_scfg : reads 0x28100070 0x01000005 0 (.scfg any false .fp32 2 0 8 5 (.lit 0)) = true := by decide
theorem test_word_ld :
    reads 0x07100180 0x54000005 0x00000010 (.ld any true ⟨false, .int32, .glob, .plain, 0⟩ 7 5 (.lit 16)) = true := by decide
theorem test_word_stq : reads 0x00100088 0x56002305 0 (.stq any 5 (.lit 0) 3) = true := by decide
theorem test_word_fence : reads 0x00000089 0x00080000 0 (.fence any 8) = true := by decide
theorem test_word_amoadd :
    reads 0x071000A0 0x58690605 0x00000008 (.amoadd any ⟨false, .int64, .glob, .ar, 9⟩ 7 5 (.lit 8) 6) = true := by decide
theorem test_word_bind :
    reads 0x101000B0 0x28230A09 0x00000040 (.bind any ⟨2, 1, .mul, .add⟩ 16 9 (.lit 64) 10) = true := by decide
theorem test_word_marm : reads 0x001000C0 0x00000005 0x00000010 (.marm any 5 (.lit 16)) = true := by decide
theorem test_word_bwait : reads 0x090000C6 0 0x00000007 (.bwait any 0 9 (.g 7)) = true := by decide
theorem test_word_twany : reads 0x091000D0 0x0000000A 0x000003E8 (.twany any 9 10 (.lit 1000)) = true := by decide
theorem test_word_ginvoke : reads 0x311000E0 0x00000005 0 (.ginvoke any 1 5 (.lit 0)) = true := by decide
theorem test_word_zero : (decodeWord false 0).toOption = none := by decide

/-! ### Single steps: expected values worked out by hand from R101, R102, R118 to R120, R125, R129 and the causes of R334 -/

/-- What a g register of the thread holds after an instruction. -/
def after (l : List (GReg × Word)) (i : Instr) (r : GReg) : Word := (nextOf (exec i (regs l))).me.rg r

theorem test_step_pc : (nextOf (step w0)).me.pc = 12 := by decide
theorem test_add_wraps : after [(1, 0xFFFFFFFFFFFFFFFF)] (.add any false false 3 1 (.lit 1)) 3 = 0 := by decide
theorem test_add_saturates :
    after [(1, 0x7FFFFFFFFFFFFFFF)] (.add any false true 3 1 (.lit 1)) 3 = 0x7FFFFFFFFFFFFFFF := by decide
theorem test_mulh : after [(1, 0xFFFFFFFFFFFFFFFF)] (.mulh any false .u 3 1 (.g 1)) 3 = 0xFFFFFFFFFFFFFFFE := by decide
theorem test_div_rounds_to_zero :
    after [(1, 0xFFFFFFFFFFFFFFF9)] (.div any false false 3 1 (.lit 2)) 3 = 0xFFFFFFFFFFFFFFFD := by decide
theorem test_shr_signed32 : after [(1, 0x80000000)] (.shr any true true 3 1 (.lit 4)) 3 = 0xFFFFFFFFF8000000 := by decide
theorem test_clz : after [(1, 1)] (.clz any true false 3 1) 3 = 31 := by decide
theorem test_g0 : after [(1, 7)] (.add any false false 0 1 (.lit 1)) 0 = 0 := by decide
theorem test_fadd : after [(1, 0x3F800000), (2, 0x40000000)] (.fadd any ⟨.fp32, .rne, false⟩ 3 1 (.g 2)) 3 = 0x40400000 := by
  decide
theorem test_ext : after [(1, 0xABCD)] (.ext any true 3 1 (.lit 0x804)) 3 = 0xFFFFFFFFFFFFFFBC := by decide
theorem test_call_links : (nextOf (exec (.call any 0x30) w0)).me.rg 31 = 12 ∧ (nextOf (exec (.call any 0x30) w0)).me.pc = 0x30 := by
  decide
theorem test_divide_by_zero : (nextOf (exec (.div any false false 3 1 (.lit 0)) w0)).me.tcause = 0x0B := by decide

/-! ### States that meet the hypotheses of the statements -/

theorem w0_clear : w0.Clear := clear_of (by decide) (by rfl)

/-- Divisor 0, and divisor 1. -/
theorem witness_ArithmeticResults : w0.Clear ∧ w0.me.guardOn any = true ∧ Spec.uw 32 (OpB.sx w0.me (.lit 0)) = 0 ∧
    Spec.uw 64 (OpB.sx w0.me (.lit 1)) ≠ 0 := ⟨w0_clear, by decide⟩

theorem witness_LogicAndShifts : w0.Clear ∧ w0.me.guardOn any = true := ⟨w0_clear, by decide⟩

theorem witness_SelectionAndCounting : w0.Clear ∧ w0.me.guardOn any = true := ⟨w0_clear, by decide⟩

theorem witness_ComparesAndPredicates : w0.Clear ∧ w0.me.guardOn any = true := ⟨w0_clear, by decide⟩

/-- `%fmode` with the last rounding mode that `WRS` takes, and with the first that it does not. -/
theorem witness_MovesAndModeWrites : w0.Clear ∧ w0.me.guardOn any = true ∧ (OpB.zx w0.me (.lit 4) &&& 7#64).toNat ≤ 4 ∧
    (OpB.zx w0.me (.lit 5) &&& 7#64).toNat > 4 := ⟨w0_clear, by decide⟩

/-- A thread that is no node, and one that is; the first cluster of the grid. -/
theorem witness_SpecialRegisterReads : w0.Clear ∧ w0.me.guardOn any = true ∧ w0.me.node = none ∧
    (w0.ctx 0 (w0.core 0).cid).grid[0]? = some (clusterOf 0) := ⟨w0_clear, by decide⟩

def nodeGraph : Graph := { Graph.empty with
  sigs := [{ Sig.empty with pre := 77, preSt := true }, Sig.empty], nodes := [{ Node.empty with emask := 1, st := 5 }, Node.empty]
  busy := true, tag := 9 }

/-- The thread of w0 as node 0 of a graph 3 of its cluster. -/
def asNode : State :=
  (w0.updCluster 0 fun c => { c with graphs := [(3, nodeGraph)], run := some 1 }).updThr (0, 0) fun t =>
    { t with st := .node, node := some (0, 3, 0), light := true }

theorem asNode_clear : asNode.Clear := clear_of (by decide) (by rfl)

theorem witness_SpecialRegisterReads_node : asNode.Clear ∧ asNode.me.guardOn any = true ∧ asNode.me.node = some (0, 3, 0) ∧
    tget (asNode.cluster 0).graphs 3 = some nodeGraph := ⟨asNode_clear, by decide, by decide, rfl⟩

theorem witness_BitFieldsAndLea : w0.Clear ∧ w0.me.guardOn any = true := ⟨w0_clear, by decide⟩

theorem witness_FpResultsCommit : w0.Clear ∧ w0.me.guardOn any = true := ⟨w0_clear, by decide⟩

/-- 1, 2 and 3 in FP32. -/
theorem witness_FpExactBeforeRounding :
    Spec.number (Num.rd .fp32 Num.Env.plain 0x3F800000) = some (Spec.val false 0x800000 (-23)) ∧
    Spec.number (Num.rd .fp32 Num.Env.plain 0x40000000) = some (Spec.val false 0x800000 (-22)) ∧
    Spec.number (Num.rd .fp32 Num.Env.plain 0x40400000) = some (Spec.val false 0xC00000 (-22)) :=
  ⟨congrArg Spec.number (by decide : Num.rd .fp32 Num.Env.plain 0x3F800000 = .num false 0x800000 (-23)),
    congrArg Spec.number (by decide : Num.rd .fp32 Num.Env.plain 0x40000000 = .num false 0x800000 (-22)),
    congrArg Spec.number (by decide : Num.rd .fp32 Num.Env.plain 0x40400000 = .num false 0xC00000 (-22))⟩

/-- The least subnormal of FP32. -/
theorem witness_FpRepresentableRoundsToItself : ∃ f, Num.fmt .fp32 = some f ∧ 1 < 2 ^ f.width ∧ 1 % 2 ^ f.low = 0 ∧
    Num.valOf .fp32 1 = (.num false 1 (-149), false) ∧ Num.Env.plain.ftz = false := ⟨_, rfl, by decide⟩

theorem witness_FpCompareClassSign : w0.Clear ∧ w0.me.guardOn any = true ∧
    (ETy.fp32, 8, 23) ∈ [(ETy.fp32, 8, 23), (.fp64, 11, 52), (.fp16, 5, 10), (.bf16, 8, 7)] := ⟨w0_clear, by decide, by simp⟩

theorem w0_lanes : w0.Lanes any := ⟨by decide, stream_none (by rfl), by decide⟩

theorem witness_VectorElementwise : w0.Clear ∧ w0.Lanes any ∧ ETy.fp32.native = true := ⟨w0_clear, w0_lanes, rfl⟩

/-- Two of 100 elements to go: v8 an input that holds them, v9 an output with room. -/
def twoLeft (out : Bool) : Stream := ⟨.armed, out, .int32, 2, 1, BitVec.ofNat 256 (100 * 2 ^ 64 + 4 * 2 ^ 128), 98,
  if out then [] else [⟨98, 5, true, none⟩, ⟨99, 6, true, none⟩], false, false, [], [], none⟩

def flowing : State := w0.updThr (0, 0) fun t => (t.setStream 8 (some (twoLeft false))).setStream 9 (some (twoLeft true))

theorem flowing_flows : flowing.Flows any .int32 2 [(8, .int32)] 9 where
  heavy := by decide
  lane := by decide
  bound := by decide
  pos := by decide
  pops := fun p hp x hx => by
    rw [List.mem_singleton.mp hp, show flowing.me.stream 8 = some (twoLeft false) from by decide] at hx
    cases hx
    rw [List.mem_singleton.mp hp]
    decide
  push := fun x hx => by
    rw [show flowing.me.stream 9 = some (twoLeft true) from by decide] at hx
    cases hx
    decide

theorem witness_VectorElementwise_streams : flowing.Clear ∧ ETy.int32.native = true ∧ flowing.Flows any .int32 2 [(8, .int32)] 9 :=
  ⟨clear_of (by decide) (by rfl), rfl, flowing_flows⟩

/-- Element 0 is active where every lane is, and is not where p1 has lane 1 only. -/
theorem witness_VectorRearrangement : w0.Clear ∧ w0.Lanes any ∧ ETy.int8.native = true ∧
    (w0.me.lanes any).getLsbD 0 = true := ⟨w0_clear, w0_lanes, rfl, by decide⟩

theorem witness_VectorConvertCompareReduce : w0.Clear ∧ w0.Lanes any ∧ ETy.int8.native = true ∧ ETy.fp32.native = true ∧
    3 < Nat.max ETy.int8.bits ETy.fp32.bits / Nat.min ETy.int8.bits ETy.fp32.bits := ⟨w0_clear, w0_lanes, rfl, rfl, by decide⟩

theorem witness_MemoryReadsBackWrites : Mem.wf [(5, 1)] = true := by decide

theorem w0_port : w0.PortIdle := ⟨by decide, by decide, by decide, by decide, by decide, by decide, by decide⟩

/-- The page of w0 at 0x200. -/
def page0 : Entry :=
  match w0.trans w0.cur 0x200 with
  | .leaf e => e
  | _ => 0

theorem reach_of (s : State) (acc : AccK) (t : ETy) (n va : Nat) (h : va % n = 0)
    (ht : s.trans s.cur (va % 2 ^ 48) = .leaf page0)
    (hp : (permitted (s.partOf (dieOf s.cur.1) (s.core s.cur.1).cid).keys acc (!s.me.mode) page0 &&
      pageMeets page0 t (acc ≠ .load) == .raw && Entry.tier page0 == 0 && Entry.homeCore page0 (va % 2 ^ 48) == s.cur.1 &&
      Entry.loc page0 (va % 2 ^ 48) == va && decide (va % 2 ^ 43 + n ≤ 2 ^ 40)) = true) : s.reach acc t n va va := by
  simp only [Bool.and_eq_true, beq_iff_eq, decide_eq_true_eq] at hp
  obtain ⟨⟨⟨⟨⟨h1, h2⟩, h3⟩, h4⟩, h5⟩, h6⟩ := hp
  exact ⟨h, page0, ht, h1, h2, h3, h4, h5, h6⟩

theorem witness_ScalarLoadsAndStores : w0.Clear ∧ w0.me.guardOn any = true ∧ w0.PortIdle ∧ ETy.int32.isMem = true ∧
    w0.mem.wf = true ∧ w0.reach .load .int32 4 0x200 0x200 ∧ w0.reach .load .int32 8 0x200 0x200 ∧
    w0.reach .store .int32 4 0x200 0x200 ∧ w0.reach .store .int32 8 0x200 0x200 :=
  ⟨w0_clear, by decide, w0_port, by decide, by decide, reach_of _ _ _ _ _ rfl (by decide) (by decide),
    reach_of _ _ _ _ _ rfl (by decide) (by decide), reach_of _ _ _ _ _ rfl (by decide) (by decide),
    reach_of _ _ _ _ _ rfl (by decide) (by decide)⟩

/-- Every element of a beat at its place, and VSTX of lane 0 alone. -/
theorem witness_VectorLoadsAndStores : w0.Clear ∧ w0.Lanes any ∧ w0.PortIdle ∧ ETy.fp32.native = true ∧ w0.mem.wf = true ∧
    (∀ e, e < 64 → w0.reach .load .fp32 4 (0x200 + 4 * e) (0x200 + 4 * e)) ∧
    (∀ e, e < 64 → w0.reach .store .fp32 4 (0x200 + 4 * e) (0x200 + 4 * e)) ∧
    ∀ e f : Nat, e < f → 0x200 + 4 * e + 4 ≤ 0x200 + 4 * f :=
  ⟨w0_clear, w0_lanes, w0_port, rfl, by decide,
    fun e h => reach_of _ _ _ _ _ (by omega) ((by decide : ∀ e : Fin 64, w0.trans w0.cur ((0x200 + 4 * e.val) % 2 ^ 48) = .leaf page0) ⟨e, h⟩)
      ((by decide : ∀ e : Fin 64, (permitted (w0.partOf (dieOf w0.cur.1) (w0.core w0.cur.1).cid).keys .load (!w0.me.mode) page0 &&
        pageMeets page0 .fp32 (AccK.load ≠ .load) == .raw && Entry.tier page0 == 0 &&
        Entry.homeCore page0 ((0x200 + 4 * e.val) % 2 ^ 48) == w0.cur.1 &&
        Entry.loc page0 ((0x200 + 4 * e.val) % 2 ^ 48) == 0x200 + 4 * e.val && decide ((0x200 + 4 * e.val) % 2 ^ 43 + 4 ≤ 2 ^ 40)) = true) ⟨e, h⟩),
    fun e h => reach_of _ _ _ _ _ (by omega) ((by decide : ∀ e : Fin 64, w0.trans w0.cur ((0x200 + 4 * e.val) % 2 ^ 48) = .leaf page0) ⟨e, h⟩)
      ((by decide : ∀ e : Fin 64, (permitted (w0.partOf (dieOf w0.cur.1) (w0.core w0.cur.1).cid).keys .store (!w0.me.mode) page0 &&
        pageMeets page0 .fp32 (AccK.store ≠ .load) == .raw && Entry.tier page0 == 0 &&
        Entry.homeCore page0 ((0x200 + 4 * e.val) % 2 ^ 48) == w0.cur.1 &&
        Entry.loc page0 ((0x200 + 4 * e.val) % 2 ^ 48) == 0x200 + 4 * e.val && decide ((0x200 + 4 * e.val) % 2 ^ 43 + 4 ≤ 2 ^ 40)) = true) ⟨e, h⟩),
    fun e f h => by omega⟩

/-- Indices of zero, in lane 0 only. -/
def lane0 : State := w0.updThr (0, 0) (·.setP 1 1)

theorem witness_VectorLoadsAndStores_indexed : lane0.Clear ∧ lane0.Lanes ⟨false, 1⟩ ∧ lane0.PortIdle ∧ lane0.mem.wf = true ∧
    lane0.active ⟨false, 1⟩ 32 64 = [0] ∧
    (lane0.me.rg 0 + (BitVec.ofNat 32 (velem 32 (lane0.me.rv 0) 0)).signExtend 64 * BitVec.ofNat 64 (2 ^ 3)).toNat = 0 ∧
    lane0.reach .load .fp32 4 0 0 ∧ lane0.reach .store .fp32 4 0 0 :=
  ⟨clear_of (by decide) (by rfl), ⟨by decide, stream_none (by rfl), by decide⟩,
    ⟨by decide, by decide, by decide, by decide, by decide, by decide, by decide⟩, by decide, by decide, by decide +kernel,
    reach_of _ _ _ _ _ rfl (by decide) (by decide), reach_of _ _ _ _ _ rfl (by decide) (by decide)⟩

/-- Targets that are multiples of 4, and that are not. -/
theorem witness_ControlTransfers : (regs [(5, 2)]).Clear ∧ (regs [(5, 2)]).me.guardOn any = true ∧
    ((regs [(5, 2)]).me.pc + (4 : BitVec 32).signExtend 48).toNat % 4 = 0 ∧
    ((regs [(5, 2)]).me.pc + (1 : BitVec 32).signExtend 48).toNat % 4 ≠ 0 ∧
    (((regs [(5, 2)]).me.rg 0).setWidth 48).toNat % 4 = 0 ∧ (((regs [(5, 2)]).me.rg 5).setWidth 48).toNat % 4 ≠ 0 :=
  ⟨clear_of (by decide) (by rfl), by decide⟩

/-- The thread of w0 in slot n of its core. -/
def inSlot (n : Nat) : State := { w0.setThr (0, n) w0.me with cur := (0, n) }

/-- Every slot of the core taken. -/
def full : State := (List.range 15).foldl (fun s n => s.setThr (0, n + 1) (Thread.born false 0 0 0 5)) w0

theorem witness_ThreadsStart : w0.Clear ∧ w0.me.guardOn any = true ∧ w0.tid = 0 ∧
    ((w0.me.rg 0).setWidth 48).toNat % 4 = 0 ∧ (w0.thr (0, 1)).st = .free ∧ (w0.thr (0, 1)).next ≤ w0.cyc (dieOf 0) ∧
    ((regs [(5, 1)]).me.rg 5).toNat % 4 ≠ 0 ∧ (regs [(5, 1)]).tid = 0 := ⟨w0_clear, by decide⟩

theorem witness_ThreadsStart_full : full.Clear ∧ full.tid = 0 ∧
    ∀ m, 1 ≤ m → m ≤ 15 → ¬((full.thr (0, m)).st = .free ∧ (full.thr (0, m)).next ≤ full.cyc (dieOf 0)) :=
  ⟨clear_of (by decide) (by rfl), by decide, fun m h1 h2 =>
    (by decide : ∀ m : Fin 16, 1 ≤ m.val → ¬((full.thr (0, m.val)).st = .free ∧ (full.thr (0, m.val)).next ≤ full.cyc (dieOf 0)))
      ⟨m, by omega⟩ h1⟩

theorem witness_ThreadsStart_other : (inSlot 15).Clear ∧ (inSlot 15).tid ≠ 0 := ⟨clear_of (by decide) (by rfl), by decide⟩

/-- Slot 3 has exited, the others run. -/
def oneExited : State := full.updThr (0, 3) (·.done 99)

theorem witness_ThreadsEnd_treap : oneExited.Clear ∧ oneExited.tid = 0 ∧ (oneExited.thr (0, 3)).st = .exited ∧
    (oneExited.thr (0, 15)).st = .ready ∧ (inSlot 15).tid ≠ 0 := ⟨clear_of (by decide) (by rfl), by decide⟩

/-- Slot 0 with no other thread, slot 2, and a guest. -/
theorem witness_ThreadsEnd : w0.Clear ∧ w0.me.node = none ∧
    (∀ m, ¬(1 ≤ m ∧ m ≤ 15 ∧ ((w0.thr (0, m)).st = .ready ∨ (w0.thr (0, m)).st = .waiting ∨ (w0.thr (0, m)).st = .exited ∨
      (w0.thr (0, m)).st = .away))) ∧
    (∀ x, some x ∈ w0.me.str.toList → x.st ≠ .faulted ∧ x.undrained = false) ∧
    (∀ m, some m ∈ w0.me.mon.toList → m.armed = false) ∧ w0.me.st ≠ .guest ∧ w0.cur.2 = 0 :=
  ⟨w0_clear, by decide, fun m h => (by decide : ∀ m : Fin 16, 1 ≤ m.val → ¬((w0.thr (0, m.val)).st = .ready ∨
    (w0.thr (0, m.val)).st = .waiting ∨ (w0.thr (0, m.val)).st = .exited ∨ (w0.thr (0, m.val)).st = .away)) ⟨m, by omega⟩ h.1 h.2.2,
    none_only (by decide), none_only (by decide), by decide, by decide⟩

theorem witness_ThreadsEnd_other : (inSlot 2).Clear ∧ (inSlot 2).me.node = none ∧ (inSlot 2).me.st ≠ .guest ∧ (inSlot 2).cur.2 ≠ 0 ∧
    (∀ p, ((inSlot 2).thr (0, 0)).pend = some p → ∀ r, p.kind ≠ .treap r (inSlot 2).cur.2) :=
  ⟨clear_of (by decide) (by rfl), by decide, by decide, by decide, fun p h => by
    rw [show ((inSlot 2).thr (0, 0)).pend = none from by decide] at h; cases h⟩

def aGuest : State := (inSlot 2).updThr (0, 2) fun t => { t with st := .guest, origin := (17, 4) }

theorem witness_ThreadsEnd_guest : aGuest.Clear ∧ aGuest.me.node = none ∧ aGuest.me.st = .guest ∧ aGuest.tid ≠ 0 :=
  ⟨clear_of (by decide) (by rfl), by decide⟩

theorem witness_ThreadsEnd_live : full.Clear ∧ full.me.node = none ∧ full.tid = 0 ∧ (full.thr (0, 15)).st = .ready :=
  ⟨clear_of (by decide) (by rfl), by decide⟩

theorem witness_ThreadStatus : w0.Clear ∧ w0.me.guardOn any = true ∧ (OpB.zx w0.me (.lit 16)).toNat > 15 ∧
    (OpB.zx w0.me (.lit 15)).toNat ≤ 15 ∧ w0.me.place < 2048 := ⟨w0_clear, by decide⟩

/-- Thread 0 of w0 waits, as number 5, for a thing of kind kind; its timeout ends at 8. -/
def waits (kind : PendK) : State := w0.updThr (0, 0) fun t => { t with st := .waiting, pend := some ⟨kind, 0, 4, 5, some 8⟩ }

/-- The hypotheses of `Waits` but those on the wait and on clauses. -/
def waitsB (s : State) (k : Key) : Bool :=
  decide (k.2 < 16) && !((s.thr k).intPending && (s.thr k).ie && !(s.thr k).mode) && (s.core k.1).dstep != some k.2

theorem waits_of {s : State} {k : Key} {kind : PendK} {t0 eu n : Nat} {due : Option Nat}
    (h : (s.thr k).pend = some ⟨kind, t0, eu, n, due⟩) (hc : (s.thr k).cl = Vector.replicate 8 none) (hb : waitsB s k = true) :
    s.Waits k kind t0 eu n due := by
  simp only [waitsB, Bool.and_eq_true, bne_iff_ne, decide_eq_true_eq, Bool.not_eq_true'] at hb
  exact ⟨hb.1.1, h, clause_none hc, hb.1.2, hb.2⟩

/-- A wait of each kind, at the moment of its timeout, with no interrupt. -/
theorem witness_WaitsEnd : w0.Clear ∧ w0.me.intPending = false ∧
    ∀ kind ∈ [PendK.halt 9, .twany 9 1, .twall 9 1, .bwait 0 9, .iflush], let s : State := { waits kind with now := 8, agenda := [] }
      s.Waits (0, 0) kind 0 4 5 (some 8) ∧ (s.thr (0, 0)).intPending = false ∧ (s.ctx 0 (s.core 0).cid).halts = 0 :=
  have h : ∀ kind ∈ [PendK.halt 9, .twany 9 1, .twall 9 1, .bwait 0 9, .iflush], let s : State := { waits kind with now := 8, agenda := [] }
      waitsB s (0, 0) = true ∧ (s.thr (0, 0)).intPending = false ∧ (s.ctx 0 (s.core 0).cid).halts = 0 := by decide
  ⟨w0_clear, by decide, fun kind m => ⟨waits_of rfl rfl (h kind m).1, (h kind m).2⟩⟩

/-- An interrupt that is pending and not enabled. -/
theorem witness_WaitsEnd_interrupt : let s := (waits (.halt 9)).updThr (0, 0) fun t => { t with tint := 1#64 <<< 63, tstat := 0 }
    s.Waits (0, 0) (.halt 9) 0 4 5 (some 8) ∧ (s.thr (0, 0)).intPending = true :=
  ⟨waits_of rfl rfl (by decide), by decide⟩

/-- A list with room, the empty one, and a full one. -/
theorem witness_WorkListIsLastInFirstOut : w0.Clear ∧ (w0.core 0).wl.length + (w0.core 0).wres < 64 ∧ (w0.core 0).wl = [] ∧
    (let s := w0.updCore 0 fun c => { c with wl := List.replicate 64 (1, 2) }
     s.Clear ∧ (s.core 0).wl.length + (s.core 0).wres ≥ 64 ∧ (s.core 0).wl = (1, 2) :: List.replicate 63 (1, 2)) :=
  ⟨w0_clear, by decide, by decide, clear_of (by decide) (by rfl), by decide, by decide⟩

/-- Spaces of tiles at the least and the greatest extent, and a first word too great. -/
theorem witness_TilesAreHandedOut : let s := regs [(5, 2 ^ 32 - 1), (6, 0x10001), (7, 2 ^ 32)]
    s.Clear ∧ (s.me.rg 5).toNat < 2 ^ 32 ∧ (OpB.zx s.me (.g 6)).toNat % 2 ^ 16 ≠ 0 ∧ (OpB.zx s.me (.g 6)).toNat / 2 ^ 16 ≠ 0 ∧
      (s.me.rg 7).toNat ≥ 2 ^ 32 := ⟨clear_of (by decide) (by rfl), by decide⟩

/-- 7 rows and 5 columns in tiles of 2 by 3: the last tile, and none; of two requests that of the lower core is the first. -/
theorem witness_TilesAreHandedOut_request : (∀ i ∈ [7, 8], let s := (waits (.tile 3 9)).updCluster 0 fun c => { c with
      tileq := 0x0003000200050007, tnext := i, tiles := [⟨0, 0, 0, 5⟩] }
    s.Waits (0, 0) (.tile 3 9) 0 4 5 (some 8) ∧ (s.cluster 0).tfree ≤ s.now ∧
      (s.cluster 0).tiles.filter s.tileLive = [⟨0, 0, 0, 5⟩]) ∧
    tileInsert ⟨3, 0, 2, 9⟩ [⟨2, 5, 0, 1⟩, ⟨3, 1, 4, 8⟩] = [⟨2, 5, 0, 1⟩, ⟨3, 0, 2, 9⟩, ⟨3, 1, 4, 8⟩] :=
  have h : ∀ i ∈ [7, 8], let s := (waits (.tile 3 9)).updCluster 0 fun c =>
        { c with tileq := 0x0003000200050007, tnext := i, tiles := [⟨0, 0, 0, 5⟩] }
      waitsB s (0, 0) = true ∧ (s.cluster 0).tfree ≤ s.now ∧ (s.cluster 0).tiles.filter s.tileLive = [⟨0, 0, 0, 5⟩] := by decide
  ⟨fun i m => ⟨waits_of rfl rfl (h i m).1, (h i m).2⟩, by decide⟩

/-- Two cores of a context, 20 entries on the first. -/
def two : State := (w0.updCore 1 fun c => { c with run := some 1 }).updCore 0 fun c => { c with wl := List.replicate 20 (1, 1) }

theorem witness_SkipperMovesTheOldestEntries : (two.core 0).run ≠ none ∧ (two.core 0).xfer = false ∧ two.skipNbrs 0 = [(1, 1)] ∧
    vget (two.core 0).nbr 1 0 + 8 ≤ (two.core 0).wl.length ∧ (3, 0) ∈ neighbours 1 ∧ (two.core 0).run = some 1 ∧
    (two.core 1).run = some 1 := by decide

/-- Neighbours in the east and in the south: of equals the east, else the less loaded. -/
theorem witness_SkipperMovesTheOldestEntries_choice : ∀ p ∈ [((5, 5), 1, 1), ((6, 5), 2, 16)],
    let s := (two.updCore 16 fun c => { c with run := some 1 }).updCore 0 fun c => { c with nbr := #v[0, p.1.1, p.1.2, 0] }
    s.skipNbrs 0 = [(1, 1), (2, 16)] ∧ (p.2.1, p.2.2) ∈ s.skipNbrs 0 ∧ (s.ctx 0 1).st = .running ∧
      (∀ q, q ∈ s.skipNbrs 0 → vget (s.core 0).nbr p.2.1 0 < vget (s.core 0).nbr q.1 0 ∨
        vget (s.core 0).nbr p.2.1 0 = vget (s.core 0).nbr q.1 0 ∧ p.2.1 ≤ q.1) ∧
      vget (s.core 0).nbr p.2.1 0 + 8 ≤ (s.core 0).wl.length := by decide

/-- The cycles in which the tick of a core falls due. -/
theorem witness_SkipperMovesTheOldestEntries_period : ∀ n ∈ [4095, 4096], let s : State := { two with now := n }
    (s.core 0).run ≠ none ∧ (s.cyc 0 % 4096 = 0 ↔ n = 4096) ∧ (s.die 0).off = false := by decide

/-- Nothing to offer: the list is empty. -/
theorem witness_SkipperMovesTheOldestEntries_quiet : (w0.core 0).run ≠ none ∧
    ∀ p, p ∈ w0.skipNbrs 0 → (w0.core 0).xfer = true ∨ (w0.core 0).wl.length < vget (w0.core 0).nbr p.1 0 + 8 := by decide

/-- A light thread whose page at address 0 is e. -/
def lightOn (e : Entry) : State :=
  (w0.updThr (0, 0) fun t => { t with light := true }).updCore 0 fun c => { c with tlb := [⟨1, 0, e⟩] }

/-- A page of tier 0 whose home is core c, and one of tier 2. -/
def leafAt (c : Nat) : Entry := BitVec.ofNat 128 (0xB1F + 64 * c * 2 ^ 64)
def leafPeer : Entry := BitVec.ofNat 128 (0x20B1F + 2 ^ 30 * 2 ^ 64)

/-- The home is the own core, another of the grid, and one outside it. -/
theorem witness_GoMovesALightThread : ∀ c ∈ [0, 1, 4], let s := lightOn (leafAt c)
    clearB s = true ∧ s.me.guardOn any = true ∧ s.me.light = true ∧ s.me.node = none ∧
      s.trans s.cur (0x200 % 2 ^ 48) = .leaf (leafAt c) ∧
      permitted (s.partOf (dieOf s.cur.1) (s.core s.cur.1).cid).keys .load (!s.me.mode) (leafAt c) = true ∧
      Entry.tier (leafAt c) < 2 ∧ Entry.homeCore (leafAt c) 0x200 = c ∧
      (clusterOf (Entry.homeCore (leafAt c) 0x200) ∈ (s.ctx 0 (s.core 0).cid).grid ↔ c ≠ 4) := by decide

theorem witness_GoMovesALightThread_clear (c : Nat) (h : clearB (lightOn (leafAt c)) = true) : (lightOn (leafAt c)).Clear ∧
    (∀ m, some m ∈ (lightOn (leafAt c)).me.mon.toList → m.armed = false) ∧
    ∀ r, r ∈ ((lightOn (leafAt c)).core 0).bar.toList → r.mask.getLsbD 0 = false :=
  ⟨clear_of h rfl, none_only rfl, by rw [show ((lightOn (leafAt c)).core 0).bar = (w0.core 0).bar from rfl]; decide⟩

/-- A heavy thread, a node, and a page of tier 2 that the partition's key opens. -/
theorem witness_GoMovesALightThread_refused : w0.me.light = false ∧ (asNode.me.light = true ∧ asNode.me.node ≠ none) ∧
    Entry.tier leafPeer = 2 := by decide

/-- A thread of slot 0 of core 0 travels to core 17, whose landing queue holds l. -/
def travels (l : List Nat) : State :=
  let t := { w0.me with light := true }
  let s := { w0 with migs := [(9, ⟨{ t with origin := (0, 0) }, 0, 0, 17, 1, false⟩)], now := 40 }
  (s.updThr (0, 0) fun t => { t with light := true, pend := some ⟨.landing 9, 0, 24, 5, none⟩ }).updCore 17 fun c => { c with landing := l }

theorem witness_MigrationsLand : (tget (travels []).migs 9).isSome = true ∧ ((travels []).core 0).run = some 1 ∧
    (∃ t0 eu n due, ((travels []).thr (0, 0)).pend = some ⟨.landing 9, t0, eu, n, due⟩) ∧
    ((travels []).core 0).dstep ≠ some 0 ∧ ((travels []).ctx 0 1).st ≠ .preempting ∧
    ((travels []).core 17).landing.length < 4 ∧ ((travels [1, 2, 3, 4]).core 17).landing.length = 4 :=
  ⟨rfl, rfl, ⟨_, _, _, _, rfl⟩, by decide⟩

/-- A guest of core 0, its origin slot 3 of core 5, on its way to core 17 and home. -/
theorem witness_MigrationsLand_guest : ∀ dst ∈ [17, 5], let t := { w0.me with light := true, origin := (5, 3) }
    let s := { w0 with migs := [(9, ⟨t, 0, 0, dst, 1, false⟩)], now := 40 }.updThr (0, 0) fun t =>
      { t with st := .guest, origin := (5, 3), light := true, pend := some ⟨.landing 9, 0, 24, 5, none⟩ }
    (s.core 0).run = some 1 ∧ (s.core 0).dstep ≠ some 0 ∧ (s.ctx 0 1).st ≠ .preempting ∧ (s.thr (0, 0)).origin = (5, 3) ∧
      (s.thr (0, 0)).st = .guest ∧ ((s.thr (0, 0)).intPending && (s.thr (0, 0)).ie && !(s.thr (0, 0)).mode) = false ∧
      (s.core dst).landing.length < 4 ∧ (s.thr (0, 0)).pend = some ⟨.landing 9, 0, 24, 5, none⟩ := by decide

theorem witness_MigrationsLand_claim : ((travels [9]).core 17).landing = [9] ∧ ((travels [9]).thr (17, 1)).st = .free ∧
    ((travels [9]).thr (17, 1)).next ≤ (travels [9]).cyc 0 := by decide

theorem witness_MigrationsLand_exit : let s := w0.updThr (0, 3) fun t => { t with st := .away }
    (s.core 0).run = some 1 ∧ (s.thr (0, 3)).st = .away ∧ (s.thr (0, 0)).pend = none := by decide

/-- With a handler, without one, and in system mode. -/
theorem witness_TrapEntry : (w0.Clear ∧ w0.me.mode = false ∧ w0.myCtx.tvec = 0 ∧ Cause.misaligned ≠ .integrity) ∧
    (let s := w0.updCore 0 fun c => c.updCtx c.cid fun x => { x with tvec := 0x1000 }
     s.Clear ∧ s.me.mode = false ∧ s.myCtx.tvec ≠ 0) ∧
    (let s := w0.updThr (0, 0) fun t => { t with tstat := 13, tepc := 0x40 }
     s.Clear ∧ s.me.mode = true) :=
  ⟨⟨w0_clear, by decide⟩, ⟨clear_of (by decide) (by rfl), by decide⟩, clear_of (by decide) (by rfl), by decide⟩

/-- A thread in system mode, which has an address to return to. -/
def inSystem : State := (regs [(5, 0x1000), (6, 1), (7, 2 ^ 48), (8, 0x100)]).updThr (0, 0) fun t => { t with tstat := 13, tepc := 0x40 }

theorem inSystem_clear : inSystem.Clear := clear_of (by decide) (by rfl)

theorem witness_TrapsAndReturn : w0.Clear ∧ w0.me.mode = false ∧ (w0.ctx 0 (w0.core 0).cid).debug = false ∧ inSystem.Clear ∧
    inSystem.me.mode = true ∧ inSystem.me.tepc.toNat % 4 = 0 ∧
    (inSystem.me.intPending && inSystem.me.pie && !inSystem.me.pmode) = false ∧
    (let s := w0.updCtx 0 1 fun x => { x with debug := true }
     s.Clear ∧ (s.ctx 0 (s.core 0).cid).debug = true ∧ (s.core 0).halted = false) :=
  ⟨w0_clear, by decide, by decide, inSystem_clear, by decide, by decide, by decide, clear_of (by decide) (by rfl), by decide⟩

/-- Task mode, system mode, an address and a value that is none, and the least and greatest of `%tcause`. -/
theorem witness_SystemRegisters : w0.Clear ∧ w0.me.mode = false ∧ inSystem.Clear ∧ inSystem.me.mode = true ∧
    ((inSystem.me.rg 5).toNat < 2 ^ 48 ∧ (inSystem.me.rg 5).toNat % 4 = 0) ∧ (inSystem.me.rg 6).toNat % 4 ≠ 0 ∧
    ¬(inSystem.me.rg 7).toNat < 2 ^ 48 ∧ (inSystem.me.rg 6).toNat < 2 ^ 8 ∧ ¬(inSystem.me.rg 8).toNat < 2 ^ 8 :=
  ⟨w0_clear, by decide, inSystem_clear, by decide⟩

theorem witness_HcallAndReply : w0.Clear ∧ w0.me.guardOn any = true ∧
    (let s := waits .hcall
     s.Waits (0, 0) .hcall 0 4 5 (some 8) ∧ (tget (s.die 0).ctxs 1).isSome = true ∧ (s.core 0).run = some 1 ∧
       (s.thr (0, 0)).st ≠ .away ∧ (s.ctx 0 1).st = .running) ∧
    (let s := (waits .hcall).updCtx 0 1 fun x => { x with st := .preempting }
     s.Waits (0, 0) .hcall 0 4 5 (some 8) ∧ (s.ctx 0 1).st = .preempting) :=
  ⟨w0_clear, by decide, ⟨waits_of rfl rfl (by decide), by decide⟩, waits_of rfl rfl (by decide), by decide⟩

/-- The slot of core 0 is served; the word fetched is a `NOP`, which nothing has replaced, or which has replaced another. -/
theorem witness_StepRunsTheDecodedInstruction : w0.served 0 ∧ w0.issuing (0, 0) = true ∧ w0.fetches (0, 0) 1 ∧ w0.unwritten (0, 0) ∧
    (decodeWord false 1).toOption = some (.nop any) ∧
    (let s : State := { w0 with oldWords := [⟨3, 0, 2⟩] }
     s.served 0 ∧ s.fetches (0, 0) 1 ∧ s.older 0 0 = [2]) :=
  ⟨⟨by decide, by decide⟩, by decide, ⟨by decide, fun j => ⟨page0, by revert j; decide⟩⟩, fun _ _ _ => rfl, by decide,
    ⟨by decide, by decide⟩, ⟨by decide, fun j => ⟨page0, by revert j; decide⟩⟩, by decide⟩

/-- A due event that a die which is off holds up, and one that nothing does. -/
theorem witness_StepRunsTheDecodedInstruction_held : ∀ off ∈ [false, true],
    let s : State := { w0.updDie 0 (fun d => { d with off := off }) with slotPos := 2048, agenda := [(0, .idleRead 0 0)] }
    s.takeEarly = none ∧ s.nextCore = none ∧ s.takeDue = some (.idleRead 0 0, []) ∧ s.waitOver (.idleRead 0 0) = none ∧
      s.heldUp (.idleRead 0 0) = if off then some 0 else none := by decide

/-- A slot whose thread is not ready, a word that is no instruction, a due event with no slot left, and none due. -/
theorem witness_StepRunsTheDecodedInstruction_others :
    (let s : State := { w0.updThr (0, 0) fun t => { t with st := .waiting } with cur := (0, 0) }
     s.takeEarly = none ∧ s.nextCore = some 0 ∧ s.issuing (0, 0) = false) ∧
    (decodeWord false 0).toOption = none ∧
    (let s : State := { w0 with slotPos := 2048 }
     s.takeEarly = none ∧ s.nextCore = none ∧ ∀ e, e ∈ s.agenda → s.now < e.1) := by decide

/-- The least and the greatest of a literal. -/
theorem witness_DecodeOfEncode : (Instr.add any false false 31 31 (.lit 0xFFFFFFFF)).wellFormed = true ∧
    (encode (.add any false false 31 31 (.lit 0xFFFFFFFF))).isSome = true ∧ (Instr.dget any 6 7).wellFormed = true ∧
    (encode (.dget any 6 7)).isSome = true := by decide

theorem witness_EncodeOfDecode : decodeWord false 1 = .ok (.nop any) := by rfl

/-- A scalar instruction and a lane-wise one whose guard is off, and a privileged one in task mode. -/
theorem witness_GuardedOff : w0.Clear ∧ w0.me.guardOn ⟨true, 0⟩ = false ∧ w0.me.lanes ⟨true, 0⟩ = 0 ∧
    ((Instr.add ⟨true, 0⟩ false false 1 2 (.g 3)).toFields.map fun f => laneWise f.op.toNat) = some false ∧
    ((Instr.vadd ⟨true, 0⟩ ⟨.fp32, .rne, false⟩ 1 2 (.v 3)).toFields.map fun f => laneWise f.op.toNat) = some true ∧
    privileged (.eret ⟨true, 0⟩) = true ∧ w0.me.mode = false ∧ inSystem.Clear ∧ inSystem.me.mode = true :=
  ⟨w0_clear, by decide, by decide, by decide, by decide, by decide, by decide, inSystem_clear, by decide⟩

theorem witness_EveryStepAnswersNext : State.reset.planned ∧ w0.planned := by
  unfold State.planned; decide

theorem witness_AgendaHoldsMachineSteps : w0.planned ∧ (nextOf (step w0)).now = 0 := by
  unfold State.planned; decide

theorem witness_MemoryStaysCanonical : w0.memOk = true ∧ (nextOf (step w0)).me.pc = 12 := by decide

/-- A state with buffers: 8 KiB of W, 16 KiB of A, 4 KiB of C, and bitmap words. -/
def withBufs (s : State) : State := s.updCore 0 fun c => c.updCtx c.cid fun x => { x with
  regions := [⟨0, 4, false, true, false, [0, 1, 2, 3]⟩, ⟨1, 16, false, true, false, []⟩, ⟨2, 4, false, true, false, []⟩] }

/-- The last element of the A buffer, the first place past it, and one that is misaligned. -/
theorem witness_BufferAccesses : let s := withBufs (regs [(5, 0x3FFC), (6, 0x3FFE)])
    s.Clear ∧ s.me.guardOn any = true ∧ s.Lanes any ∧ ETy.int32.isMem = true ∧ s.myCtx.size 2 = 0x4000 ∧
      ((s.me.rg 5 + OpB.sx s.me (.lit 0)).toNat % 4 = 0 ∧ (s.me.rg 5 + OpB.sx s.me (.lit 0)).toNat + 4 ≤ s.myCtx.size 2) ∧
      ((s.me.rg 5 + OpB.sx s.me (.lit 4)).toNat % 4 = 0 ∧ (s.me.rg 5 + OpB.sx s.me (.lit 4)).toNat + 4 > s.myCtx.size 2) ∧
      (s.me.rg 6 + OpB.sx s.me (.lit 0)).toNat % 4 ≠ 0 ∧
      ((s.me.rg 0 + OpB.sx s.me (.lit 0)).toNat % 8 = 0 ∧ (s.me.rg 0 + OpB.sx s.me (.lit 0)).toNat + 8 ≤ s.myCtx.size 5) :=
  ⟨clear_of (by decide) (by rfl), by decide, ⟨by decide, stream_none (by rfl), by decide⟩, by decide⟩

/-- A pair that ends at the size and one past it; the 64 elements of a vector at offset 0, and lanes that all lie at 0; 64 bits of the
bitmap. -/
theorem witness_BufferAccesses_more : let s := withBufs (regs [(5, 0x3FF8)])
    s.Clear ∧ s.me.guardOn any = true ∧ s.Lanes any ∧ ETy.fp32.native = true ∧ s.active any 32 64 ≠ [] ∧
      ((s.me.rg 5 + OpB.sx s.me (.lit 0)).toNat % 8 = 0 ∧ (s.me.rg 5 + OpB.sx s.me (.lit 0)).toNat + 8 ≤ s.myCtx.size 2) ∧
      ((s.me.rg 5 + OpB.sx s.me (.lit 8)).toNat % 8 = 0 ∧ (s.me.rg 5 + OpB.sx s.me (.lit 8)).toNat + 8 > s.myCtx.size 2) ∧
      (∀ e, e ∈ s.active any 32 64 → ((s.me.rg 0 + OpB.sx s.me (.lit 0)).toNat + e * 4) % 2 ^ 64 % 4 = 0 ∧
        ((s.me.rg 0 + OpB.sx s.me (.lit 0)).toNat + e * 4) % 2 ^ 64 + 4 ≤ s.myCtx.size 2) ∧
      (∀ i, i ∈ s.active any 32 64 →
        (s.me.rg 0 + (BitVec.ofNat 32 (velem 32 (s.me.rv 4) i)).signExtend 64 * BitVec.ofNat 64 (2 ^ 3)).toNat = 0) ∧
      (s.me.rg 0 + OpB.sx s.me (.lit 0)).toNat + 8 ≤ s.myCtx.size 5 :=
  ⟨clear_of (by decide) (by rfl), by decide, ⟨by decide, stream_none (by rfl), by decide⟩, by decide +kernel⟩

/-- A count of 0, copies between buffers, to memory and from it, and a source past the grant. -/
theorem witness_VcopybMovesBytes : let s := withBufs (regs [(5, 4), (6, 8), (7, 8), (8, 0x4000)])
    s.Clear ∧ s.me.guardOn any = true ∧ s.PortIdle ∧ s.me.light = false ∧ s.mem.wf = true ∧ s.me.rg 9 = 0 ∧ s.me.rg 7 ≠ 0 ∧
      ((s.me.rg 6).toNat + 8 ≤ s.myCtx.size 1 ∧ (s.me.rg 5).toNat + 8 ≤ s.myCtx.size 2) ∧
      (s.me.rg 6).toNat % 64 + 8 ≤ 64 ∧ (s.trans s.cur (8 % 2 ^ 48) = .leaf page0 ∧ Entry.homeCore page0 8 = 0) ∧
      (s.me.rg 8).toNat ≥ s.myCtx.size 2 ∧ vcopyBad 6 6 7 ≠ none :=
  ⟨clear_of (by decide) (by rfl), by decide, ⟨by decide, by decide, by decide, by decide, by decide, by decide, by decide⟩, by decide⟩

/-- A descriptor at 0x200: base 0, 100 elements, stride 4. -/
def described : State := { withBufs (regs [(5, 0x200)]) with mem := Mem.writeBytes [] 0x208 [100, 0, 0, 0, 0, 0, 0, 0, 4] }

def aStream : Stream := ⟨.configured, false, .int32, 2, 1, BitVec.ofNat 256 (described.mem.read 0x200 32), 0, [], false, false, [], [], none⟩

theorem witness_Streams_scfg : described.Clear ∧ described.me.guardOn any = true ∧ described.me.light = false ∧ described.PortIdle ∧
    described.me.stream 8 = none ∧ described.me.boundStreams < 4 ∧ 0x200 % 32 = 0 ∧
    (∀ i, i < 4 → described.reach .load .int64 8 ((0x200 + 8 * i) % 2 ^ 64) ((0x200 + 8 * i) % 2 ^ 64)) ∧
    aStream.desc.extractLsb' 48 16 = 0 ∧ (∀ i ∈ (List.range 4).filter (1 ≤ ·), aStream.count i = 0 ∧ aStream.stride i = 0) ∧
    aStream.base % 4 = 0 ∧ aStream.stride 0 % 4 = 0 :=
  have h : ∀ i : Fin 4, (0x200 + 8 * i.val) % 2 ^ 64 % 8 = 0 ∧
      described.trans described.cur ((0x200 + 8 * i.val) % 2 ^ 64 % 2 ^ 48) = .leaf page0 ∧
      (permitted (described.partOf (dieOf described.cur.1) (described.core described.cur.1).cid).keys .load (!described.me.mode) page0 &&
        pageMeets page0 .int64 (AccK.load ≠ .load) == .raw && Entry.tier page0 == 0 &&
        Entry.homeCore page0 ((0x200 + 8 * i.val) % 2 ^ 64 % 2 ^ 48) == described.cur.1 &&
        Entry.loc page0 ((0x200 + 8 * i.val) % 2 ^ 64 % 2 ^ 48) == (0x200 + 8 * i.val) % 2 ^ 64 &&
        decide ((0x200 + 8 * i.val) % 2 ^ 64 % 2 ^ 43 + 8 ≤ 2 ^ 40)) = true := by decide
  ⟨clear_of (by decide) (by rfl), by decide, by decide, ⟨by decide, by decide, by decide, by decide, by decide, by decide, by decide⟩, by decide,
    by decide, rfl, fun i hi => reach_of _ _ _ _ _ (h ⟨i, hi⟩).1 (h ⟨i, hi⟩).2.1 (h ⟨i, hi⟩).2.2, by decide, by decide, by decide, by decide⟩

/-- Streams that `SSTART` and `SSTOP` act on at once, and one with elements to drain. -/
theorem witness_Streams_bound : ∀ p ∈ [(aStream, false), ({ aStream with st := .armed, out := true }, false),
      ({ aStream with st := .armed, out := true, held := [⟨3, 7, true, none⟩] }, true)],
    let s := described.updThr (0, 0) (·.setStream 8 (some p.1))
    clearB s = true ∧ s.me.stream (vhi 0) = some p.1 ∧ p.1.st ≠ .faulted ∧ p.1.undrained = p.2 := by decide

/-- Two streams bound to v8 and v9. -/
def streamed (a b : Stream) : State := w0.updThr (0, 0) fun t => (t.setStream 8 (some a)).setStream 9 (some b)

/-- Inputs of two and of one element, one of the wrong type, one at its end, one whose second element has not arrived, one whose
second has failed, and one whose first has failed and that is FAULTED. -/
theorem witness_Streams_operands : (streamed (twoLeft false) (twoLeft false)).Clear ∧
    (let s := streamed (twoLeft false) { twoLeft false with pos := 99, held := [⟨99, 6, true, none⟩] }
     s.me.light = false ∧ s.me.lanes any ≠ 0 ∧ s.me.stream (vhi 0) = some (twoLeft false) ∧ s.me.stream 1 = none ∧
       s.me.stream (vhi 1) = some { twoLeft false with pos := 99, held := [⟨99, 6, true, none⟩] } ∧
       (twoLeft false).total - (twoLeft false).pos = 2) ∧
    (ETy.int32 ≠ .fp32 ∧ ({ twoLeft false with pos := 100 } : Stream).total = 100) ∧
    (({ twoLeft false with held := [⟨98, 5, true, none⟩] } : Stream).held.length < 2) ∧
    (let x := { twoLeft false with held := [⟨98, 5, true, none⟩, ⟨99, 0, true, some (0x13, 8)⟩] }
     x.held = [⟨98, 5, true, none⟩] ++ ⟨99, 0, true, some (0x13, 8)⟩ :: [] ∧ [SEl.mk 98 5 true none].length < 2 ∧ x.told = false) ∧
    (let x := { twoLeft false with st := .faulted, held := [⟨98, 0, true, some (0x13, 8)⟩] }
     x.st = .faulted ∧ x.held = ⟨98, 0, true, some (0x13, 8)⟩ :: [] ∧ x.told = false) :=
  ⟨clear_of (by decide) (by rfl), by decide⟩

/-- A stream of global memory: its first beat of 64 elements lies in the page of address 0. -/
theorem witness_Streams_global : let x : Stream := { aStream with st := .armed, space := 0 }
    let s := described.updThr (0, 0) (·.setStream 8 (some x))
    (s.thr (0, 0)).stream (vhi 0) = some x ∧ (s.die 0).off = false ∧ s.badLines = [] ∧ x.out = false ∧ x.held = [] ∧
      x.total - x.pos = 100 ∧
      (∀ j, j < 64 → s.transEng 0 (s.core 0).cid (x.addr (0 + j)).toNat = .leaf page0 ∧ Entry.loc page0 (x.addr (0 + j)).toNat = 4 * j) ∧
      permitted (s.partOf 0 (s.core 0).cid).keys .load (!(s.thr (0, 0)).mode) page0 = true ∧
      permitted (s.partOf 0 (s.core 0).cid).keys .store (!(s.thr (0, 0)).mode) page0 = true ∧ pageMeets page0 x.ety false = .raw ∧
      pageMeets page0 x.ety true = .raw ∧ Entry.tier page0 ≤ 1 := by decide

/-- An element that lies past the buffer, of an input and of an output. -/
theorem witness_Streams_outside : let x : Stream := { aStream with
      st := .armed, desc := BitVec.ofNat 256 (100 * 2 ^ 64 + 2 ^ 16 * 2 ^ 128) }
    (0 ≤ x.addr 0 ∧ x.addr 0 + 4 ≤ described.myCtx.size 2) ∧ ¬(0 ≤ x.addr 1 ∧ x.addr 1 + 4 ≤ described.myCtx.size 2) := by decide

/-- An input stream armed with nothing read, and an output stream with one element to write. -/
theorem witness_Streams_unit : (let s := described.updThr (0, 0) (·.setStream 8 (some { aStream with st := .armed }))
      s.Clear ∧ (s.thr (0, 0)).stream (vhi 0) = some { aStream with st := .armed } ∧ aStream.pos + aStream.held.length < aStream.total ∧
        ∀ j, j < 64 → 0 ≤ aStream.addr j ∧ aStream.addr j + 4 ≤ s.myCtx.size 2) ∧
    (let x := { aStream with st := .armed, out := true, held := [⟨3, 0xAABBCCDD, true, none⟩] }
     let s := described.updThr (0, 0) (·.setStream 8 (some x))
     (s.thr (0, 0)).stream (vhi 0) = some x ∧ 0 ≤ x.addr 3 ∧ x.addr 3 + 4 ≤ s.myCtx.size 2) :=
  ⟨⟨clear_of (by decide) (by rfl), by decide, by decide, by decide⟩, by decide⟩

/-- A FILL card of tag 5, and a card of an unassigned type. -/
def fillCard : Nat := 4 + 5 * 2 ^ 8 + 8 * 2 ^ 192 + 1 * 2 ^ 224 + (2 * 2 ^ 48 + 64) * 2 ^ 128

def withCards : State := (regs [(6, 8), (7, 0x18), (8, 0x10)]).updThr (0, 0) fun t =>
  (t.setV 3 (BitVec.ofNat 2048 fillCard)).setV 4 (BitVec.ofNat 2048 0x77)

theorem witness_CardsQueuesAndTags : withCards.Clear ∧ withCards.Lanes any ∧ withCards.early = false ∧
    withCards.me.drained = true ∧ withCards.me.postD = [] ∧ withCards.me.postH = [] ∧ (withCards.queue 0 0).cards.length < 32 ∧
    checkCard (BitVec.ofNat 512 fillCard) 0 = none ∧ Card.rnd (BitVec.ofNat 512 fillCard) ≠ 7 ∧
    (checkCard (BitVec.ofNat 512 0x77) 0).isSome = true ∧ (withCards.core 0).tagsMask = 0 ∧ withCards.me.rg 7 ≠ 0 ∧
    withCards.me.intPending = false :=
  ⟨clear_of (by decide) (by rfl), ⟨by decide, stream_none (by rfl), by decide⟩, by decide +kernel⟩

/-- A queue with a card from before this cycle and one of this cycle, which `QSTAT` does not count. -/
theorem witness_CardsQueuesAndTags_count : let s : State := { withCards.setQueue 0 0 ⟨[⟨0, 0, 1, 0, false, 3⟩, ⟨1, 0, 1, 0, false, 9⟩], 2, 0⟩ with
      now := 9 }
    (s.queue 0 0).cards.length = 2 ∧
      (1 : BitVec 6) = (s.queue 0 0).prod - BitVec.ofNat 6 ((s.queue 0 0).cards.filter fun q => q.at' = s.now).length ∧
      (OpB.zx s.me (.lit 0)).toNat < 4 ∧ (OpB.zx s.me (.lit 4)).toNat ≥ 4 := by decide

/-- Tags 3 and 4 done or not, and a queue of 32 cards. -/
theorem witness_CardsQueuesAndTags_more : (let s := withCards.updCore 0 fun c => c.setTag 3 ⟨0, true, false, 9⟩
      s.Clear ∧ ((s.core 0).tagsMask &&& s.me.rg 7).getLsbD 3 = true ∧ (s.core 0).tagsMask &&& s.me.rg 7 ≠ s.me.rg 7 ∧
        (s.core 0).tagsMask &&& s.me.rg 8 = 0) ∧
    (let s := withCards.updCore 0 fun c => { c with cq := ⟨List.replicate 32 ⟨0, 0, 0, 0, false, 0⟩, 32, 0⟩ }
     s.Clear ∧ (s.queue 0 0).cards.length ≥ 32) ∧
    (let s := withCards.updThr (0, 0) fun t => { t with postD := [4] }
     s.Clear ∧ s.me.postD ≠ []) :=
  ⟨⟨clear_of (by decide) (by rfl), by decide⟩, ⟨clear_of (by decide) (by rfl), by decide⟩, clear_of (by decide) (by rfl), by decide⟩

/-- The Ellipsis queue holds a card that the window has not. -/
theorem witness_CardsQueuesAndTags_window :
    let x : QCard := ⟨7, 0, 1, BitVec.ofNat 512 (0x23 + 32 * 2 ^ 64), false, 0⟩
    let s := w0.updCluster 0 fun c => { c with eq := ⟨[x], 1, 0⟩ }
    (∀ n, n < 16 → (s.core (coreIn 0 n)).cq.cards = [] ∧ (s.core (coreIn 0 n)).mq.cards = []) ∧ (s.cluster 0).eq.cards = [x] ∧
      (s.cluster 0).win = [] := by decide +kernel

/-- The word that an atomic finds: 4, 8 and 16 bytes at 0x200. -/
theorem witness_Atomics : w0.Clear ∧ w0.me.guardOn any = true ∧ w0.PortIdle ∧ w0.mem.wf = true ∧
    w0.reach .atomic .int32 4 0x200 0x200 ∧ w0.reach .atomic .fp64 8 0x200 0x200 ∧ w0.reach .atomic .int64 16 0x200 0x200 ∧
    ETy.int32.isAI = true ∧ ETy.fp64.isF3264 = true ∧ redOk .min true .int32 = true ∧ 2 % 4 ≠ 0 ∧
    w0.mem.read 0x200 4 = (w0.me.rg 0).toNat % 2 ^ 32 ∧ w0.mem.read 0 4 ≠ (w0.me.rg 0).toNat % 2 ^ 32 :=
  ⟨w0_clear, by decide, w0_port, by decide, reach_of _ _ _ _ _ rfl (by decide) (by decide),
    reach_of _ _ _ _ _ rfl (by decide) (by decide), reach_of _ _ _ _ _ rfl (by decide) (by decide), by decide⟩

/-- A request of thread 3 of core 17 at core 0, and the thread. -/
def aReq (op : MemOp) : Req := ⟨17, 3, 5, 1, 0, 0, op, [⟨0, 0x200, 0x200, 4, 0x55⟩], [], none, 0, false, false, false⟩

def asked (r : Req) (f : Thread → Thread) : State :=
  { ((w0.updCore 0 fun c => { c with homeQ := [(69, 77)] }).updCore 17 fun c => { c with run := some 1 }).updThr (17, 3) f with
    reqs := [(77, r)], now := 9 }

theorem witness_HomesServeRequests : let s := asked (aReq .load) id
    tget s.reqs 77 = some (aReq .load) ∧ (aReq .load).done = false ∧ (aReq .load).ripe = false ∧ s.badLines = [] ∧ (s.core 0).homeQ = [(8 * 8 + 5, 77)] ∧ 8 ≤ s.now ∧
      s.homeUp 0 = true ∧ (s.core 0).portFree ≤ s.now ∧ (s.thr (17, 3)).rlx = [] ∧ (s.core 0).mons = [] ∧
      (∀ e ∈ (aReq .load).els, e.dram = false ∧ e.host = false ∧ e.n ≠ 0) := by decide

/-- The stream unit's read of an element and the copy engine's write of one, on their way to the port of core 0. -/
theorem witness_HomesServeRequests_turns : (let t : Turn := ⟨0, 1, 0, .load, [⟨0, 0x200, 0x200, 4, 0⟩], .stream 0 0 0⟩
      let x : Stream := { aStream with st := .armed, turns := [77] }
      let s := { (w0.updCore 0 fun c => { c with homeQ := [(1, 77)] }).updThr (0, 0) (·.setStream 8 (some x)) with turns := [(77, t)] }
      tget s.reqs 77 = none ∧ tget s.turns 77 = some t ∧ s.badLines = [] ∧ (∀ e ∈ t.els, e.dram = false ∧ e.host = false ∧ e.n ≠ 0) ∧
        (s.core 0).homeQ = [(0 * 8 + 1, 77)] ∧ s.homeUp 0 = true ∧ (s.core 0).portFree ≤ s.now ∧ (s.core 0).amoW = [] ∧
        (s.core 0).mons = [] ∧ (s.thr (0, 0)).stream (vhi 0) = some x) ∧
    (let t : Turn := ⟨0, 1, 0, .store, [⟨0, 0x200, 0x200, 4, 9⟩], .copy 0⟩
     let j : CJob := { card := ⟨7, 0, 1, 0, false, 0⟩, chunk := 0, fault := none, snap := [], part := 0, turns := [77] }
     let s := { (w0.updCore 0 fun c => { c with homeQ := [(2, 77)], copy := { c.copy with job := some j } }) with turns := [(77, t)] }
     tget s.turns 77 = some t ∧ (s.core 0).homeQ = [(0 * 8 + 2, 77)] ∧ (s.core 0).copy.job = some j) := by decide +kernel

/-- A request that follows an atomic on its bytes, and one whose home's port is taken; an accepted posted store. -/
theorem witness_HomesServeRequests_more : (let s := (asked (aReq .load) id).updCore 0 fun c => { c with amoW := [(0x200, 4, 14)] }
      (s.core 0).amoW = [(0x200, 4, 14)] ∧ 0x200 < 0x200 + 4) ∧
    (let s := (asked (aReq .load) id).updCore 0 fun c => { c with portFree := 12 }
     (s.core 0).portFree > s.now) ∧
    (let r := { aReq .store with tier := 2, accepted := true }
     let s := asked r id
     s.reqs = [(77, r)] ∧ (s.core r.home).mons = [] ∧ (s.thr (17, 3)).pend = none) := by decide

theorem witness_HomesServeRequests_answers :
    (let s := asked { aReq .load with vals := [(0, 0xFFFFFFF0)] } fun t =>
      { t with st := .waiting, pend := some ⟨.mem (.ld true .int32 [9] []) ⟨1, [], none, 0⟩, 3, 24, 5, none⟩ }
     s.Waits (17, 3) (.mem (.ld true .int32 [9] []) ⟨1, [], none, 0⟩) 3 24 5 none ∧ (s.core 17).cid = 1) ∧
    (let s := asked { aReq .store with tier := 2 } fun t =>
      { t with st := .waiting, pend := some ⟨.mem .store ⟨1, [], none, 0⟩, 3, 24, 5, none⟩ }
     s.Waits (17, 3) (.mem .store ⟨1, [], none, 0⟩) 3 24 5 none) ∧
    (let s := asked (aReq (.red .add .int32 1)) fun t => { t with rlx := [⟨5, .red, ⟨1, [], none, 0⟩⟩] }
     (s.thr (17, 3)).rlx = [⟨5, .red, ⟨1, [], none, 0⟩⟩] ∧ (s.thr (17, 3)).pend = none ∧ (aReq (.red .add .int32 1)).op.isBuf = false) ∧
    (let s := asked { aReq .load with vals := [(0, 4)] } fun t => { t with rlx := [⟨5, .ld true .int32 [9] [], ⟨1, [], none, 0⟩⟩] }
     (s.thr (17, 3)).rlx = [⟨5, .ld true .int32 [9] [], ⟨1, [], none, 0⟩⟩] ∧ (s.thr (17, 3)).pend = none) :=
  ⟨⟨waits_of rfl rfl (by decide), by decide⟩, waits_of rfl rfl (by decide), by decide, by decide⟩

/-- Thread 3 of core 17 waits for the walk of address 0x50000; tables at 0, 0x10000 and 0x20000 give it a page. -/
def walking : State :=
  { ((asked (aReq .load) fun t => { t with pend := some ⟨.walk, 3, 24, 5, none⟩ }).updDie 0 fun d =>
      { d with walks := [⟨9, 1, 0x50000, 17, 3⟩] }) with
    mem := [(0, 1), (8, 1), (0x10000, 1), (0x10008, 2), (0x20050, 0x1F), (0x20051, 0x0B), (0x20058, 8)] }

/-- A relaxed load and a relaxed store of the A buffer, of one element at 0x200, ripe. -/
theorem witness_HomesServeRequests_buffer : ∀ p ∈ [(MemOp.bufLoad 2, MemK.ld true .int32 [9] []), (.bufStore 2 true, .store)],
    let r : Req := { aReq p.1 with ripe := true }
    let s := asked r fun t => { t with rlx := [⟨5, p.2, ⟨1, [], none, 0⟩⟩] }
    tget s.reqs 77 = some r ∧ (s.thr (17, 3)).rlx = [⟨r.serial, p.2, ⟨1, [], none, 0⟩⟩] ∧ (s.thr (17, 3)).pend = none ∧ r.tier = 0 ∧
      r.vals = [] ∧ r.fault = none ∧ (r.els.map (·.idx)) = [0] := by decide

theorem witness_HomesServeRequests_walk : (walking.die 0).walks = [⟨9, 1, 0x50000, 17, 3⟩] ∧ (walking.core 17).run = some 1 ∧
    (∃ p, (walking.thr (17, 3)).pend = some p ∧ p.kind = .walk) ∧
    walking.walkMem 0 1 0x50000 = .leaf (BitVec.ofNat 128 (0xB1F + 8 * 2 ^ 64)) :=
  ⟨by decide, by decide, ⟨_, rfl, rfl⟩, by decide⟩

theorem ready_of {s : State} (h : clearB s = true) : s.Ready := by
  simp only [clearB, Bool.and_eq_true, bne_iff_ne, List.isEmpty_iff, Option.isNone_iff_eq_none, Bool.not_eq_true'] at h
  obtain ⟨⟨⟨⟨⟨⟨⟨h1, h2⟩, h3⟩, h4⟩, h5⟩, _⟩, h7⟩, h8⟩ := h
  exact ⟨h1, h2, h3, h4, h5, h7, h8⟩

/-- g16 := g5 + g6. -/
def sum56 : Clause := ⟨16, 5, .g 6, 0, 0, .add, .pass, false, false⟩

/-- The clause c alone, in slot i, with a handler for traps. -/
def bound (i : Nat) (c : Clause) : State :=
  ((regs [(5, 10), (6, 20), (7, 3)]).updCore 0 fun c => c.updCtx c.cid fun x => { x with tvec := 0x1000 }).updThr (0, 0)
    (·.setClause i (some c))

theorem bound_alone (j : Nat) (h : j ≠ 7) : (bound 7 sum56).me.clause j = none := by
  rcases Nat.lt_or_ge j 8 with hj | hj
  · exact (by decide : ∀ j : Fin 8, j.val ≠ 7 → (bound 7 sum56).me.clause j.val = none) ⟨j, hj⟩ h
  · simp only [Thread.clause, vget, Array.getD, Vector.size_toArray]
    rw [dif_neg (by omega)]

/-- A clause that evaluates, one that reads its own destination, and one that divides by 0. -/
theorem witness_ClauseInstructions : w0.Ready ∧ w0.me.guardOn any = true ∧ (∀ j, w0.me.clause j = none) ∧
    16 ∈ (⟨16, 16, .g 6, 0, 0, .add, .pass, false, false⟩ : Clause).srcs ∧ (16 ∉ sum56.srcs ∧ (16 : GReg) ≠ 0) ∧
    (w0.me.hold = false ∧ w0.me.mode = false) ∧ (∃ v f, sum56.value w0.me = .ok v f) ∧
    (∃ c f, (⟨16, 5, .g 6, 0, 0, .div, .pass, false, false⟩ : Clause).value w0.me = .fault c f) :=
  ⟨ready_of (by decide), by decide, clause_none (by rfl), by decide, by decide, by decide, ⟨_, _, rfl⟩, ⟨_, _, rfl⟩⟩

theorem witness_ClauseInstructions_taken : (bound 4 sum56).Ready ∧ (bound 4 sum56).me.clause 4 = some sum56 ∧
    (bound 4 sum56).myCtx.tvec ≠ 0 ∧ OpB.zx (bound 4 sum56).me (.lit 4) = BitVec.ofNat 64 4 ∧ 9 ∉ sum56.srcs ∧ 9 ≠ sum56.dst :=
  ⟨ready_of (by decide), by decide⟩

/-- The destination, a source, and another register; HOLD. -/
theorem witness_ClausesFollowTheirSources : (bound 7 sum56).Ready ∧ (bound 7 sum56).me.guardOn any = true ∧
    (bound 7 sum56).me.clause 7 = some sum56 ∧ (∀ j, j ≠ 7 → (bound 7 sum56).me.clause j = none) ∧ sum56.dst ∉ sum56.srcs ∧
    sum56.dst ≠ 0 ∧ 5 ∈ sum56.srcs ∧ 7 ∉ sum56.srcs ∧ ((bound 7 sum56).me.hold = false ∧ (bound 7 sum56).me.mode = false) ∧
    (∃ w f, sum56.value ((bound 7 sum56).me.setG 5 8) = .ok w f) :=
  ⟨ready_of (by decide), by decide, by decide, bound_alone, by decide, by decide, by decide, by decide, by decide, _, _, rfl⟩

/-- A monitor of line 0x1200. -/
def aMon : Mon := ⟨3, 0x1200, 0x1200, 0, true, false, false⟩

def watches (f : Vector (Option Mon) 4) : State := (regs [(5, 0x1234)]).updThr (0, 0) fun t => { t with mon := f }

theorem witness_Monitors : let s := watches (Vector.replicate 4 none)
    s.Clear ∧ s.me.guardOn any = true ∧ s.trans s.cur (0x1234 % 2 ^ 48) = .leaf page0 ∧ Entry.tier page0 < 2 ∧ Entry.tier leafPeer ≥ 2 ∧
      s.me.monOf 0x1200 = none ∧ s.me.monE 0 = none ∧ s.me.monMask (·.armed) = 0 ∧ s.me.monMask (·.fired) = 0 ∧
      s.me.monMask (·.lost) = 0 ∧ s.me.intPending = false := ⟨clear_of (by decide) (by rfl), by decide⟩

/-- An armed entry, a fired one, a lost one, and four of other lines. -/
theorem witness_Monitors_entries : (∀ m ∈ [aMon, { aMon with fired := true }, { aMon with armed := false, lost := true }],
      let s := watches ((Vector.replicate 4 none).set 3 (some m))
      clearB s = true ∧ s.me.monOf 0x1200 = some (3, m)) ∧
    (let s := watches (Vector.replicate 4 (some { aMon with line := 0 }))
     s.Clear ∧ s.me.monOf 0x1200 = none ∧ ∀ k, k < 4 → s.me.monE k ≠ none) :=
  ⟨by decide, clear_of (by decide) (by rfl), by decide⟩

theorem witness_Monitors_home : (let s := (waits (.arm 3)).updThr (0, 0) (·.setMon 3 (some { aMon with armed := false }))
      s.Waits (0, 0) (.arm 3) 0 4 5 (some 8) ∧ (s.thr (0, 0)).monE 3 = some { aMon with armed := false } ∧
        (s.core aMon.home).mons.length < 64) ∧
    (let s := ((waits (.arm 3)).updThr (0, 0) (·.setMon 3 (some aMon))).updCore 0 fun c => { c with mons := List.replicate 64 ⟨0, 0, 1, 2, 3⟩ }
     s.Waits (0, 0) (.arm 3) 0 4 5 (some 8) ∧ (s.core aMon.home).mons = ⟨0, 0, 1, 2, 3⟩ :: List.replicate 63 ⟨0, 0, 1, 2, 3⟩) ∧
    (let s := (waits (.disarm 1)).updThr (0, 0) (·.setMon 3 (some aMon))
     s.Waits (0, 0) (.disarm 1) 0 4 5 (some 8)) ∧
    (let s := (waits (.mwait 9)).updThr (0, 0) (·.setMon 3 (some aMon))
     s.Waits (0, 0) (.mwait 9) 0 4 5 (some 8) ∧ (∀ i, i ≠ 3 → (s.thr (0, 0)).monE i = none) ∧ ∀ e, e ∈ s.agenda → s.now < e.1) :=
  ⟨⟨waits_of rfl rfl (by decide), by decide⟩, ⟨waits_of rfl rfl (by decide), by decide⟩, waits_of rfl rfl (by decide),
    waits_of rfl rfl (by decide), fun i hi => by
      rcases Nat.lt_or_ge i 4 with h | h
      · exact (by decide : ∀ i : Fin 4, i.val ≠ 3 → Thread.monE (((waits (.mwait 9)).updThr (0, 0) (·.setMon 3 (some aMon))).thr (0, 0))
          i.val = none) ⟨i, h⟩ hi
      · simp only [Thread.monE, vget, Array.getD, Vector.size_toArray]
        rw [dif_neg (by omega)], by decide⟩

/-- A notice of an entry of its arm and of an earlier one, where no thread waits; an `MWAIT` at its timeout, and one interrupted. -/
theorem witness_Monitors_notices : (let s := watches ((Vector.replicate 4 none).set 3 (some aMon))
      (s.thr (0, 0)).monE 3 = some aMon ∧ (s.thr (0, 0)).pend = none ∧ aMon.arm ≠ 2) ∧
    (∀ int ∈ [0, 2 ^ 63], let s : State := { (waits (.mwait 9)).updThr (0, 0) fun t =>
        { t.setMon 3 (some aMon) with tint := BitVec.ofNat 64 int, tstat := 0 } with now := 8, agenda := [] }
      waitsB s (0, 0) = true ∧ (s.thr (0, 0)).monE 3 = some aMon ∧ ((s.thr (0, 0)).intPending = true ↔ int ≠ 0) ∧ 8 ≤ s.now ∧
        (s.ctx 0 (s.core 0).cid).halts = 0) := by decide +kernel

theorem witness_Monitors_write : let s := w0.updCore 0 fun c => { c with mons := [⟨3, 0x1200, 0, 0, 3⟩] }
    (s.core 0).mons = [⟨3, 0x1234 / 64 * 64, 0, 0, 3⟩] := by decide

/-- Id 7 of core 0. -/
def barred (b : Bar) (f : Thread → Thread) : State := ((regs [(5, 1), (6, 0x10000), (7, 4)]).updBar 0 7 fun _ => b).updThr (0, 0) f

/-- The masks 1 and 2^16, the scopes 1 and a reserved bit. -/
theorem witness_Barriers : let s := barred ⟨1, 0, false, 0, false, none⟩ id
    s.Clear ∧ s.me.guardOn any = true ∧ (s.me.rg 5).toNat < 2 ^ 16 ∧ (s.me.rg 5).getLsbD 0 = true ∧ s.me.arrived.getLsbD 7 = false ∧
      (s.me.rg 6).toNat ≥ 2 ^ 16 ∧ s.cur.2 = 0 ∧ (s.me.rg 7).extractLsb' 2 30 ≠ 0 ∧
      ((s.me.rg 5).extractLsb' 2 30 = 0 ∧ (s.me.rg 5).extractLsb' 48 16 = 0 ∧ (s.me.rg 5).extractLsb' 0 2 = 1#2) ∧
      (∀ j, j < 16 → ((s.core 0).thr j).arrived.getLsbD 7 = false) ∧ (s.bar 0 7).mask.getLsbD 0 = true ∧
      (∀ j, j < 16 → (s.bar 0 7).mask.getLsbD j = true → j ≠ s.cur.2 → ((s.core 0).thr j).arrived.getLsbD 7 = true) ∧
      (s.bar 0 7).sent = false ∧ (s.bar 0 3).mask.getLsbD 0 = false := ⟨clear_of (by decide) (by rfl), by decide⟩

/-- Another thread has yet to arrive; this one has; and another thread than 0 of the core. -/
theorem witness_Barriers_waits : (let s := barred ⟨3, 0, false, 0, false, none⟩ id
      s.Clear ∧ ¬∀ j, j < 16 → (s.bar 0 7).mask.getLsbD j = true → j ≠ s.cur.2 → ((s.core 0).thr j).arrived.getLsbD 7 = true) ∧
    (let s := barred ⟨3, 0, false, 0, false, none⟩ fun t => { t with arrived := 0x80 }
     s.Clear ∧ s.me.arrived.getLsbD 7 = true ∧ s.me.bdone.getLsbD 7 = false ∧ s.me.intPending = false) ∧
    ((inSlot 2).Clear ∧ (inSlot 2).me.mode = false ∧ (inSlot 2).cur.2 ≠ 0 ∧ (inSlot 2).me.st ≠ .guest) :=
  ⟨⟨clear_of (by decide) (by rfl), by decide⟩, ⟨clear_of (by decide) (by rfl), by decide⟩, clear_of (by decide) (by rfl), by decide⟩

/-- Scope 1: the other cores of the cluster have not arrived, or have no thread that takes part. -/
theorem witness_Barriers_cluster : (let s := barred ⟨1, 0, false, 1, true, none⟩ id
      (s.bar 0 7).scope = 1 ∧ (s.bar 0 7).mask ≠ 0 ∧ coreNo 0 < 16 ∧ 0 = coreIn (clusterOf 0) (coreNo 0) ∧
        (s.bar (coreIn 0 1) 7).scope ≠ 1) ∧
    (let s := (List.range 15).foldl (fun s j => s.updBar (coreIn 0 (j + 1)) 7 fun b => { b with scope := 1 }) (barred ⟨1, 0, false, 1, true, none⟩ id)
     ∀ j, j < 16 → (s.bar (coreIn 0 j) 7).scope = 1 ∧ ((s.bar (coreIn 0 j) 7).mask = 0 ∨ coreIn 0 j = 0)) := by decide

def unbarred : State := barred ⟨0, 0, false, 0, false, none⟩ id

/-- What `BCFG` refuses: a thread that has arrived, scope 2 in a grid of one cluster, scope 3 without the core itself; and a core that
arrives by a `BCFG` because it has no thread that takes part. -/
theorem witness_Barriers_config : (let s := barred ⟨1, 0, false, 0, false, none⟩ fun t => { t with arrived := 0x80 }
      s.Clear ∧ ((s.core 0).thr 0).arrived.getLsbD 7 = true) ∧
    (unbarred.ctx 0 (unbarred.core 0).cid).grid.length ≠ 16 ∧ (3 : Word).extractLsb' 0 2 = 3#2 ∧
    ((3 : Word).extractLsb' 32 16).getLsbD (coreNo 0) = false ∧
    ((unbarred.bar 0 7).mask = 0 ∧ (unbarred.me.rg 5).extractLsb' 0 2 = 1#2 ∧ (unbarred.bar 0 7).scope ≠ 1) :=
  ⟨⟨clear_of (by decide) (by rfl), by decide⟩, by decide⟩

/-- Every core of die 0 with id 7 as b. -/
def allBarred (b : Bar) : State := { w0 with cores := (List.range 256).map fun k => (k, { w0.core k with bar := Vector.replicate 8 b }) }

/-- Die scope: no core has a thread that takes part but those on the wires; one has and is not there. Core-set scope, of cores 0 and 1. -/
theorem witness_Barriers_die : (let s := allBarred ⟨0, 0, false, 2, false, none⟩
      ∀ j, j < 256 → (s.bar (0 * 256 + j) 7).scope = 2 ∧ (s.bar (0 * 256 + j) 7).mask = 0) ∧
    (let s := (allBarred ⟨0, 0, false, 2, false, none⟩).updBar 5 7 fun b => { b with mask := 1 }
     (s.bar 5 7).scope = 2 ∧ (s.bar 5 7).mask ≠ 0 ∧ (5 : Nat) ∉ vget (s.die 0).wires 7 []) ∧
    (let s := allBarred ⟨0, 3, false, 3, false, none⟩
     (∀ j, j < 16 → (3 : BitVec 16).getLsbD j = true → (s.bar (coreIn 0 j) 7).scope = 3 ∧ (s.bar (coreIn 0 j) 7).cset = 3) ∧
       (s.bar 0 7).closing = none ∧ (s.bar 0 7).scope ≠ 0) := by decide +kernel

theorem witness_Barriers_complete :
    let s := ((waits (.bwait 7 9)).updThr (0, 0) fun t => { t with arrived := 0x80 }).updBar 0 7 fun b => { b with closing := some 0 }
    (s.bar 0 7).closing = some 0 ∧ (∀ j, j < 16 → ((s.thr (0, j)).pend.map (·.kind)) ≠ some (.barr 7)) ∧
      (s.thr (0, 0)).arrived.getLsbD 7 = true ∧ s.Waits (0, 0) (.bwait 7 9) 0 4 5 (some 8) :=
  ⟨by decide, by decide, by decide, waits_of rfl rfl (by decide)⟩

/-! #### A large page, at 0x10000000, of memory at its own offsets -/

def bigLeaf : Entry := 0x1000B1F#128

theorem large_loc (off : Nat) (h : off < 0x32500) : Entry.loc bigLeaf ((0x10000000 + off) % 2 ^ 48) = 0 + off := by
  have h1 : Entry.tier bigLeaf = 0 := by decide
  have h2 : Entry.home bigLeaf = 0 := by decide
  have h3 : Entry.ppn bigLeaf = 0 := by decide
  have h4 : Entry.lrg bigLeaf = true := by decide
  simp only [Entry.loc, Entry.pa, h1, h2, h3, h4, locOf, sliceOf, paRegion, paDev, paDie, if_true]
  rw [if_neg (by decide), if_pos (by omega)]
  omega

theorem core_mem (s : State) (m : Mem) (k : Nat) : ({ s with mem := m } : State).core k = s.core k := rfl

theorem transEng_hit {s : State} {core cid va : Nat} {e : Entry} (h : tlbFind (s.core core).tlb cid va = some e) :
    s.transEng core cid va = .leaf e := by
  simp [State.transEng, State.tlbLook, h]

theorem transEng_big {s : State} {core cid off : Nat} (ht : (s.core core).tlb = [⟨cid, 0x1000, bigLeaf⟩]) (h : off < 0x32500) (m : Mem) :
    ({ s with mem := m } : State).transEng core cid (0x10000000 + off) = .leaf bigLeaf := by
  have h4 : Entry.lrg bigLeaf = true := by decide
  have hc : TlbEnt.covers ⟨cid, 0x1000, bigLeaf⟩ cid (0x10000000 + off) = true := by
    simp only [TlbEnt.covers, h4, if_true, beq_self_eq_true, Bool.true_and, beq_iff_eq]
    omega
  refine transEng_hit ?_
  rw [core_mem, ht, tlbFind, List.find?_cons, hc]
  rfl

theorem engAt_big {s : State} {q : QCard} {acc : AccK} {t : ETy} {off n : Nat} (w : Nat → Prop)
    (ht : (s.core q.core).tlb = [⟨q.cid, 0x1000, bigLeaf⟩])
    (hp : (permitted (s.partOf (dieOf q.core) q.cid).keys acc true bigLeaf && pageMeets bigLeaf t (acc = .store) == .raw) = true)
    (h : off + n ≤ 0x10000) (hn : 0 < n) : s.engAt q acc t 0 ((0x10000000 + off : Nat) : Int) n off w := by
  simp only [Bool.and_eq_true, beq_iff_eq] at hp
  have hva : (((0x10000000 + off : Nat) : Int) % 2 ^ 48).toNat = 0x10000000 + off := by omega
  have hl := large_loc off (by omega)
  rw [Nat.zero_add, Nat.mod_eq_of_lt (by omega)] at hl
  rw [State.engAt, if_pos rfl, hva]
  exact ⟨by omega, bigLeaf, fun m _ => transEng_big ht (by omega) m, hp.1, hp.2, by decide, hl⟩

/-- n bytes of a buffer that a card's engine reaches, the test of engAt. -/
def bufOk (s : State) (q : QCard) (acc : AccK) (sp : Nat) (a : Int) (n loc : Nat) : Bool :=
  sp != 0 && agentOk .copy sp (acc = .store) && decide (0 ≤ a) && decide (a + n ≤ ((s.core q.core).ctx q.cid).size sp) && decide (a = loc)

theorem engAt_buf {s : State} {q : QCard} {acc : AccK} {t : ETy} {sp n loc : Nat} {a : Int} (w : Nat → Prop)
    (h : bufOk s q acc sp a n loc = true) : s.engAt q acc t sp a n loc w := by
  simp only [bufOk, Bool.and_eq_true, bne_iff_ne, decide_eq_true_eq] at h
  rw [State.engAt, if_neg h.1.1.1.1]
  exact ⟨h.1.1.1.2, h.1.1.2, h.1.2, h.2⟩

/-- Core k with the large page. -/
def mapped (s : State) (k : Nat) : State := s.updCore k fun c => { c with tlb := [⟨1, 0x1000, bigLeaf⟩] }

theorem ctlRoom_big {s : State} {cl : Nat} (n : Nat) (hb : s.badLines = []) (hm : s.mem.wf = true)
    (ht : (s.core (coreIn cl 0)).tlb = [⟨1, 0x1000, bigLeaf⟩])
    (hp : (permitted (s.partOf (dieOf (coreIn cl 0)) 1).keys .store true bigLeaf &&
      pageMeets bigLeaf .int64 true == .raw) = true)
    (h : n ≤ 100) : s.ctlRoom cl 1 0x10000000 n (8 * ·) :=
  ⟨hb, hm, fun i hi => engAt_big _ ht hp (by omega) (by decide), fun i j hij _ => Or.inl (by show 8 * i + 8 ≤ 8 * j; omega)⟩

/-- The last signal of the graph, and the number past it; signal 0 in the node's EMASK, signal 1 not in it. -/
theorem witness_SignalInstructions : asNode.Clear ∧ asNode.me.guardOn any = true ∧ asNode.me.node = some (0, 3, 0) ∧
    tget (asNode.cluster 0).graphs 3 = some nodeGraph ∧ 0 < nodeGraph.nodes.length ∧
    (OpB.zx asNode.me (.lit 1)).toNat < nodeGraph.sigs.length ∧ (OpB.zx asNode.me (.lit 2)).toNat ≥ nodeGraph.sigs.length ∧
    (nodeGraph.node 0).emask.getLsbD 0 = true ∧ (nodeGraph.node 0).retr.getLsbD 0 = false ∧ (nodeGraph.node 0).emask.getLsbD 1 = false ∧
    asNode.me.mon = Vector.replicate 4 none :=
  ⟨asNode_clear, by decide, by decide, rfl, by decide, by decide, by decide, by decide, by decide, by decide, by decide⟩

/-- The block of an invocation at address 0: its words are zero but for what the fetched word left there. -/
theorem witness_SignalInstructions_invoke : w0.Clear ∧ w0.me.node = none ∧ w0.PortIdle ∧ 1 % 8 ≠ 0 ∧
    w0.trans w0.cur (0x200 % 2 ^ 48) = .leaf page0 ∧ pageMeets page0 .int64 false = .raw ∧
    (∀ i, i < 11 → w0.reach .load .int64 8 ((0x200 + 8 * i) % 2 ^ 64) ((0x200 + 8 * i) % 2 ^ 64)) ∧
    (w0.ctx 0 (w0.core 0).cid).grid[(BitVec.ofNat 704 (w0.mem.read 0x200 88)).toNat / 2 ^ 24 % 16]? = some 0 :=
  have h : ∀ i : Fin 11, (0x200 + 8 * i.val) % 2 ^ 64 % 8 = 0 ∧
      w0.trans w0.cur ((0x200 + 8 * i.val) % 2 ^ 64 % 2 ^ 48) = .leaf page0 ∧
      (permitted (w0.partOf (dieOf w0.cur.1) (w0.core w0.cur.1).cid).keys .load (!w0.me.mode) page0 &&
        pageMeets page0 .int64 (AccK.load ≠ .load) == .raw && Entry.tier page0 == 0 &&
        Entry.homeCore page0 ((0x200 + 8 * i.val) % 2 ^ 64 % 2 ^ 48) == w0.cur.1 &&
        Entry.loc page0 ((0x200 + 8 * i.val) % 2 ^ 64 % 2 ^ 48) == (0x200 + 8 * i.val) % 2 ^ 64 &&
        decide ((0x200 + 8 * i.val) % 2 ^ 64 % 2 ^ 43 + 8 ≤ 2 ^ 40)) = true := by decide
  ⟨w0_clear, by decide, w0_port, by decide, by decide, by decide,
    fun i hi => reach_of _ _ _ _ _ (h ⟨i, hi⟩).1 (h ⟨i, hi⟩).2.1 (h ⟨i, hi⟩).2.2, by decide +kernel⟩

/-- Graph 3 of cluster 0 is G; the controller handles ev. -/
def graphed (G : Graph) (ev : Option Instr) : State := w0.updCluster 0 fun c => { c with
  graphs := [(3, G)], run := some 1, inbox := ev.toList.map fun e => ⟨0, 0, 0, e⟩ }

/-- An invocation of graph 3 with tag 9. -/
def anInv (r : Nat) : InvMsg := ⟨0, 2, 5, 0, BitVec.ofNat 704 (3 + 9 * 2 ^ 8), r⟩

/-- A store with room, a full one, and a block of another graph. -/
theorem witness_InvocationsAndInstants_arrive : (let s : State := { graphed nodeGraph (some (.invocationMessage 4)) with invs := [(4, anInv 0)] }
      tget s.invs 4 = some (anInv 0) ∧ s.onTurn 0 (.invocationMessage 4) ∧ (anInv 0).blk.toNat % 8 = 3 ∧
        blkBad (some nodeGraph) (anInv 0).blk = false ∧ nodeGraph.store.length < 16) ∧
    (List.replicate 16 (⟨1, 0, 0, true⟩ : Inv)).length ≥ 16 ∧ blkBad none (anInv 0).blk = true :=
  ⟨⟨rfl, ⟨_, rfl, rfl, by decide, by decide⟩, by decide +kernel, by decide +kernel, by decide⟩, by decide, by decide +kernel⟩

theorem witness_InvocationsAndInstants_reply : ∀ r ∈ [1, 2, 3], let s : State := { waits (.ginvoke 3 5) with invs := [(4, anInv r)] }
    s.Waits (0, 0) (.ginvoke 3 5) 0 4 5 (some 8) ∧ (anInv r).serial = 5 ∧ (anInv r).reply = r :=
  have h : ∀ r ∈ [1, 2, 3], waitsB { waits (.ginvoke 3 5) with invs := [(4, anInv r)] } (0, 0) = true := by decide
  fun r m => ⟨waits_of rfl rfl (h r m), rfl, rfl⟩

/-- A graph at rest with an invocation, frozen or not. -/
def atRest (frozen : Bool) : Graph := { nodeGraph with busy := false, frozen := frozen, store := [⟨4, (anInv 0).blk, 0, true⟩] }

theorem witness_InvocationsAndInstants_begin : ∀ b ∈ [false, true], let s := graphed (atRest b) none
    (s.cluster 0).run = some 1 ∧ (s.ctx 0 1).st = .running ∧ (atRest b).busy = false ∧ (atRest b).fin.isNone = true ∧
      (atRest b).frozen = b ∧ ((atRest b).oldest.map (·.id)) = some 4 ∧ ((atRest b).oldest.map (·.blk.getLsbD 31)) = some false ∧
      blkF (anInv 0).blk 19 16 = 0 := by decide +kernel

/-- An invocation with RST and one input for signal 1, of a frozen graph. -/
def resetInv : BitVec 704 := BitVec.ofNat 704 (3 + 9 * 2 ^ 8 + 2 ^ 16 + 2 ^ 31 + 1 * 2 ^ 128 + 77 * 2 ^ 192)

theorem witness_InvocationsAndInstants_reset : let G : Graph := { atRest true with store := [⟨4, resetInv, 0, true⟩] }
    let s := graphed G none
    (s.cluster 0).run = some 1 ∧ (s.ctx 0 1).st = .running ∧ G.busy = false ∧ G.fin = none ∧ G.oldest = some ⟨4, resetInv, 0, true⟩ ∧
      blkBad (some G) resetInv = false ∧ G.nodes.length ≤ 64 ∧ G.sigs.length ≤ 64 ∧ resetInv.getLsbD 31 = true ∧
      blkF resetInv 19 16 = 1 ∧ blkF resetInv 135 128 = 1 := by decide +kernel

theorem witness_InvocationsAndInstants_start : let G : Graph := { nodeGraph with nodes := nodeGraph.nodes.modify 0 fun n => { n with st := 4 } }
    let s := graphed G none
    G.busy = true ∧ (G.node 0).st = 4 ∧ (s.cluster 0).pre = none ∧ (s.core (coreIn 0 (G.node 0).core)).landing = [] ∧
      (s.thr (0, 1)).st = .free ∧ (s.thr (0, 1)).next ≤ s.cyc 0 := by decide

/-- Every reaction has ended; the instant is over, and its tag completes; and nodes that only wait for each other. -/
theorem witness_InvocationsAndInstants_end : (let G : Graph := { nodeGraph with nodes := nodeGraph.nodes.map fun n => { n with st := 1 } }
      G.fin = none ∧ G.busy = true ∧ G.over = true ∧ G.out = 0) ∧
    (let G : Graph := { nodeGraph with fin := some (0, 0) }
     let s := graphed G none
     G.fin = some (0, 0) ∧ (s.cluster 0).run = some 1 ∧ (s.core G.invoker).run = some 1 ∧ G.tag < 64 ∧
       ∀ j, j < 16 → (s.thr (G.invoker, j)).pend = none) ∧
    (let G : Graph := { nodeGraph with nodes := nodeGraph.nodes.map fun n => { n with st := 3 } }
     G.stuck = true ∧ G.out = 0) := by decide

theorem tget_some_mem {α : Type} {t : Tab α} {n : Nat} {x : α} (h : tget t n = some x) : (n, x) ∈ t := by
  induction t with
  | nil => cases h
  | cons p t ih =>
    obtain ⟨k, a⟩ := p
    simp only [tget] at h
    split at h
    · next e => cases h; subst e; exact List.mem_cons_self
    · exact List.mem_cons_of_mem _ (ih h)

theorem on_of {s : State} (h : (s.dies.all fun p => !p.2.off) = true) (d : Nat) : (s.die d).off = false := by
  rw [State.die]
  cases e : tget s.dies d with
  | none => rfl
  | some D => simpa using List.all_eq_true.mp h _ (tget_some_mem e)

/-- An output block that can be written, of an instant at its end and of one whose nodes only wait for each other, one of them
in a slot. -/
theorem witness_InvocationsAndInstants_blocks : (let G : Graph := { nodeGraph with
        nodes := nodeGraph.nodes.map fun n => { n with st := 1 }, out := 0x10000000 }
      let s := mapped (graphed G none) 0
      tget (s.cluster 0).graphs 3 = some G ∧ (s.cluster 0).run = some 1 ∧ G.over = true ∧ G.fin = none ∧ G.busy = true ∧ G.out ≠ 0 ∧
        (∀ d, (s.die d).off = false) ∧ s.ctlRoom 0 1 G.out (1 + G.sigs.length) (8 * ·)) ∧
    (let G : Graph := { nodeGraph with nodes := nodeGraph.nodes.map fun n => { n with st := 3, reason := 1, index := 1 }, out := 0x10000000 }
     let s := mapped ((graphed G none).updThr (0, 2) fun t => { t with st := .node, node := some (0, 3, 0) }) 0
     tget (s.cluster 0).graphs 3 = some G ∧ G.stuck = true ∧ G.out ≠ 0 ∧ s.nodeKey 0 3 0 = some (0, 2) ∧ s.nodeKey 0 3 1 = none ∧
       (∀ d, (s.die d).off = false) ∧ s.ctlRoom 0 1 G.out (8 + G.nodes.length) (8 * ·)) :=
  ⟨⟨rfl, by decide, by decide, by decide, by decide, by decide, on_of (by decide), ctlRoom_big _ (by decide) (by decide) (by decide) (by decide) (by decide)⟩,
    rfl, by decide, by decide, by decide, by decide, on_of (by decide), ctlRoom_big _ (by decide) (by decide) (by decide) (by decide) (by decide)⟩

/-- Node 0 asks the controller, which handles ev; another node runs. -/
def askedCtl (kind : PendK) (ev : Instr) (G : Graph) : State :=
  (graphed G (some ev)).updThr (0, 2) fun t => { t with st := .node, node := some (0, 3, 0), pend := some ⟨kind, 3, 4, 7, none⟩ }

/-- nodeGraph with both nodes running. -/
def bothRun : Graph := { nodeGraph with nodes := nodeGraph.nodes.map fun n => { n with st := 5 } }

theorem witness_ControllerAnswersNodes : bothRun.waits = [] ∧ (∀ x, x ∈ bothRun.nodes → x.st ≠ 3) ∧ 1 < bothRun.sigs.length ∧
    0 < bothRun.nodes.length ∧ (bothRun.sig 1).st = 0 ∧
    (graphed bothRun (some (.emitMessage 0 3 0 1 6))).onTurn 0 (.emitMessage 0 3 0 1 6) ∧
    (graphed bothRun (some (.nodeDoneMessage 0 3 0 1 2))).onTurn 0 (.nodeDoneMessage 0 3 0 1 2) :=
  ⟨by decide, by decide, by decide, by decide, by decide, ⟨_, rfl, rfl, by decide, by decide⟩, _, rfl, rfl, by decide, by decide⟩

theorem witness_ControllerAnswersNodes_asks : (let s := askedCtl (.sig 1 1 3 0) (.signalQuery 0 3 0) bothRun
      s.nodeKey 0 3 0 = some (0, 2) ∧ s.onTurn 0 (.signalQuery 0 3 0) ∧ s.Waits (0, 2) (.sig 1 1 3 0) 3 4 7 none ∧
        (bothRun.node 1).st = 5) ∧
    (let s := askedCtl (.chr 7 9) (.channelRequest 0 3 0) bothRun
     s.nodeKey 0 3 0 = some (0, 2) ∧ s.onTurn 0 (.channelRequest 0 3 0) ∧ s.Waits (0, 2) (.chr 7 9) 3 4 7 none ∧
       vget bothRun.chans 7 none = none) :=
  ⟨⟨by decide, ⟨_, rfl, rfl, by decide, by decide⟩, waits_of rfl rfl (by decide), by decide⟩, by decide,
    ⟨_, rfl, rfl, by decide, by decide⟩, waits_of rfl rfl (by decide), by decide⟩

theorem noWaits_of {s : State} (h : (s.cores.all fun p => p.2.th.toList.all (·.pend.isNone)) = true) : s.noWaits := by
  intro k
  have hv : ∀ v : Vector Thread 16, (v.toList.all (·.pend.isNone)) = true → (vget v k.2 .empty).pend = none := by
    intro v hv
    simp only [vget, Array.getD]
    split
    · next hk =>
      have h := List.all_eq_true.mp hv (v[k.2]'(by simpa using hk)) (by simp)
      simpa using h
    · rfl
  rw [State.thr, Core.thr]
  refine hv _ ?_
  rw [State.core]
  cases e : tget s.cores k.1 with
  | none => rfl
  | some c => exact List.all_eq_true.mp h _ (tget_some_mem e)

/-- The card c of context 1 of core 0. -/
def aCard (c : Nat) : QCard := ⟨7, 0, 1, BitVec.ofNat 512 c, false, 0⟩

/-- The card alone in queue n of its core, fireable, its tag with one job. -/
def queued (n c : Nat) : State :=
  (((withBufs w0).setQueue 0 n ⟨[aCard c], 1, 0⟩).updCluster 0 fun k => { k with win := [⟨aCard c, n, [], [], [], 0⟩] }).updCore 0
    fun k => k.setTag (Card.tag (aCard c).card) ⟨1, false, false, 0⟩

theorem sole_of {s : State} {n : Nat} {q : QCard} (hq : (s.queue q.core n).cards = [q]) (hh : q.released = false)
    (hr : (s.core q.core).run = some q.cid) (hg : (s.ctx (dieOf q.core) q.cid).st = .running)
    (hw : (s.cores.all fun p => p.2.th.toList.all (·.pend.isNone)) = true) : s.Sole n q := ⟨hq, hh, hr, hg, noWaits_of hw⟩

theorem witness_CopyAndMatrixEngines_start : let s := queued 0 fillCard
    s.Sole 0 (aCard fillCard) ∧ (s.core 0).copy.job = none ∧ (s.core 0).copy.parkA = none ∧ (s.core 0).copy.parkB = none ∧
      (s.cluster 0).fireable 7 = true ∧ 7 ∉ s.taken 0 ∧ fifoOf (aCard fillCard).card = none ∧ ((s.core 0).ctx 1).jobs = [] :=
  ⟨sole_of rfl rfl rfl rfl (by decide), by decide, by decide, by decide, by decide, by decide, by decide +kernel, by decide⟩

/-- A FILL card that may be stolen, and another core of the cluster that has been idle for 256 cycles. -/
def stealCard : Nat := fillCard + 2 ^ 22 - 2 * 2 ^ 48 * 2 ^ 128

theorem witness_CopyAndMatrixEngines_steal :
    let s := { (queued 0 stealCard).updCore 1 fun k => { k with run := some 1 } with now := 256 }
    s.Sole 0 (aCard stealCard) ∧ Card.steal (aCard stealCard).card = true ∧ (s.core 1).run = some 1 ∧ (s.core 1).cq.cards = [] ∧
      (s.core 1).copy.idle + 256 ≤ s.now ∧ (s.core 1).copy.job = none ∧ (s.core 0).copy.parkA = none ∧ (s.cluster 0).fireable 7 = true ∧ 7 ∉ s.taken 0 ∧
      ∀ n, n < 16 → coreIn 0 n ≠ 0 → (s.core (coreIn 0 n)).cq.cards = [] :=
  ⟨sole_of rfl rfl rfl rfl (by decide), by decide +kernel, by decide, by decide, by decide, by decide, by decide, by decide, by decide⟩

/-- 8 FP16 elements of C at 32 as FP32 to A at 64. -/
def copyCard : Nat := 1 + 5 * 2 ^ 8 + 8 * 2 ^ 192 + 2 ^ 224 + (2 * 2 ^ 48 + 64) * 2 ^ 128 + (3 * 2 ^ 48 + 32) * 2 ^ 64 + 2 * 2 ^ 32

/-- The copy engine of core 0 has element i of its job next. -/
def copying (c i : Nat) (fault : Option (Nat × Nat)) : State :=
  (queued 0 c).updCore 0 fun k => { k with copy := { k.copy with job := some { card := aCard c, chunk := i, fault := fault, snap := [], part := 0 }, due := 0 } }

theorem witness_CopyAndMatrixEngines_chunk : ∀ c ∈ [fillCard, copyCard], let s := copying c 0 none
    let x := (s.core 0).ctx 1
    let q := (aCard c).card
    (s.core 0).copy.due = s.now ∧ (jobOut q).bits % 8 = 0 ∧ jobRows q = 1 ∧ Card.snap q = false ∧ fifoOf q = none ∧ Card.sp q 128 = 2 ∧
      Card.addr q 128 + jobTotal q * ((jobOut q).bits / 8) ≤ x.size 2 ∧
      (Card.type q = 4 ∨ (Card.type q = 1 ∧ isBlockTy (jobIn q) = false ∧ (jobIn q).bits = 8 * 2 ∧ Card.sp q 64 = 3 ∧
        Card.addr q 64 + jobTotal q * 2 ≤ x.size 3)) ∧ x.w.wf && x.a.wf && x.c.wf && x.z.wf := by decide +kernel

/-- 2 rows of 2 INT32 of the large page, by indices at the start of C, to A at 64. -/
def gatherCard : Nat := 2 + 5 * 2 ^ 8 + 21 * 2 ^ 32 + 21 * 2 ^ 37 + 0x10000100 * 2 ^ 64 + (2 * 2 ^ 48 + 64) * 2 ^ 128 +
  (3 * 2 ^ 48) * 2 ^ 192 + 2 * 2 ^ 256 + 2 * 2 ^ 288 + 4 * 2 ^ 320 + 16 * 2 ^ 352 + 8 * 2 ^ 384

/-- 4 INT32 of A at 64, to the large page; and a scatter of one row of 4 there. -/
def outCard (type : Nat) : Nat := type + 5 * 2 ^ 8 + 21 * 2 ^ 32 + 21 * 2 ^ 37 + (2 * 2 ^ 48 + 64) * 2 ^ 64 + 0x10000200 * 2 ^ 128 +
  (if type = 1 then 4 * 2 ^ 192 + 2 ^ 224 else (3 * 2 ^ 48) * 2 ^ 192 + 4 * 2 ^ 256 + 2 ^ 288 + 4 * 2 ^ 320)

theorem witness_CopyAndMatrixEngines_gather : let s := mapped (copying gatherCard 0 none) 0
    let q := aCard gatherCard
    let c := q.card
    ((s.core 0).copy.job = some { card := q, chunk := 0, fault := none, snap := [], part := 0 } ∧ (s.core 0).copy.due = s.now ∧ s.badLines = [] ∧ s.reqs = [] ∧
      (jobOut c).bits = 32 ∧ (jobIn c).bits = 8 * 4 ∧ isBlockTy (jobIn c) = false ∧ Card.snap c = false ∧ fifoOf c = none ∧
      Card.type c = 2 ∧ chunkCount c 0 = 4 ∧ jobTotal c = 4 ∧ jobRows c = 2 ∧ s.mem.wf = true ∧ Card.sp c 64 = 0 ∧ Card.sp c 128 = 2 ∧
      Card.sp c 192 = 3 ∧ 0 < Card.f c 351 320 ∧ ∀ r, r < 2 → (s.space q 3).read (4 * r) 4 = 0) ∧
    ∀ w : Nat → Prop, (∀ e, e < 4 → s.engAt q .store (jobOut c) 2 (Card.dstAt c (fun _ => 0) e) 4 (64 + 4 * e) w) ∧
      (∀ e, e < 4 → s.engAt q .load (jobIn c) 0 (Card.srcAt c (fun _ => 0) e) 4 (0x100 + 4 * (e % 2)) w) ∧
      ∀ r : Nat, r < 2 → s.engAt q .load .int32 3 (Card.addr c 192 + 4 * r) 4 (4 * r) w :=
  have hs : ∀ e : Fin 4, Card.srcAt (aCard gatherCard).card (fun _ => 0) e.val = ((0x10000000 + (0x100 + 4 * (e.val % 2)) : Nat) : Int) := by
    decide +kernel
  have hd : ∀ e : Fin 4, bufOk (mapped (copying gatherCard 0 none) 0) (aCard gatherCard) .store 2
      (Card.dstAt (aCard gatherCard).card (fun _ => 0) e.val) 4 (64 + 4 * e.val) = true := by decide +kernel
  have hi : ∀ r : Fin 2, bufOk (mapped (copying gatherCard 0 none) 0) (aCard gatherCard) .load 3
      (Card.addr (aCard gatherCard).card 192 + 4 * r.val) 4 (4 * r.val) = true := by decide +kernel
  ⟨by decide +kernel, fun w => ⟨fun e h => engAt_buf w (hd ⟨e, h⟩), fun e h => by
      rw [hs ⟨e, h⟩]
      exact engAt_big w (by decide) (by decide +kernel) (by omega) (by decide),
    fun r h => engAt_buf w (hi ⟨r, h⟩)⟩⟩

/-- No unit is off, no line bad, no request of an engine waits. -/
theorem witness_CopyAndMatrixEngines_calm : ∀ s ∈ [copying fillCard 0 none, copying copyCard 0 none, mapped (copying gatherCard 0 none) 0],
    s.badLines = [] ∧ s.reqs = [] ∧ (∀ d, (s.die d).off = false) ∧ ∀ b, (((s.core 0).ctx 1).buf b).wf = true := by
  have h : ∀ s ∈ [copying fillCard 0 none, copying copyCard 0 none, mapped (copying gatherCard 0 none) 0],
    s.badLines = [] ∧ s.reqs = [] ∧ (s.dies.all fun p => !p.2.off) = true ∧
      ∀ m ∈ [((s.core 0).ctx 1).w, ((s.core 0).ctx 1).a, ((s.core 0).ctx 1).c, ((s.core 0).ctx 1).z], m.wf = true := by decide +kernel
  refine fun s m => ⟨(h s m).1, (h s m).2.1, on_of (h s m).2.2.1, fun b => ?_⟩
  unfold CCtx.buf
  split <;> exact (h s m).2.2.2 _ (by simp)

theorem witness_CopyAndMatrixEngines_out : ∀ type ∈ [1, 3], let s := mapped (copying (outCard type) 0 none) 0
    let q := aCard (outCard type)
    let c := q.card
    (Card.type c = type ∧ chunkCount c 0 = 4 ∧ jobTotal c = 4 ∧ jobOut c = .int32 ∧ jobIn c = .int32 ∧ Card.sp c 64 = 2 ∧
      Card.sp c 128 = 0) ∧
    ∀ w : Nat → Prop, (∀ e, e < 4 → s.engAt q .store .int32 0 (Card.dstAt c (fun _ => 0) e) 4 (0x200 + 4 * e) w) ∧
      ∀ e, e < 4 → s.engAt q .load .int32 2 (Card.srcAt c (fun _ => 0) e) 4 (64 + 4 * e) w := by
  have hd : ∀ type ∈ [1, 3], ∀ e : Fin 4, Card.dstAt (aCard (outCard type)).card (fun _ => 0) e.val =
      ((0x10000000 + (0x200 + 4 * e.val) : Nat) : Int) := by decide +kernel
  have hb : ∀ type ∈ [1, 3], ∀ e : Fin 4, bufOk (mapped (copying (outCard type) 0 none) 0) (aCard (outCard type)) .load 2
      (Card.srcAt (aCard (outCard type)).card (fun _ => 0) e.val) 4 (64 + 4 * e.val) = true := by decide +kernel
  have hc : ∀ type ∈ [1, 3], let c := (aCard (outCard type)).card
    Card.type c = type ∧ chunkCount c 0 = 4 ∧ jobTotal c = 4 ∧ jobOut c = .int32 ∧ jobIn c = .int32 ∧ Card.sp c 64 = 2 ∧
      Card.sp c 128 = 0 := by decide +kernel
  have hp : ∀ type ∈ [1, 3], let s := mapped (copying (outCard type) 0 none) 0
      (s.core 0).tlb = [⟨1, 0x1000, bigLeaf⟩] ∧
      (permitted (s.partOf 0 1).keys .store true bigLeaf && pageMeets bigLeaf .int32 true == .raw) = true := by decide +kernel
  intro type h
  refine ⟨hc type h, fun w => ⟨fun e he => ?_, fun e he => engAt_buf w (hb type h ⟨e, he⟩)⟩⟩
  rw [hd type h ⟨e, he⟩]
  exact engAt_big w (hp type h).1 (hp type h).2 (by omega) (by decide)

/-- The copy engine of core 0 has a part of four elements of its job to read, or, `wrote`, to send. -/
def partly (c : Nat) (got : List Got) (wrote : Bool) (outs : List Hit) : State :=
  let j : CJob := { card := aCard c, chunk := 0, fault := none, snap := [], part := 0, want := 4, got := got, wrote := wrote, outs := outs }
  (queued 0 c).updCore 0 fun k => { k with copy := { k.copy with due := 0, job := some j } }

/-- A part of a gather that homes have still to read, and one that they have read; writes to go out, and none left. -/
theorem witness_CopyAndMatrixEngines_part : (∀ g ∈ [[], [⟨0x100, 8, 0x700000005, none⟩]], let s := mapped (partly gatherCard g false []) 0
      let S := s.seeing g
      ∃ j, (s.core 0).copy.job = some j ∧ j.want = 4 ∧ j.turns = [] ∧ S.badLines = [] ∧
        ((unread j.got (S.jobReads j j.got 0 4)).isEmpty ↔ g ≠ []) ∧ (S.core 0).tlb = [⟨1, 0x1000, bigLeaf⟩] ∧
        S.mem.read 0x100 4 = if g = [] then 0 else 5) ∧
    ∀ l ∈ [[], [(⟨0, 0, ⟨0, 0x10000200, 0x200, 4, 9⟩⟩ : Hit), ⟨0, 0, ⟨1, 0x10000204, 0x204, 4, 8⟩⟩]],
      ∃ j, ((partly (outCard 1) [] true l).core 0).copy.job = some j ∧ j.wrote = true ∧ j.outs = l ∧ j.turns = [] ∧
        ∀ h ∈ l, h.tier ≤ 1 ∧ h.el.host = false ∧ h.el.loc / 2 ^ 46 = 0 := by
  constructor
  · have h : ∀ g ∈ [[], [⟨0x100, 8, 0x700000005, none⟩]], let s := mapped (partly gatherCard g false []) 0
        let S := s.seeing g
        let j : CJob := { card := aCard gatherCard, chunk := 0, fault := none, snap := [], part := 0, want := 4, got := g }
        S.badLines = [] ∧ ((unread j.got (S.jobReads j j.got 0 4)).isEmpty ↔ g ≠ []) ∧ (S.core 0).tlb = [⟨1, 0x1000, bigLeaf⟩] ∧
          S.mem.read 0x100 4 = if g = [] then 0 else 5 := by decide +kernel
    exact fun g m => ⟨_, rfl, rfl, rfl, h g m⟩
  · have h : ∀ l ∈ [[], [(⟨0, 0, ⟨0, 0x10000200, 0x200, 4, 9⟩⟩ : Hit), ⟨0, 0, ⟨1, 0x10000204, 0x204, 4, 8⟩⟩]],
        ∀ h ∈ l, h.tier ≤ 1 ∧ h.el.host = false ∧ h.el.loc / 2 ^ 46 = 0 := by decide
    exact fun l m => ⟨_, rfl, rfl, rfl, rfl, h l m⟩

theorem witness_CopyAndMatrixEngines_end : ∀ f ∈ [none, some (0x41, 0x123450)], let s := copying fillCard 1 f
    s.Sole 0 (aCard fillCard) ∧ jobTotal (aCard fillCard).card ≤ 1 * chunkEls (jobOut (aCard fillCard).card) :=
  have h : ∀ f ∈ [none, some (0x41, 0x123450)],
      ((copying fillCard 1 f).cores.all fun p => p.2.th.toList.all (·.pend.isNone)) = true := by decide
  fun f m => ⟨sole_of rfl rfl rfl rfl (h f m), by decide +kernel⟩

/-- A product of 2 rows and 3 columns in 2 groups of INT8, and of FP16 added to C, to C at 16. -/
def matCard : Nat := 0x10 + 6 * 2 ^ 8 + 10 * 2 ^ 32 + 10 * 2 ^ 37 + 2 ^ 44 + 2 * 2 ^ 64 + 3 * 2 ^ 72 + 64 * 2 ^ 80 +
  (3 * 2 ^ 48 + 16) * 2 ^ 128 + 64 * 2 ^ 192
def halfCard : Nat := 0x10 + 6 * 2 ^ 8 + 2 * 2 ^ 32 + 2 * 2 ^ 37 + 2 ^ 43 + 2 * 2 ^ 64 + 3 * 2 ^ 72 + 64 * 2 ^ 80 +
  (3 * 2 ^ 48 + 16) * 2 ^ 128 + 64 * 2 ^ 192

/-- The matrix unit of core 0 with a tile and two rows and three columns of a group of card c fed. -/
def fed (c x : Nat) (run : Option MRun) (wrs : List MWr) : State := (queued 1 c).updCore 0 fun k => { k with
  mat := { k.mat with fa := List.replicate 128 (BitVec.ofNat 8 x), fb := List.replicate 192 (BitVec.ofNat 8 (2 * x)),
                      tile := List.replicate 2048 5, run := run, wrs := wrs } }

theorem witness_CopyAndMatrixEngines_fire : let s := fed matCard 1 none []
    s.Sole 1 (aCard matCard) ∧ (s.cluster 0).fireable 7 = true ∧ (s.core 0).mat.run = none ∧ (s.core 0).mat.wrs = [] :=
  ⟨sole_of rfl rfl rfl rfl (by decide), by decide, by decide, by decide⟩

theorem witness_CopyAndMatrixEngines_fed : ∀ n ∈ [matCard, halfCard], let m := ((fed n 1 none []).core 0).mat
    let c := (aCard n).card
    Card.f c 71 64 ≤ 32 ∧ Card.f c 79 72 ≤ 64 ∧ m.tile.length = 2048 ∧ Card.f c 71 64 * runBytes (Card.ty c 36 32) ≤ m.fa.length ∧
      Card.f c 79 72 * runBytes (Card.ty c 41 37) ≤ m.fb.length ∧
      (mmaIv c).1 + (mmaIv c).2 ≤ (((fed n 1 none []).core 0).ctx 1).size 3 ∧ mmaGroups c = 2 := by decide +kernel

/-- The first group of a command and its last, of either card. -/
theorem witness_CopyAndMatrixEngines_group : ∀ step ∈ [0, 1], let R : MRun := ⟨aCard matCard, step, 0, false, 32, 0⟩
    ((fed matCard 1 (some R) []).core 0).mat.run = some R ∧ R.due ≤ (fed matCard 1 (some R) []).now ∧ R.k = 32 ∧
      (step + 1 < mmaGroups R.card.card ↔ step = 0) ∧ step < mmaGroups R.card.card := by decide +kernel

theorem witness_CopyAndMatrixEngines_types : (let c := (aCard matCard).card
      Card.ty c 36 32 = .int8 ∧ Card.ty c 41 37 = .int8 ∧ c.getLsbD 44 = true ∧ c.getLsbD 45 = false ∧ c.getLsbD 43 = false) ∧
    (let c := (aCard halfCard).card
     isBlockTy (Card.ty c 36 32) = false ∧ isBlockTy (Card.ty c 41 37) = false ∧ c.getLsbD 44 = false ∧ c.getLsbD 43 = true ∧
       Card.ty c 36 32 = .fp16 ∧ Card.ty c 41 37 = .fp16) := by decide +kernel

/-- The numbers of row 1 and column 2 of a group of zeros. -/
theorem witness_CopyAndMatrixEngines_numbers : ∀ i : Fin 32, ∀ p ∈ [(1, ((fed halfCard 0 none []).core 0).mat.fa),
      (2, ((fed halfCard 0 none []).core 0).mat.fb)],
    Spec.number (Num.valOf .fp16 (leNat ((p.2.drop (p.1 * runBytes .fp16)).take (runBytes .fp16)) >>> (i.val * ETy.fp16.bits) %
      2 ^ ETy.fp16.bits)).1 = some 0 := by decide +kernel

theorem witness_CopyAndMatrixEngines_complete :
    let W : MWr := ⟨aCard matCard, [1, 2, 3, 4, 5, 6], 0, true⟩
    let s := fed matCard 1 none [W]
    let c := (aCard matCard).card
    s.Sole 1 (aCard matCard) ∧ (s.core 0).mat.wrs = [W] ∧ W.due ≤ s.now ∧ W.tile.length = Card.f c 71 64 * Card.f c 79 72 ∧
      4 * Card.f c 79 72 ≤ Card.f c 223 192 ∧ ((s.core 0).ctx 1).c.wf = true :=
  ⟨sole_of rfl rfl rfl rfl (by decide), by decide +kernel, by decide +kernel, by decide +kernel, by decide +kernel, by decide⟩

/-! #### The Ellipsis engine and the collectives -/

/-- A MERGE of 2 rows of 64 elements with no parent, a ROUTE of 3 rows to 4 experts, an UNMERGE and a MAPFREE of record 3, and a
MAPFREE of all. -/
def mergeCard (r : Nat) : Nat := 0x20 + 3 * 2 ^ 8 + 2 * 2 ^ 64 + 64 * 2 ^ 80 + 64 * 2 ^ 96 + r * 2 ^ 128 + 2 ^ 149 + 512 * 2 ^ 224 +
  1024 * 2 ^ 256 + 1032 * 2 ^ 288 + 1544 * 2 ^ 320 + 1552 * 2 ^ 352 + 1560 * 2 ^ 384
def routeCard : Nat := 0x22 + 3 * 2 ^ 8 + 3 * 2 ^ 64 + 4 * 2 ^ 80 + 64 * 2 ^ 160 + 96 * 2 ^ 192 + 128 * 2 ^ 224 + 160 * 2 ^ 256 +
  192 * 2 ^ 288 + 224 * 2 ^ 320 + 232 * 2 ^ 352
def unmergeCard : Nat := 0x21 + 3 * 2 ^ 8 + 2 ^ 37 + 3 * 2 ^ 64 + 64 * 2 ^ 80 + 1024 * 2 ^ 160
def freeCard (all : Nat) : Nat := 0x23 + 3 * 2 ^ 8 + 3 * 2 ^ 64 + all * 2 ^ 69

/-- Cluster 0 with the card in its queue and map records. -/
def elled (c : Nat) (j : Option EJob) (m : List MapRec) : State :=
  (queued 2 c).updCluster 0 fun k => { k with ejob := j, maps := m }

/-- Map record 3 of core 0, its parent record 1, with m of its 3 rows merged. -/
def records (m : Nat) : List MapRec := [.free, ⟨1, 0, true, 0, 1, false, 2, 2, 4000⟩, .free, ⟨1, 0, false, 1, 2, false, 3, m, 4000⟩]

/-- A MERGE with parent 1. -/
def childCard : Nat := mergeCard 0 - 2 ^ 149 + 2 ^ 144

theorem witness_EllipsisAndCollectives_start : (elled (mergeCard 1) none []).Sole 2 (aCard (mergeCard 1)) ∧
    ∀ c ∈ [mergeCard 1, childCard, routeCard, unmergeCard, freeCard 0, freeCard 1], let s := elled c none []
      (s.cluster 0).ejob.isNone = true ∧
        (((s.cluster 0).win.find? (·.card.id == 7)).map fun w => (w.deps, decide (w.since ≤ s.now))) = some ([], true) ∧
        (s.cluster 0).map 0 = .free ∧
        ((∀ iv ∈ mergeIvs (BitVec.ofNat 512 (mergeCard 1)), iv.2.1 + iv.2.2 ≤ ((s.core 0).ctx 1).size 2) ∧
         ∀ iv ∈ routeIvs (BitVec.ofNat 512 routeCard), iv.2.1 + iv.2.2 ≤ ((s.core 0).ctx 1).size 2) :=
  ⟨sole_of rfl rfl rfl rfl (by decide), by decide +kernel⟩

/-- 32 taken records, a record that is switched out, one that can be unmerged, and one that can be a parent. -/
theorem witness_EllipsisAndCollectives_records : (let s := elled (mergeCard 1) none (List.replicate 32 ⟨1, 0, true, 0, 1, false, 3, 2, 4000⟩)
      ∀ i, i < 32 → ((s.cluster 0).map i).st ≠ 0) ∧
    (let s := elled unmergeCard none [.free, .free, .free, ⟨2, 0, true, 0, 1, false, 3, 2, 4000⟩]
     Card.f (BitVec.ofNat 512 unmergeCard) 68 64 = 3 ∧ ((s.cluster 0).map 3).st = 2 ∧ ((s.cluster 0).map 3).child = false) ∧
    (let s := elled unmergeCard none (records 2)
     let r := (s.cluster 0).map 3
     r.st = 1 ∧ r.child = false ∧ r.core = coreNo 0 ∧
       (∀ iv ∈ unmergeIvs (BitVec.ofNat 512 unmergeCard) r, iv.2.1 + iv.2.2 ≤ ((s.core 0).ctx 1).size 2) ∧
       overlapBad (unmergeIvs (BitVec.ofNat 512 unmergeCard) r) = []) ∧
    (let s := elled childCard none (records 2)
     let c := BitVec.ofNat 512 childCard
     let r := (s.cluster 0).map (Card.f c 148 144)
     c.getLsbD 149 = false ∧ Card.f c 148 144 = 1 ∧ r.st = 1 ∧ r.child = false ∧ r.m = Card.f c 79 64) := by decide +kernel

/-- A row that is written, one whose map entry is past the merged rows, and the end. -/
theorem witness_EllipsisAndCollectives_rows : ∀ p ∈ [(0, 2), (0, 0), (3, 2)], let j : EJob := ⟨aCard unmergeCard, 0, 16, 3, 0, 0, p.1⟩
    let s : State := { elled unmergeCard (some j) (records p.2) with now := 100 }
    let r := (s.cluster 0).map 3
    let A := ((s.core 0).ctx 1).a
    (s.cluster 0).ejob.map (·.row) = some p.1 ∧ A.wf = true ∧ Card.type j.card.card = 0x21 ∧ j.start + 16 + 3 * 8 ≤ s.now ∧
      (j.row < r.n ↔ p.1 = 0) ∧ (r.m ≤ A.read (r.mapoff + 2 * j.row) 2 ↔ p.2 = 0) := by decide +kernel

theorem witness_EllipsisAndCollectives_end :
    (let c := BitVec.ofNat 512 (mergeCard 0)
     Card.type c = 0x20 ∧ c.getLsbD 149 = true ∧ overlapBad (mergeIvs c) = [] ∧ Card.f c 143 128 ≤ Card.f c 79 64) ∧
    (let c := BitVec.ofNat 512 childCard
     Card.type c = 0x20 ∧ c.getLsbD 149 = false ∧ overlapBad (mergeIvs c) = [] ∧ Card.f c 148 144 ≠ 0) ∧
    (let c := BitVec.ofNat 512 routeCard
     Card.type c = 0x22 ∧ overlapBad (routeIvs c) = [] ∧ Card.f c 39 37 = 0 ∧ Card.f c 111 96 = 0 ∧ 0 < Card.f c 95 80 ∧
       Card.ty c 36 32 = .fp32) ∧
    (∀ n ∈ [0, 1], Card.type (BitVec.ofNat 512 (freeCard n)) = 0x23) := by decide +kernel

theorem witness_EllipsisAndCollectives_one : ∀ c ∈ [mergeCard 0, childCard, routeCard, freeCard 0, freeCard 1],
    let j : EJob := ⟨aCard c, 0, 0, 0, 0, 0, 0⟩
    let s := elled c (some j) (records 2)
    s.Sole 2 (aCard c) ∧ (s.cluster 0).ejob = some j ∧ j.start + j.cycles ≤ s.now ∧ j.handle < 32 :=
  have h : ∀ c ∈ [mergeCard 0, childCard, routeCard, freeCard 0, freeCard 1],
      let s := elled c (some ⟨aCard c, 0, 0, 0, 0, 0, 0⟩) (records 2)
      (s.queue 0 2).cards = [aCard c] ∧ (s.core 0).run = some 1 ∧ (s.ctx (dieOf (aCard c).core) (aCard c).cid).st = .running ∧
        (s.cores.all fun p => p.2.th.toList.all (·.pend.isNone)) = true ∧
        (s.cluster 0).ejob = some ⟨aCard c, 0, 0, 0, 0, 0, 0⟩ ∧ 0 + 0 ≤ s.now := by decide +kernel
  fun c m => ⟨sole_of (h c m).1 rfl (h c m).2.1 (h c m).2.2.1 (h c m).2.2.2.1, (h c m).2.2.2.2.1, (h c m).2.2.2.2.2, by
    show 0 < 32; decide⟩

/-- The card of a collective of 3 INT32 of two dies, from and to the large page. -/
def collCard (type rank : Nat) : Nat := type + 3 * 2 ^ 8 + 21 * 2 ^ 32 + (0x10002000 + 0x100 * rank) * 2 ^ 64 +
  (0x10001000 + 0x100 * rank) * 2 ^ 128 + 3 * 2 ^ 192 + 5 * 2 ^ 256 + 2 * 2 ^ 272 + rank * 2 ^ 280

def collOf (type rank : Nat) : QCard := ⟨7 + rank, 256 * rank, 1, BitVec.ofNat 512 (collCard type rank), false, 0⟩

def together (type : Nat) (ready : Bool) (phase : Nat) : State :=
  let s := w0.updCore 256 fun k => { k with run := some 1, ctxs := (w0.core 0).ctxs }
  let s := s.updDie 0 fun d => { d with colq := ⟨[collOf type 0], 1, 0⟩ }
  let s := s.updDie 1 fun d => { d with colq := ⟨[collOf type 1], 1, 0⟩, ctxs := (w0.die 0).ctxs }
  { mapped (mapped s 0) 256 with
    colls := [(4, ⟨5, [collOf type 0, collOf type 1], phase, ready, [], [], [], false⟩)], groups := [(5, ⟨2, [(0, 0), (0, 1)]⟩)]
    parts := [(0, ⟨.run, [0, 1], 0, []⟩)] }

theorem witness_EllipsisAndCollectives_collective : ∀ r ∈ [false, true], ∀ p ∈ [0, 1, 2], let s := together 0x30 r p
    ((tget s.colls 4).map fun x => (x.ready, x.phase, x.left.length)) = some (r, p, 0) ∧
      (s.groupOf (collOf 0x30 0)) = some ⟨2, [(0, 0), (0, 1)]⟩ ∧
      s.localDies ⟨2, [(0, 0), (0, 1)]⟩ = [0, 1] ∧ s.goes 0 = true ∧ s.goes 256 = true := by decide +kernel

theorem seeing_nil {s : State} (h : s.badLines = []) : s.seeing [] = s := by
  cases s
  simp_all [State.seeing]

/-- All-reduce, all-gather, reduce-scatter and broadcast: each reads and writes the large page, for each of the two participants; nothing
has been read. -/
theorem witness_EllipsisAndCollectives_results : ∀ type ∈ [0x30, 0x31, 0x32, 0x33], let s := together type true 0
    (s.Sole 3 (collOf type 0) ∧ s.Sole 3 (collOf type 1)) ∧
    (collKey (collOf type 0).card = collKey (collOf type 1).card ∧ Card.f (collOf type 0).card 279 272 = 2 ∧
      Card.ty (collOf type 0).card 36 32 = .int32 ∧ Card.f (collOf type 0).card 47 40 < 2 ∧ Card.f (collOf type 0).card 223 192 = 3 ∧
      s.badLines = [] ∧ s.reqs = []) ∧ s.seeing [] = s ∧ (∀ d, (s.die d).off = false) ∧ unread [] (s.collHits (collOf type 0)) ≠ [] ∧
    ∀ (w : Nat → Prop) (k e : Nat), k < 2 → e < 6 → let q := collOf type k
      (Card.type q.card = type ∧ Card.rank q.card = k ∧ Card.sp q.card 64 = 0 ∧ Card.sp q.card 128 = 0) ∧
      s.engAt q .load .int32 0 (Card.addr q.card 64 + 4 * e) 4 (0x2000 + 0x100 * k + 4 * e) w ∧
      s.engAt q .store .int32 0 (Card.addr q.card 128 + 4 * e) 4 (0x1000 + 0x100 * k + 4 * e) w := by
  have hs : ∀ type ∈ [0x30, 0x31, 0x32, 0x33], ∀ k : Fin 2, let s := together type true 0
      let q := collOf type k.val
      (s.queue q.core 3).cards = [q] ∧ q.released = false ∧ (s.core q.core).run = some q.cid ∧ (s.ctx (dieOf q.core) q.cid).st = .running ∧
        (s.cores.all fun p => p.2.th.toList.all (·.pend.isNone)) = true := by decide +kernel
  have hf : ∀ type ∈ [0x30, 0x31, 0x32, 0x33], let s := together type true 0
      collKey (collOf type 0).card = collKey (collOf type 1).card ∧ Card.f (collOf type 0).card 279 272 = 2 ∧
        Card.ty (collOf type 0).card 36 32 = .int32 ∧ Card.f (collOf type 0).card 47 40 < 2 ∧ Card.f (collOf type 0).card 223 192 = 3 ∧
        s.badLines = [] ∧ s.reqs = [] := by decide +kernel
  have hd : ∀ type ∈ [0x30, 0x31, 0x32, 0x33], let s := together type true 0
      (s.dies.all fun p => !p.2.off) = true ∧ unread [] (s.collHits (collOf type 0)) ≠ [] := by decide +kernel
  have hc : ∀ type ∈ [0x30, 0x31, 0x32, 0x33], ∀ k : Fin 2, let q := collOf type k.val
      Card.type q.card = type ∧ Card.rank q.card = k ∧ Card.sp q.card 64 = 0 ∧ Card.sp q.card 128 = 0 := by decide +kernel
  have ha : ∀ type ∈ [0x30, 0x31, 0x32, 0x33], ∀ k : Fin 2, let q := collOf type k.val
      Card.addr q.card 64 = 0x10002000 + 0x100 * k ∧ Card.addr q.card 128 = 0x10001000 + 0x100 * k := by decide +kernel
  have ht : ∀ type ∈ [0x30, 0x31, 0x32, 0x33], ∀ k : Fin 2, let s := together type true 0
      let q := collOf type k.val
      (s.core q.core).tlb = [⟨q.cid, 0x1000, bigLeaf⟩] ∧ ∀ acc ∈ [AccK.load, .store],
        (permitted (s.partOf (dieOf q.core) q.cid).keys acc true bigLeaf && pageMeets bigLeaf .int32 (acc = .store) == .raw) = true := by
    decide +kernel
  intro type h
  have sole (k : Fin 2) := let f := hs type h k; sole_of f.1 f.2.1 f.2.2.1 f.2.2.2.1 f.2.2.2.2
  refine ⟨⟨sole 0, sole 1⟩, hf type h, seeing_nil (hf type h).2.2.2.2.2.1, on_of (hd type h).1, (hd type h).2, fun w k e hk he => ⟨hc type h ⟨k, hk⟩, ?_, ?_⟩⟩
  · rw [(ha type h ⟨k, hk⟩).1]
    have := engAt_big (off := 0x2000 + 0x100 * k + 4 * e) (n := 4) w (ht type h ⟨k, hk⟩).1
      ((ht type h ⟨k, hk⟩).2 .load (by decide)) (by omega) (by decide)
    rwa [show 0x10000000 + (0x2000 + 0x100 * k + 4 * e) = 0x10002000 + 0x100 * k + 4 * e by omega] at this
  · rw [(ha type h ⟨k, hk⟩).2]
    have := engAt_big (off := 0x1000 + 0x100 * k + 4 * e) (n := 4) w (ht type h ⟨k, hk⟩).1
      ((ht type h ⟨k, hk⟩).2 .store (by decide)) (by omega) (by decide)
    rwa [show 0x10000000 + (0x1000 + 0x100 * k + 4 * e) = 0x10001000 + 0x100 * k + 4 * e by omega] at this

/-- Everything has been read, as a source of the first card shows; and the destinations stand, each card with its outcome. -/
theorem witness_EllipsisAndCollectives_moved : (let s := together 0x30 true 0
      let got := ((s.collHits (collOf 0x30 0) ++ s.collHits (collOf 0x30 1)).map fun h => (⟨h.el.loc, h.el.n, 7, none⟩ : Got))
      got.length = 6 ∧ unread got (s.collHits (collOf 0x30 0) ++ s.collHits (collOf 0x30 1)) = [] ∧ (s.seeing got).badLines = []) ∧
    (let s := together 0x30 true 0
     let x : Coll := ⟨5, [collOf 0x30 0, collOf 0x30 1], 0, true, [(collOf 0x30 0, none), (collOf 0x30 1, some (0x41, 5))], [], [], true⟩
     tget { s with colls := [(4, x)] }.colls 4 = some x ∧ s.reqs = []) := by decide +kernel

/-! #### Launches, kills and events -/

/-- A launch of 4 clusters, level 2, root table 5. -/
def aLaunch (st : LSt) : Launch := ⟨0, 9, 0, BitVec.ofNat 1024 (3 * 2 ^ 34 + 0x1234 * 2 ^ 64 + 5 * 2 ^ 704), st, 1, 0, false⟩

def waitsForClusters : State :=
  { (State.updDie { State.reset with boot := 3 } 0 fun d => { d with queue := vset d.queue 2 [⟨4, 0⟩], off := false }) with
    launches := [(4, aLaunch .queued)] }

theorem witness_LaunchesKillsAndEvents_placement : let s := waitsForClusters
    ((tget s.launches 4).map (·.die)) = some 0 ∧ (s.die 0).queue.toList.getD 2 [] = [⟨4, 0⟩] ∧
      (∀ j, j < 4 → j ≠ 2 → (s.die 0).queue.toList.getD j [] = []) ∧ s.early = false ∧ (s.die 0).off = false ∧ s.asleep 0 = [] ∧
      (∀ p ∈ (s.die 0).ctxs, p.2.st ≠ .out) ∧ s.eligibleLaunch (aLaunch .queued) = true ∧
      descGrid (aLaunch .queued).desc ≤ ((dieClusters 0).filter fun cl =>
        s.qualifies cl 0 (descRegions (aLaunch .queued).desc) (descNoevict (aLaunch .queued).desc)).length := by decide +kernel

/-- Context 1 on cluster 0, of a launch that runs; thread 0 of every core has exited, or is free. -/
def launched (x : Ctx) (f : Thread) : State :=
  let s := (State.updDie { w0 with launches := [(4, aLaunch .running)] } 0 fun d => { d with ctxs := [(1, x)] })
  (List.range 16).foldl (fun s n => (s.updCore (coreIn 0 n) fun c => { c with run := some 1, ctxs := [(1, .empty)] }).setThr (coreIn 0 n, 0) f) s

def aCtx : Ctx := { Ctx.empty with launch := 4, grid := [0] }

theorem witness_LaunchesKillsAndEvents_runs : (let s := launched aCtx .empty
      (s.core 0).run = some 1 ∧ tget (s.die 0).ctxs 1 = some aCtx ∧ aCtx.st = .running ∧ (s.thr (0, 0)).st = .free ∧
        0 ∈ aCtx.cores ∧ ∀ k ∈ aCtx.cores, ((s.core k).ctx 1).regions.all (·.resident) = true) ∧
    (let s := launched aCtx (Thread.empty.done 5)
     (∀ k ∈ aCtx.cores, (s.thr (k, 0)).st = .exited) ∧ s.openCards 0 1 = 0) ∧
    (let s := (launched aCtx (Thread.empty.done 5)).updCore 0 fun c => { c with cq := ⟨[aCard 4], 1, 0⟩ }
     s.openCards 0 1 ≠ 0) ∧
    tget (launched aCtx .empty).launches 4 = some (aLaunch .running) ∧ aCtx.killed = none :=
  ⟨by decide, by decide, by decide, rfl, rfl⟩

/-- A context that runs, one that is read back, and no such context. -/
theorem witness_LaunchesKillsAndEvents_kill : (∀ st ∈ [CtxSt.running, .restoring], let x := { aCtx with st := st }
      tget ((launched x .empty).die 0).ctxs 1 = some x ∧ x.killed = none) ∧
    tget ((launched aCtx .empty).die 0).ctxs 2 = none := by decide

/-- A kill that meets a core which still runs, its thread 0 exited or not, and one whose thread 0 is kept as exited. -/
theorem witness_LaunchesKillsAndEvents_messages : (∀ f ∈ [Thread.empty, Thread.empty.done 5], let x := { aCtx with killed := some 1, windows := 256 }
      let s := launched x f
      tget (s.die 0).ctxs 1 = some x ∧ x.grid = [0] ∧ (s.core 0).run = some 1 ∧ (tget (s.core 0).ctxs 1).isSome = true ∧
        ((s.thr (0, 0)).st = .exited ↔ f ≠ .empty)) ∧
    (let x := { aCtx with st := .killed, killed := some 1, windows := 256 }
     let y := { CCtx.empty with kept := [Thread.empty.done 5] }
     let s := (launched x .empty).updCore 0 fun c => { c with run := none, ctxs := [(1, y)] }
     tget (s.die 0).ctxs 1 = some x ∧ (s.core 0).run ≠ some 1 ∧ tget (s.core 0).ctxs 1 = some y ∧ (Thread.empty.done 5).st = .exited) := by
  decide +kernel

/-- A killed context with windows open, the last one, and none. -/
theorem witness_LaunchesKillsAndEvents_killed : ∀ n ∈ [0, 1, 256], let x := { aCtx with st := .killed, killed := some 1, windows := n }
    tget ((launched x .empty).die 0).ctxs 1 = some x ∧ ((launched x .empty).core 0).run = some 1 ∧
      tget ((launched x .empty).core 0).ctxs 1 = some .empty := by decide

theorem witness_LaunchesKillsAndEvents_event : let s := w0.updDie 0 fun d => { d with evq := [⟨2, 0, 1, 5, 6, 7, some 3, 0⟩] }
    (s.die 0).evq = [⟨2, 0, 1, 5, 6, 7, some 3, 0⟩] := by decide

/-! #### Context switches -/

/-- Context 1 on cluster 0 in state st, each core's part of it f of an empty one; the save area lies in one large page. -/
def switched (st : CtxSt) (f : CCtx → CCtx) : State :=
  let s := w0.updDie 0 fun d => { d with ctxs := [(1, { Ctx.empty with st := st, grid := [0], acks := 2 })] }
  (List.range 16).foldl (fun s n => s.updCore (coreIn 0 n) fun c => { c with
    run := some 1
    ctxs := [(1, f { CCtx.empty with savebase := 0x10000000, savelen := 0xC4500, core := n })]
    tlb := [⟨1, 0x1000, bigLeaf⟩] }) s

theorem witness_ContextSwitch : tget ((switched .running id).die 0).ctxs 1 = some { Ctx.empty with grid := [0], acks := 2 } ∧
    (tget ((switched .running id).core 1).ctxs 1).isSome = true ∧ dieOf 1 = 0 ∧
    1 ∈ ({ Ctx.empty with grid := [0], acks := 2 } : Ctx).cores ∧
    ∀ k ∈ ({ Ctx.empty with grid := [0], acks := 2 } : Ctx).cores, ((switched .running id).core k).halted = false := by decide

theorem witness_ContextSwitch_on (st : CtxSt) (f : CCtx → CCtx) (d : Nat) : ((switched st f).die d).off = false :=
  on_of (by cases st <;> rfl) d

theorem witness_LaunchesKillsAndEvents_call (e : Event) (d : Nat) : ((w0.updDie 0 fun d => { d with evq := [{ e with type := 8 }] }).die d).off = false :=
  on_of rfl d

/-- The read-out after 65,536 cycles and before; acknowledged and not. -/
theorem witness_ContextSwitch_stop : (∀ n ∈ [65535, 65536], let s : State := { (switched .preempting id).updCluster 0 fun c =>
        { c with pre := some (0, false), run := some 1 } with now := n }
      (s.cluster 0).pre = some (0, false) ∧ (s.cluster 0).run = some 1 ∧ (s.ctx 0 1).forced = false ∧ (0 + 65536 ≤ s.now ↔ n = 65536)) ∧
    (switched .preempting id).acked 0 1 = true ∧
    ((switched .preempting id).updThr (1, 0) fun t => { t with pend := some ⟨.hcall, 0, 4, 5, none⟩ }).acked 0 1 = true ∧
    ((switched .preempting id).updCore 1 fun c => { c with xfer := true }).acked 0 1 = false := by decide

/-- Every unit of the save area of core 1 can be written, whatever the memory. -/
theorem witness_ContextSwitch_save : let s := switched .saving id
    (s.core 1).run = some 1 ∧ (s.ctx 0 1).st = .saving ∧ ((s.core 1).ctx 1).saved = false ∧ ((s.core 1).ctx 1).progress = 0 ∧
      coreNo 1 ≠ 0 ∧ 0x32500 ≤ ((s.core 1).ctx 1).savelen ∧ s.mem.wf = true ∧ (s.core 1).cid = 1 ∧
      (∀ m : Mem, ∀ off, off % 64 = 0 → off < 0x32500 →
        ∃ e, { s with mem := m }.transEng 1 1 ((((s.core 1).ctx 1).savebase.toNat + off) % 2 ^ 48) = .leaf e ∧
          permitted (s.partOf 0 1).keys .store true e = true ∧
          Entry.loc e ((((s.core 1).ctx 1).savebase.toNat + off) % 2 ^ 48) = 0 + off) ∧
      ∃ k ∈ (s.ctx 0 1).cores, k ≠ 1 ∧ ((s.core k).ctx 1).saved = false :=
  ⟨by decide, by decide, by decide, by decide, by decide, by decide, by decide, by decide, fun m off _ h => ⟨bigLeaf, by
    have hb : (((switched .saving id).core 1).ctx 1).savebase.toNat = 0x10000000 := by decide
    rw [hb]
    rw [Nat.mod_eq_of_lt (by omega)]
    exact transEng_big (by decide) h m, by decide, by
    have hb : (((switched .saving id).core 1).ctx 1).savebase.toNat = 0x10000000 := by decide
    rw [hb]
    exact large_loc off h⟩, by decide⟩

/-- At the read-out a cluster has an instant whose node waits for an answer of the controller. -/
theorem witness_ContextSwitch_nodes :
    let s := ((switched .preempting id).updCluster 0 fun c => { c with pre := some (0, false), run := some 1, graphs := [(3, nodeGraph)] }).updThr
      (0, 2) fun t => { t with st := .node, node := some (0, 3, 0), pend := some ⟨.sig 1 1 3 0, 3, 4, 7, none⟩ }
    (s.cluster 0).pre = some (0, false) ∧ (s.cluster 0).run = some 1 ∧ (s.cluster 0).graphs = [(3, nodeGraph)] ∧
      nodeGraph.busy = true ∧ 0 < nodeGraph.nodes.length ∧ (s.thr (coreIn 0 0, 2)).node.isSome = true ∧
      ((s.thr (coreIn 0 0, 2)).pend.map fun p => PendK.abandoned p.kind true) = some true := by decide +kernel

/-- An area too short, a region to make resident, and a stopped save, of a context that is read out and of one that has other
regions to bring back. -/
theorem witness_ContextSwitch_others :
    (let s := switched .saving fun x => { x with savelen := 63 }
     ((s.core 1).ctx 1).savelen < 64 ∧ ((s.core 1).ctx 1).saved = false) ∧
    (let s := switched .restoring fun x => { x with regions := [⟨1, 3, false, false, false, []⟩] }
     ((s.core 1).ctx 1).regions = [⟨1, 3, false, false, false, []⟩] ∧ 3 ≤ ((s.core 1).freeBanks 1).length) ∧
    (∀ st ∈ [CtxSt.saving, .running, .out], let s := switched st fun x => { x with progress := progressOf 0 1 5 }
     progFault ((s.core 1).ctx 1).progress ≠ 0 ∧ progOff ((s.core 1).ctx 1).progress = 0 ∧ progSec ((s.core 1).ctx 1).progress ≠ 17 ∧
       0x20000000 % 64 = 0 ∧ 0xC4500 % 64 = 0 ∧ ((s.core 1).ctx 1).regions = [] ∧ (s.ctx 0 1).leaving = [] ∧ (s.ctx 0 1).st = st) ∧
    (let s := switched .killed fun x => { x with progress := progressOf 0 1 5 }
     (s.ctx 0 1).st = .killed ∧ progFault ((switched .saving id).core 1 |>.ctx 1).progress = 0) := by decide +kernel

theorem areaGet_blank {s : State} (hm : s.mem = []) (hb : s.badLines = []) (ht : (s.core 1).tlb = [⟨1, 0x1000, bigLeaf⟩])
    (hp : permitted (s.partOf 0 1).keys .load true bigLeaf = true) {off : Nat} (h : off < 0x32500) :
    s.areaGet 1 1 0x10000000 off = .ok (Mem.bytes [] (Entry.loc bigLeaf ((0x10000000 + off) % 2 ^ 48)) 64) := by
  have := transEng_big ht h s.mem
  rw [State.areaGet, Nat.mod_eq_of_lt (by omega), show s = { s with mem := s.mem } from rfl, this]
  simp only [dieOf, hp, State.badAt, State.badLine, hb, hm, List.find?_nil, Option.map_none, if_true, Nat.reduceDiv]

theorem blank_bytes (n : Nat) : ∀ a, Mem.bytes [] a n = List.replicate n Mem.unlisted := by
  induction n with
  | zero => intro a; rfl
  | succ n ih => intro a; rw [Mem.bytes, ih, Mem.get, List.replicate_succ]

/-- An area of a memory that holds nothing reads as an image that lists nothing. -/
theorem areaLoad_blank {s : State} (hm : s.mem = []) (hb : s.badLines = []) (ht : (s.core 1).tlb = [⟨1, 0x1000, bigLeaf⟩])
    (hp : permitted (s.partOf 0 1).keys .load true bigLeaf = true) (l : List Nat) (hl : ∀ off, off ∈ l → off < 0x32500) :
    s.areaLoad 1 1 0x10000000 l = .ok [] := by
  induction l with
  | nil => rfl
  | cons off l ih =>
    rw [State.areaLoad, areaGet_blank hm hb ht hp (hl off List.mem_cons_self), ih fun o h => hl o (List.mem_cons_of_mem _ h), blank_bytes]
    have hbs : ∀ b, b ∈ List.replicate 64 Mem.unlisted → b = Mem.unlisted := fun b h => List.eq_of_mem_replicate h
    generalize List.replicate 64 Mem.unlisted = bs at hbs
    refine congrArg Except.ok ?_
    rw [List.append_nil, List.filter_eq_nil_iff]
    intro c h
    obtain ⟨i, hi, e⟩ := List.mem_mapIdx.mp h
    subst e
    simp [hbs _ (List.getElem_mem hi)]

theorem areaLoad_first {s : State} {core cid base off c : Nat} (h : s.areaGet core cid base off = .error c) (l : List Nat) :
    s.areaLoad core cid base (off :: l) = .error c := by rw [State.areaLoad, h]

theorem error_of {α : Type} {x : Except Nat α} (h : x.toOption.isNone = true) : ∃ c, x = .error c := by
  cases x with
  | error c => exact ⟨c, rfl⟩
  | ok a => cases h

/-- A core whose image, of free threads, can be read back; one whose image cannot be read, or is corrupt. -/
theorem witness_ContextSwitch_restore : (let s : State := { switched .restoring (fun x => { x with saved := true }) with mem := [] }
      ((s.core 1).ctx 1).saved = true ∧ (s.core 1).run = some 1 ∧ (s.ctx 0 1).st = .restoring ∧ (s.ctx 0 1).killed = none ∧
        (s.ctx 0 1).acks > 1 ∧ coreNo 1 ≠ 0 ∧ s.areaLoad 1 1 ((s.core 1).ctx 1).savebase.toNat (unitsFrom 0 0x32500) = .ok []) ∧
    imageBad [] = false ∧ imageBad [(14, 1)] = true ∧
    (let s := switched .restoring fun x => { x with saved := true, savebase := 0x20000000 }
     ((s.core 1).ctx 1).saved = true ∧ s.areaLoad 1 1 0x20000000 (unitsFrom 0 0x32500) = .error 0x05) ∧
    (let s : State := { switched .restoring (fun x => { x with saved := true }) with mem := [] }
     ∃ c, ({ s with serial := s.serial + 64 }.updCore 0 fun k => k.load 1 0 s.serial []).clusterRestore 0 1 = .error c) :=
  have hb : ((({ switched .restoring (fun x => { x with saved := true }) with mem := [] } : State).core 1).ctx 1).savebase.toNat =
      0x10000000 := by decide
  have ha : (switched .restoring fun x => { x with saved := true, savebase := 0x20000000 }).transEng 1 1 ((0x20000000 + 0) % 2 ^ 48) = .absent := by
    decide +kernel
  have hc : (({ ({ switched .restoring (fun x => { x with saved := true }) with mem := [] } : State) with serial := w0.serial + 64 }.updCore 0
      fun k => k.load 1 0 w0.serial []).clusterRestore 0 1).toOption.isNone = true := by decide +kernel
  ⟨⟨by decide, by decide, by decide, by decide, by decide, by decide, by
      rw [hb]
      refine areaLoad_blank rfl (by decide) (by decide) (by decide) _ fun off h => ?_
      obtain ⟨i, hi, e⟩ := List.mem_map.mp h
      have := List.mem_range.mp hi
      omega⟩, by decide +kernel, by decide +kernel, ⟨by decide +kernel, by
      rw [unitsFrom, show (0x32500 - 0) / 64 = 3219 + 1 by decide, List.range_succ_eq_map, List.map_cons]
      exact areaLoad_first (by rw [Nat.mul_zero, State.areaGet, ha]) _⟩, error_of hc⟩

/-! #### Control, boot and system calls -/

/-- Context 1 of core 0 under debug, halted or not; its thread at an instruction boundary. -/
def debugged (halted : Bool) : State :=
  (w0.updDie 0 fun d => { d with ctxs := [(1, { Ctx.empty with grid := [0], debug := true })], links := [(3, ⟨5, 2, 8, none⟩)] }).updCore 0
    fun c => { c with halted := halted, tlb := [⟨1, 5, 0⟩, ⟨1, 6, 0⟩], ctxs := [(1, .empty)] }

theorem witness_ControlDebugEnergyAndLinks : ∀ h ∈ [false, true], let s := debugged h
    (tget (s.die 0).ctxs 1).isSome = true ∧ dieOf 0 = 0 ∧ (s.core 0).run = some 1 ∧ (s.ctx 0 1).debug = true ∧
      (s.ctx 0 1).st = .running ∧ (s.core 0).halted = h ∧ 0 ∈ (s.ctx 0 1).cores ∧ (s.thr (0, 0)).st = .ready ∧
      (s.thr (0, 0)).pend = none ∧ (s.core 0).dstep = none ∧ (s.core 0).ctxs.length = 1 := by decide

theorem witness_ControlDebugEnergyAndLinks_thread : ((debugged true).thr (0, 0)).Plain ∧ (debugged true).appMem.wf = true :=
  ⟨⟨by decide, by decide, by decide, by decide, by decide, clause_none (by rfl), stream_none (by rfl), by decide⟩, by decide⟩

/-- An interrupt for a thread that is away in another core, for one that waits, and for one of a context that does not run. -/
theorem witness_ControlDebugEnergyAndLinks_interrupt :
    (let s := ((debugged true).updThr (0, 0) fun t => { t with st := .away, place := 16 }).updThr (16, 3) fun t =>
      { t with st := .guest, origin := (0, 0) }
     (s.core 0).run = some 1 ∧ (s.ctx 0 1).st = .running ∧ 0 ∈ (s.ctx 0 1).cores ∧ (s.thr (0, 0)).st = .away ∧
       s.whereIs (0, 0) = (16, 3) ∧ (s.thr (16, 3)).pend = none) ∧
    (let s := (debugged true).updThr (0, 0) fun t => { t with st := .waiting, pend := some ⟨.mwait 9, 0, 4, 5, none⟩ }
     (s.core 0).run = some 1 ∧ (s.thr (0, 0)).st = .waiting ∧ (s.thr (0, 0)).pend.isSome = true) ∧
    (∀ st ∈ [TSt.ready, .exited], let X : Ctx := { Ctx.empty with grid := [0], st := .restoring }
     let y : CCtx := { CCtx.empty with kept := [{ Thread.empty with st := st }] }
     let s := ((debugged true).updDie 0 fun d => { d with ctxs := [(1, X)] }).updCore 0 fun c => { c with run := none, ctxs := [(1, y)] }
     tget (s.die 0).ctxs 1 = some X ∧ 0 ∈ X.cores ∧ (s.core 0).run = none ∧ X.st ≠ .killed ∧
       (((s.core 0).ctx 1).kept.getD 0 .empty).st = st) := by decide +kernel

/-- A link whose permits do not add up, one that trains anew, a port about to fail, and the last good one. -/
theorem witness_ControlDebugEnergyAndLinks_links : ((debugged false).die 0).links = [(3, ⟨5, 2, 8, none⟩)] ∧
    (let l : Link := ⟨5, 2, 8, none⟩
     l.permits + l.slots ≠ l.total ∧ l.retrain = none) ∧
    (∀ f ∈ [6, 7], let s : State := { w0 with ports := [(1, ⟨true, f, true⟩)], parts := [(0, ⟨.run, [0], 0, []⟩)] }
     tget s.ports 1 = some ⟨true, f, true⟩ ∧ (f < 7 ↔ f = 6)) ∧
    (let e : Elem := ⟨0, 0x5000, 2 ^ 46 + 5, 4, 0⟩
     let r : Req := ⟨17, 3, 5, 1, 0, 2, .load, [e], [], none, 0, false, false, false⟩
     let s : State := { w0 with ports := [(1, ⟨true, 7, true⟩)], reqs := [(9, r)] }
     tget s.reqs 9 = some r ∧ r.els = [e] ∧ r.tier = 2 ∧ r.fault = none) := by decide

/-- A whole state of the boot, and a partition in each state. -/
theorem witness_BootPartitionsAndPower : (∀ b ∈ [0, 1, 2, 3], ({ State.reset with boot := b } : State).boot = b) ∧
    (∀ t ∈ [Tdi.unlocked, .locked, .run, .error], let s : State := { w0 with inService := 0xFF, parts := [(2, ⟨t, [1], 3, [2]⟩)] }
      tget s.parts 2 = some ⟨t, [1], 3, [2]⟩ ∧ s.mem.wf = true ∧ s.early = false ∧ (∀ d ∈ [0, 3], s.inService.getLsbD d = true) ∧
        (∀ k ∈ [1, 15], 1 ≤ k ∧ k ≤ 15) ∧ [0, 3].length ∈ [1, 2, 4, 8] ∧ [0, 3].Nodup ∧ [0, 3, 4].length ∉ [1, 2, 4, 8]) ∧
    (∀ p ∈ State.reset.launches, p.2.st ≠ .running) := by decide

/-- A device number taken, one out of order, and one that fits. -/
theorem witness_BootPartitionsAndPower_devices : ∀ p ∈ [(2, false), (3, false), (1, true)],
    let s : State := { w0 with inService := 0xFF, parts := [(2, ⟨.unlocked, [1], 3, [2]⟩), (1, ⟨.run, [4], p.1, []⟩)] }
    tget s.parts 2 = some ⟨.unlocked, [1], 3, [2]⟩ ∧ (2 ≤ 2 ∧ (∀ q ∈ s.parts, q.1 ≠ 2 → q.2.dies ≠ [] → q.2.dev ≠ 2 ∧ (q.1 < 2 ↔ q.2.dev < 2)) ↔
      p.2 = true) ∧ ∀ q ∈ s.parts, q.1 ≠ 2 → ∀ d ∈ [0, 3], d ∉ q.2.dies := by decide

/-- Partitions numbered in their order, or, without a domain, not. -/
theorem witness_BootPartitionsAndPower_order : ∀ d ∈ [(0, 1, true), (1, 0, false), (0, 2, false)],
    let s : State := { w0 with parts := [(2, ⟨.unlocked, [1], d.1, [2]⟩), (5, ⟨.run, [4], d.2.1, []⟩)] }
    let used := s.parts.filter fun q => !q.2.dies.isEmpty
    tget s.parts 2 = some ⟨.unlocked, [1], d.1, [2]⟩ ∧ s.mem.wf = true ∧
      ((∀ q ∈ used, q.2.dev = (used.filter fun r => decide (r.1 < q.1)).length) ↔ d.2.2 = true) := by decide

/-- Units that are idle, and a core and its cluster with an access that came while they slept. -/
theorem witness_BootPartitionsAndPower_units : (let s : State := { State.reset with boot := 3, tolerance := 300000 }
      s.boot ≥ 2 ∧ s.tolerance.toNat ≥ exitNs 3 ∧ (s.cluster 7).run = none ∧ (s.cluster 7).eq.cards = [] ∧
        (∀ n, n < 16 → (s.core (coreIn 7 n)).homeQ = []) ∧ (s.die 3).ctxs = [] ∧ (∀ l ∈ (s.die 3).queue.toList, l = []) ∧
        (s.die 3).walks = [] ∧ (s.die 3).evq = [] ∧ (s.die 3).colq.cards = [] ∧ ∀ p ∈ s.cores, p.2.homeQ = []) ∧
    (let s : State := { State.reset with inService := 0xFF, dies := (List.range 8).map fun d => (d, { Die.empty with off := true }) }
     ∀ d, d < 8 → (s.die d).off = true) ∧
    (let s : State := State.reset.updCore 7 fun c => { c with homeQ := [(9, 0)] }
     (s.core 7).homeQ ≠ [] ∧ dieOf 7 = 0 ∧ ∃ n ∈ List.range 16, coreIn (clusterOf 7) n = 7) := by decide +kernel

/-- The responder before and after each request, and the tolerance of the least exit time. -/
theorem witness_BootPartitionsAndPower_more : (∀ b ∈ [false, true], let s : State := { w0 with spdm := ⟨b, b, b, some (some 3), 0⟩ }
      s.spdm.version = b ∧ s.spdm.caps = b ∧ s.spdm.algs = b ∧ s.spdm.kex = some (some 3) ∧ s.spdm.kex ≠ some none) ∧
    (∀ t ∈ [19, 20], let s : State := { State.reset with boot := 3, tolerance := BitVec.ofNat 64 t }
      s.boot ≥ 2 ∧ (s.core 7).run = none ∧ (s.core 7).homeQ = [] ∧ (s.tolerance.toNat ≥ exitNs 0 ↔ t = 20)) := by decide

/-- A package with one partition that runs, on dies 1 and 2, and an application in it. -/
def served : State := { State.reset with
  boot := 3, inService := 0xFF, parts := [(2, ⟨.run, [1, 2], 3, []⟩)]
  apps := [(7, ⟨[(2 ^ 47, 100)], [], [], 1, 2, true, 0x10000, 2 ^ 47 + 2 ^ 16⟩)] }

def anImage : Image := ⟨0xF1A7, 2, [⟨.data, 0x100000, [1, 2, 3]⟩]⟩

theorem witness_SystemCalls : (tget served.apps 7).isSome = true ∧ served.early = false ∧
    ((tget served.parts 2).map fun p => (p.st, p.dies)) = some (.run, [1, 2]) ∧ served.inService.getLsbD 1 = true ∧
    (0 : Nat) ∉ [1, 2] ∧ ((served.die 1).queue.toList.getD 2 []).length < 64 ∧ served.launchOf 7 4 = none ∧
    (decode true (leBytes 12 1)).toOption ≠ none ∧ (decode true (leBytes 12 0)).toOption = none ∧ served.appMem.wf = true := by
  decide

/-- An image taken and one refused; pages for one section. -/
theorem witness_SystemCalls_image : imageRefused anImage = false ∧ served.parts = (2, ⟨.run, [1, 2], 3, []⟩) :: [] ∧
    (served.takePages 3 (served.homeDie 2) 1 1).isSome = true ∧
    ((served.takePages 3 (served.homeDie 2) 1 1).bind fun r => r.2.loadSecs ⟨3, r.1⟩ (served.homeDie 2) anImage.secs).isSome = true := by
  decide +kernel

/-- No unit left for a root table; an image that is no program of the machine, and no partition that runs. -/
theorem witness_SystemCalls_refused : (let s : State := { served with pages := [(9, poolSize 1)] }
      (s.takePages 3 (s.homeDie 2) 1 1).isNone = true ∧ s.parts = (2, ⟨.run, [1, 2], 3, []⟩) :: []) ∧
    ({ anImage with machine := 62 } : Image).machine ≠ 0xF1A7 ∧
    (∀ p ∈ ({ served with parts := [(2, ⟨.locked, [1, 2], 3, []⟩)] } : State).parts, p.2.st ≠ .run) := by decide

/-- Pages of a home's own memory, and of a peer's; more than there are. -/
theorem witness_SystemCalls_alloc : (∀ p ∈ [(0x80B1F, 1, 3), (0x20B1F, 2, 4)], let w := BitVec.ofNat 64 p.1
    let region := if p.2.1 = 2 then 2 ^ 40 else 0
    kindOf w.toNat ≠ none ∧ leafOk 3 served.early (w.getLsbD 24)
      (BitVec.ofNat 128 (w.toNat + (p.2.2 * 2 ^ 46 + served.homeDie 2 * 2 ^ 43 + region) / 2 ^ 16 * 2 ^ 64)) = true) ∧
    (served.mapPages ⟨3, 0x10000⟩ (served.homeDie 2) (2 ^ 47) 0x80B1F 2).isSome = true ∧
    ({ served with pages := [(8, poolSize 0)] }.mapPages ⟨3, 0x10000⟩ (served.homeDie 2) (2 ^ 47) 0x80B1F 2).isNone = true := by
  decide +kernel

/-- Pages of one word of program text and of 100 bytes of data. -/
theorem witness_SystemCalls_pages : (served.placeBytes ⟨3, 0x10000⟩ 1 (2 ^ 47 + 2 ^ 16) textWord (leBytes 12 1)).isSome = true ∧
    (served.mapPages ⟨3, 0x10000⟩ 1 (2 ^ 47 + 2 ^ 16) dataWord 1).isSome = true := by decide +kernel

/-- A launch that has ended and one that runs; a wait at its end, and before it. -/
theorem witness_SystemCalls_launches : (∀ st ∈ [LSt.ended 0, .running], let s : State := { served with launches := [(4, { aLaunch st with app := 7 })] }
      ((s.launchOf 7 9).map (·.st)) = some st) ∧
    (∀ n ∈ [5, 6], let s : State := { served with waits := [⟨7, 9, 3, some 6⟩], now := n }
      s.waits = [⟨7, 9, 3, some 6⟩] ∧ (6 ≤ s.now ↔ n = 6)) := by decide

end

end Sys2Proof.Tests
end

section
/-! SUPPORT. A memory after a write of a list of bytes, read byte by byte and as a little-endian value; the reset state. -/

namespace Sys2Proof.Machine

theorem Mem.writeBytes_cons (m : Mem) (a : Nat) (b : Byte) (bs : List Byte) :
    m.writeBytes a (b :: bs) = (m.set a b).writeBytes (a + 1) bs := rfl

theorem Mem.read_succ (m : Mem) (a n : Nat) : m.read a (n + 1) = (m.get a).toNat + 256 * m.read (a + 1) n := rfl

/-- Bytes written one after another from a leave every address outside their range alone. -/
theorem Mem.get_writeBytes_out (m : Mem) (a x : Nat) (bs : List Byte) (h : m.wf = true) (hx : x < a ∨ a + bs.length ≤ x) :
    (m.writeBytes a bs).get x = m.get x := by
  induction bs generalizing m a with
  | nil => rfl
  | cons b bs ih =>
    rw [List.length_cons] at hx
    rw [Mem.writeBytes_cons, ih _ _ (Mem.wf_set _ _ _ h) (by omega), Mem.get_set_ne _ _ h (by omega)]

/-- The byte at position i of the list lies at address a + i: no later byte of the list overwrites it. -/
theorem Mem.get_writeBytes_add (m : Mem) (a i : Nat) (bs : List Byte) (h : m.wf = true) (hi : i < bs.length) :
    (m.writeBytes a bs).get (a + i) = bs.getD i 0 := by
  induction bs generalizing m a i with
  | nil => exact absurd hi (Nat.not_lt_zero i)
  | cons b bs ih =>
    have hwf := Mem.wf_set m a b h
    rw [Mem.writeBytes_cons]
    cases i with
    | zero =>
      rw [Nat.add_zero a, Mem.get_writeBytes_out _ _ _ _ hwf (.inl (by omega)), Mem.get_set_same _ _ _ h,
        List.getD_cons_zero]
    | succ i =>
      rw [← Nat.add_assoc, Nat.add_right_comm, ih _ _ _ hwf (Nat.lt_of_succ_lt_succ hi), List.getD_cons_succ]

theorem Mem.get_writeBytes (m : Mem) (a x : Nat) (bs : List Byte) (h : m.wf = true) :
    (m.writeBytes a bs).get x = if a ≤ x ∧ x < a + bs.length then bs.getD (x - a) 0 else m.get x := by
  split
  · next hx =>
    have hat := Mem.get_writeBytes_add m a (x - a) bs h (by omega)
    rwa [Nat.add_sub_cancel' hx.1] at hat
  · next hx => exact Mem.get_writeBytes_out m a x bs h (by omega)

/-- The little-endian bytes of a value, written as a list, are the value written (R4). -/
theorem Mem.writeBytes_leBytes (m : Mem) (a n v : Nat) : m.writeBytes a (leBytes n v) = m.write a n v := by
  induction n generalizing m a v with
  | zero => rfl
  | succ n ih => exact ih _ _ _

/-- No core is listed after reset: each is the empty core. -/
theorem State.core_reset (c : Nat) : State.reset.core c = .empty := rfl

/-- The one step planned at reset is the machine's own: it is no Pyrdal instruction and has no word. -/
theorem State.planned_reset : State.reset.planned := by
  intro e he
  rw [List.mem_singleton.1 he]
  rfl

end Sys2Proof.Machine

namespace Sys2Proof.Settled

open Sys2Proof.Machine

/-- Settles O15: each byte lies where it was written because no later byte of the list touches its address, and the
little-endian bytes of a value are the value written. -/
theorem memoryReadsBackWrites : Obligations.MemoryReadsBackWrites := by
  intro m a n v bs h
  refine ⟨Mem.wf_writeBytes m a bs h, fun x => Mem.get_writeBytes m a x bs h, ?_, Mem.read_succ m a n⟩
  rw [Mem.writeBytes_leBytes, Mem.read_write_same m a n v h]

/-- Settles O40: the fields are those of the reset state, whose memories are empty and whose cores are all the empty core. -/
theorem reset : Obligations.Reset := by
  have hmem : State.reset.memOk = true := by
    obtain ⟨hglobal, happ⟩ := State.reset_memOk
    rw [State.memOk, hglobal, happ, Bool.and_self]
  refine ⟨rfl, rfl, rfl, rfl, hmem, State.planned_reset, rfl, fun c => ⟨?_, fun _ => rfl⟩⟩
  rw [State.core_reset]
  rfl

end Sys2Proof.Settled
end

section
/-! SUPPORT. Encodings of an FP format and its rounding: what a format, a quantum and an encoding give in each case; a value
that lies on its own quantum is delivered unrounded (R74 step 1). -/

namespace Sys2Proof.Machine.Num

theorem valOf_of_fmt {t : ETy} {f : Fmt} (h : fmt t = some f) (b : Nat) : valOf t b = (f.val b, false) := by
  simp only [valOf, h]

theorem roundTo_zero {t : ETy} {f : Fmt} (h : fmt t = some f) (env : Env) (neg : Bool) (e : Int) :
    roundTo t env neg 0 e = ⟨f.zeroB neg, 0, false⟩ := by
  simp only [roundTo, h, if_true]

theorem roundTo_of_ne_zero {t : ETy} {f : Fmt} (h : fmt t = some f) (env : Env) (neg : Bool) {m : Nat} (hm : m ≠ 0) (e : Int) :
    roundTo t env neg m e = f.round t env neg m e := by
  simp only [roundTo, h, if_neg hm]

theorem isSub_of_fmt {t : ETy} {f : Fmt} (h : fmt t = some f) (b : Nat) : isSub t b = (flushes t && f.isSub b) := by
  simp only [isSub, h]

@[simp] theorem flagIf_false (x : BitVec 5) : flagIf false x = 0 := rfl

/-- A value on its own quantum is exact in every mode. -/
@[simp] theorem quant_self (rm : Nat) (neg : Bool) (m : Nat) (e : Int) : quant rm neg m e e = (m, false) := by
  simp [quant]

theorem Fmt.frac_lt (f : Fmt) (b : Nat) : f.frac b < 2 ^ f.fb := Nat.mod_lt _ (Nat.two_pow_pos _)

theorem Fmt.expo_lt (f : Fmt) (b : Nat) : f.expo b < 2 ^ f.eb := Nat.mod_lt _ (Nat.two_pow_pos _)

/-- The encoding of a sign over a magnitude (exponent field above fraction), the ignored low bits zero (R62 to R64). -/
def Fmt.pack (f : Fmt) (neg : Bool) (mag : Nat) : Nat := ((if neg then 2 ^ (f.eb + f.fb) else 0) + mag) <<< f.low

theorem Fmt.pack_zero (f : Fmt) (neg : Bool) : f.pack neg 0 = f.zeroB neg := by
  cases neg with
  | false => simp [Fmt.pack, Fmt.zeroB]
  | true => simp [Fmt.pack, Fmt.zeroB, Nat.shiftLeft_eq, ← Nat.pow_add, Nat.add_comm, Nat.add_left_comm]

/-- An encoding whose ignored low bits are zero has nothing but its sign, exponent and fraction. -/
theorem Fmt.pack_fields (f : Fmt) {b : Nat} (hb : b < 2 ^ f.width) (hlow : b % 2 ^ f.low = 0) :
    f.pack (f.sign b) (f.expo b * 2 ^ f.fb + f.frac b) = b := by
  have htop : b >>> (f.low + f.fb + f.eb) < 2 := by
    rw [Nat.shiftRight_eq_div_pow]
    exact Nat.div_lt_of_lt_mul (by rwa [← Nat.pow_succ])
  have hsign : (if f.sign b then 2 ^ (f.eb + f.fb) else 0) = b >>> (f.low + f.fb + f.eb) * 2 ^ (f.eb + f.fb) := by
    rw [Fmt.sign, Nat.testBit_eq_decide_div_mod_eq, ← Nat.shiftRight_eq_div_pow, Nat.mod_eq_of_lt htop]
    rcases Nat.lt_succ_iff_lt_or_eq.1 htop with h | h
    · rw [Nat.lt_one_iff.1 h, Nat.zero_mul]; rfl
    · rw [h, Nat.one_mul]; rfl
  have hexpo : b >>> (f.low + f.fb) = b >>> (f.low + f.fb + f.eb) * 2 ^ f.eb + f.expo b := by
    rw [Fmt.expo, Nat.shiftRight_add _ _ f.eb, Nat.shiftRight_eq_div_pow _ f.eb, Nat.div_add_mod']
  have hfrac : b >>> f.low = b >>> (f.low + f.fb) * 2 ^ f.fb + f.frac b := by
    rw [Fmt.frac, Nat.shiftRight_add, Nat.shiftRight_eq_div_pow _ f.fb, Nat.div_add_mod']
  calc f.pack (f.sign b) (f.expo b * 2 ^ f.fb + f.frac b)
      = (b >>> f.low) <<< f.low := by 
        rw [Fmt.pack, hsign, hfrac, hexpo]
        simp only [Nat.pow_add, Nat.add_mul, Nat.mul_assoc, Nat.add_assoc]
    _ = b := by rw [Nat.shiftLeft_eq, Nat.shiftRight_eq_div_pow, Nat.div_mul_cancel (Nat.dvd_of_mod_eq_zero hlow)]

/-- The least magnitude that is no finite value: that of infinity where the format has one, else one past all magnitudes. -/
def Fmt.limit (f : Fmt) : Nat := if f.ieee then (2 ^ f.eb - 1) * 2 ^ f.fb else 2 ^ (f.eb + f.fb)

/-- A finite value is subnormal (or zero) or normal, and lies below the limit. -/
theorem Fmt.val_eq_num {f : Fmt} {b : Nat} {n : Bool} {m : Nat} {e : Int} (h : f.val b = .num n m e) :
    n = f.sign b ∧ f.expo b * 2 ^ f.fb + f.frac b < f.limit ∧
    (f.expo b = 0 ∧ m = f.frac b ∧ e = 1 - (f.bias : Int) - f.fb ∨
      0 < f.expo b ∧ m = 2 ^ f.fb + f.frac b ∧ e = (f.expo b : Int) - f.bias - f.fb) := by
  have hx := f.expo_lt b
  have hfr := f.frac_lt b
  simp only [Fmt.val] at h
  split at h
  · split at h <;> cases h
  · next hfin =>
    have hlim : f.expo b * 2 ^ f.fb + f.frac b < f.limit := by
      have hstep {k : Nat} (hk : f.expo b < k) : f.expo b * 2 ^ f.fb + f.frac b < k * 2 ^ f.fb :=
        calc f.expo b * 2 ^ f.fb + f.frac b < (f.expo b + 1) * 2 ^ f.fb := by rw [Nat.succ_mul]; omega
          _ ≤ k * 2 ^ f.fb := Nat.mul_le_mul_right _ hk
      unfold Fmt.limit
      split
      · next hieee => exact hstep (Nat.lt_of_le_of_ne (Nat.le_sub_one_of_lt hx) fun hmax => hfin ⟨hieee, hmax⟩)
      · rw [Nat.pow_add]; exact hstep hx
    split at h
    · next h0 => cases h; exact ⟨rfl, hlim, .inl ⟨h0, rfl, rfl⟩⟩
    · next h0 => cases h; exact ⟨rfl, hlim, .inr ⟨Nat.pos_of_ne_zero h0, rfl, rfl⟩⟩

/-- A value whose quantum is its own exponent, below the limit and not flushed, is delivered as it stands with no flag. -/
theorem Fmt.round_exact (f : Fmt) (t : ETy) (env : Env) (neg : Bool) {m mag : Nat} {e : Int}
    (hq : (if e + (m.log2 : Int) < 1 - (f.bias : Int) then 1 - (f.bias : Int) else e + m.log2) - f.fb = e)
    (hmag : (e - (1 - (f.bias : Int) - f.fb)).toNat * 2 ^ f.fb + m = mag) (hlim : mag < f.limit)
    (hftz : env.ftz = false ∨ flushes t = false ∨ 1 - (f.bias : Int) ≤ e + m.log2) :
    (f.round t env neg m e).r = f.pack neg mag ∧ (f.round t env neg m e).f = 0 := by
  have hlim' : ¬ mag ≥ if f.ieee then (2 ^ f.eb - 1) * 2 ^ f.fb else 2 ^ (f.eb + f.fb) := Nat.not_le.2 hlim
  simp only [Fmt.round, hq, quant_self, hmag, if_neg hlim']
  rw [if_neg]
  · simp [Fmt.pack]
  · rcases hftz with h | h | h
    · simp [h]
    · simp [h]
    · simp [Int.not_lt.2 h]

/-- A nonzero subnormal has its leading one below the least normal exponent, so its quantum is that of the subnormals. -/
theorem Fmt.round_subnormal (f : Fmt) (t : ETy) (env : Env) (neg : Bool) {m : Nat} (hm : m ≠ 0) (hfr : m < 2 ^ f.fb)
    (hlim : m < f.limit) (hftz : env.ftz = false ∨ flushes t = false) :
    (f.round t env neg m (1 - f.bias - f.fb)).r = f.pack neg m ∧ (f.round t env neg m (1 - f.bias - f.fb)).f = 0 := by
  have hlog : m.log2 < f.fb := (Nat.log2_lt hm).2 hfr
  refine f.round_exact t env neg ?_ (by simp) hlim (hftz.imp_right .inl)
  rw [if_pos (by omega)]

/-- A normal value has its leading one at bit fb, so its quantum is its exponent and it is never tiny. -/
theorem Fmt.round_normal (f : Fmt) (t : ETy) (env : Env) (neg : Bool) {x fr : Nat} (hx : 0 < x) (hfr : fr < 2 ^ f.fb)
    (hlim : x * 2 ^ f.fb + fr < f.limit) :
    (f.round t env neg (2 ^ f.fb + fr) ((x : Int) - f.bias - f.fb)).r = f.pack neg (x * 2 ^ f.fb + fr) ∧
    (f.round t env neg (2 ^ f.fb + fr) ((x : Int) - f.bias - f.fb)).f = 0 := by
  have hlog : (2 ^ f.fb + fr).log2 = f.fb := (Nat.log2_eq_iff (by omega)).2 ⟨by omega, by omega⟩
  refine f.round_exact t env neg ?_ ?_ hlim (.inr (.inr ?_))
  · rw [hlog, if_neg (by omega)]; omega
  · have hsteps : ((x : Int) - f.bias - f.fb - (1 - f.bias - f.fb)).toNat = x - 1 := by omega
    rw [hsteps, ← Nat.add_assoc, ← Nat.succ_mul, Nat.succ_eq_add_one, Nat.sub_add_cancel hx]
  · rw [hlog]; omega

end Sys2Proof.Machine.Num

namespace Sys2Proof.Settled

open Sys2Proof.Machine

/-- Settles O10: a finite encoding is its sign over its magnitude, and a zero, a subnormal and a normal value each lie on
their own quantum, so that rounding packs the same sign and magnitude again. -/
theorem fpRepresentableRoundsToItself : Obligations.FpRepresentableRoundsToItself := by
  intro t f env b n m e hfmt hb hlow hval hftz
  rw [Num.valOf_of_fmt hfmt] at hval
  obtain ⟨rfl, hlim, hcase⟩ := Num.Fmt.val_eq_num (congrArg Prod.fst hval)
  have hpack := f.pack_fields hb hlow
  have hfr := f.frac_lt b
  rcases hcase with ⟨hx, rfl, rfl⟩ | ⟨hx, rfl, rfl⟩
  · rw [hx, Nat.zero_mul, Nat.zero_add] at hpack hlim
    by_cases hz : f.frac b = 0
    · rw [hz, Num.Fmt.pack_zero] at hpack
      rw [hz, Num.roundTo_zero hfmt]
      exact ⟨hpack, rfl⟩
    · have hflush : env.ftz = false ∨ Num.flushes t = false := hftz.imp_right fun h => by
        simpa [Num.isSub_of_fmt hfmt, Num.Fmt.isSub, hx, hz] using h
      rw [Num.roundTo_of_ne_zero hfmt _ _ hz]
      simpa only [hpack] using f.round_subnormal t env (f.sign b) hz hfr hlim hflush
  · have hm : 2 ^ f.fb + f.frac b ≠ 0 := by omega
    rw [Num.roundTo_of_ne_zero hfmt _ _ hm]
    simpa only [hpack] using f.round_normal t env (f.sign b) hx hfr hlim

end Sys2Proof.Settled
end
